-- ==== Sys2Proof/Word.lean ====
section
/-! DEFINITION. The word types of the Sylia W2 model and the numbers of its units (R5, R14, R15, R60). -/

namespace Sys2Proof

/-- One byte of memory, of a descriptor or of a message. -/
abbrev Byte := BitVec 8
abbrev W16 := BitVec 16
abbrev W32 := BitVec 32
abbrev W64 := BitVec 64

/-- Compute dies 0 to 3 (R2, R14). -/
abbrev Die := Fin 4
/-- Logical tiles 0 to 255; tile `t` lies on die `t / 64` (R17). -/
abbrev Tile := Fin 256
/-- Stacks S0 to S7; stack `s` lies on die `s / 2` (R14). -/
abbrev Stack := Fin 8
/-- Solver engines 0 to 15; engine `n` lies on die `n / 4` (R255). -/
abbrev Engine := Fin 16
/-- Group ports G0 to G6 (R14). -/
abbrev GPort := Fin 7
/-- Ethernet ports E0 and E1 (R14). -/
abbrev EPort := Fin 2
/-- Fabric ports as FAB.ERR_LOG.PORT codes them: 0 to 6 for G0 to G6, 7 for E0, 8 for E1. -/
abbrev FPort := Fin 9
/-- Host ports: 0 for A, 1 for B (R14). -/
abbrev HPort := Fin 2

end Sys2Proof
end

