-- ==== Sys2Proof/Syntax.lean ====
section
/-! DEFINITION. The commands of the block: `Instr`, one constructor for each of the 246 rows of
spec/opcode_table.json, in the table's order, and the operand types they carry. A row of the table is
one whole step of the part (spec/95_what_each_step_holds.md); its operands are what the step takes
from outside: the fields of a fetched command or descriptor, a message, or what a pin or sensor shows. -/

namespace Sys2Proof

/-- A hardware thread of the module (R60, R90): tile threads 0 to 3 are ME0 to ME3, 4 to 11 VE0 to VE7,
12 to 27 TE0 to TE15. -/
inductive ThreadId where
  | tile (t : Tile) (n : Fin 28)
  | solver (e : Engine) (n : Fin 2)
  | update (u : Stack) (n : Fin 4)
deriving DecidableEq, Repr

/-- What the part's own circuits show while a command runs, beside its operands: an on-chip word whose ECC finds one
or two bits wrong when the command reads it, a data-cache line or the command's list-cache line with bad parity
(R148), and an access of the command that reaches a word in the same cycle as another agent's (R140). -/
inductive Upset where
  | word (addr : BitVec 48) (double : Bool)
  | line (addr : BitVec 48)
  | listLine
  /-- The word, whether the command writes it, whether the other access does, and whether the command's access is the
  later one. -/
  | collide (addr : BitVec 48) (writes : Bool) (other : Bool) (later : Bool)
deriving DecidableEq, Repr

/-- The HEADER of a fetched command (R66, R67): the row names its OPCODE, or `badOp` is the OPCODE fetched where no
row names it for ENGINE; `nhdr` is the complement word as fetched, and `bodyRsv` says that some reserved byte of the
body is not 0. `upsets` are what the part's circuits show while it runs. -/
structure CmdHead where
  engine : BitVec 3
  seq : BitVec 4
  trace : Bool
  rsv11 : BitVec 1
  rsvHi : BitVec 15
  nhdr : W32
  bodyRsv : Bool
  badOp : Option (BitVec 8)
  upsets : List Upset
deriving DecidableEq, Repr

/-- Bytes of host memory that the port returned for reads of the step: a bus address and its bytes. -/
structure HostSeg where
  addr : W64
  bytes : List Byte
deriving DecidableEq, Repr

/-- The head of a descriptor as the engine takes it from a ring (R405). The row names its KIND, but where `badKind` says
that it held a reserved one: 0 for `some 0`, 6 + i for `some i`. `bodyRsv` says that a reserved byte of the body, or a
reserved OP, is not 0. -/
structure DescHead where
  port : HPort
  ring : Fin 64
  fence : Bool
  rsv : BitVec 27
  nhdr : W32
  bodyRsv : Bool
  badKind : Option (Fin 10)
deriving DecidableEq, Repr

/-- Who makes a set-up access: the host of a port, a command list's thread, or the management
controller (R397, R412, R82). -/
inductive Src where
  | host (p : HPort)
  | mgmt
  | list (t : ThreadId)
deriving DecidableEq, Repr

/-- What the ECC of a stacked-memory atom shows when it is read (R170). -/
inductive Ecc where
  | clean | single | double | addrCheck
deriving DecidableEq, Repr

/-- A bank of a scratchpad or of a shared store (R134). -/
inductive BankId where
  | scratch (t : Tile) (b : Fin 16)
  | shared (d : Die) (b : Fin 64)
deriving DecidableEq, Repr

/-- A TIL.BANK_PWR or SHS.BANK_PWRi register (R150). -/
inductive PwrReg where
  | til (t : Tile)
  | shs (d : Die) (i : Fin 4)
deriving DecidableEq, Repr

/-- What reception finds of any flit: SEQ and ACK of its header (R290), the outcome of its CRC and the symbols that error
correction corrected on lanes 0 to 8 (R291, R296), and that a new millisecond has begun since the last flit. -/
structure LinkHead where
  seq : BitVec 8
  ack : BitVec 8
  crcOk : Bool
  corrected : List Nat
  newMs : Bool
deriving DecidableEq, Repr

/-- A control flit that arrives on a group port. -/
structure CtlFlit extends LinkHead where
  port : GPort
deriving DecidableEq, Repr

/-- The header of a DATA flit, or of a flit of a KIND that no other command carries (R290). -/
structure FlitHead extends LinkHead where
  kind : BitVec 4
  vc : BitVec 3
  relay : Bool
  src : Fin 8
  dst : Fin 8
  len : BitVec 9
deriving DecidableEq, Repr

/-- One write that arrives at an NI from another module (R330, R332): for whom, of which occurrence,
where it lands, in which formats, and which counter its arrival adds to. `served` marks the data of a
GET, which the requester converts on receive (R382); `atom` holds AUX[8:0] of an ATOM_SEND, whose blocks the
receiver decodes (R337). The bytes are in the wire format. -/
structure NiWrite where
  jobId : W32
  round : W32
  key : W32
  dst : W64
  die : Die
  fmtIn : BitVec 8
  fmtOut : BitVec 8
  sr : Bool
  stream : W32
  reduce : Bool
  served : Bool
  atom : Option (BitVec 9)
  rctr : W32
  rval : W32
  data : List Byte
deriving DecidableEq, Repr

/-- How a management message reached the controller (R478). -/
inductive MsgVia where
  | i3c
  | ethernet
  | secured (session : W32)
deriving DecidableEq, Repr

/-- A unit that a reset or a retirement names (R456, R463, R465). -/
inductive UnitId where
  | tile (t : Tile)
  | solver (e : Engine)
  | update (u : Stack)
  | ni (d : Die)
  | die (d : Die)
deriving DecidableEq, Repr

/-- What made a host port depart (R415). -/
inductive DepartCause where
  | linkDown | functionReset | busMasterClear | hostErrors
deriving DecidableEq, Repr

/-- A configuration record (R482) as RECORD submits it; `sigOk` says that the signature verifies with
the key its SIGNER names, and `wellFormed` that the payload is well-formed for its KIND. -/
structure ConfigRecord where
  kind : BitVec 8
  signer : BitVec 8
  serial : W64
  counter : W32
  payload : List Byte
  digest : BitVec 256
  sigOk : Bool
  wellFormed : Bool
deriving DecidableEq, Repr

/-- A debug certificate and the opening message (R494), with what the checks of its chain show. -/
structure DebugCert where
  chainOk : Bool
  ownerIssued : Bool
  level : BitVec 2
  scope : W64
  maxSeconds : W32
  notBefore : W64
  notAfter : W64
  challenge : BitVec 256
  digest : BitVec 256
deriving DecidableEq, Repr

/-- A firmware image as written to the inactive bank of its kind (R488, R489). -/
structure FwImage where
  version : W32
  svn : W16
  digest : BitVec 256
  sigOk : Bool
deriving DecidableEq, Repr

/-- What the discovery exchange of a group port shows (R301). -/
structure HelloInfo where
  chainOk : Bool
  expiredOrReturn : Bool
  sigOk : Bool
  sysId : W32
  group : BitVec 10
  slot : Fin 8
  port : Fin 7
  serial : W32
  confirmed : Bool
deriving DecidableEq, Repr

/-- The fields of a matrix product's body (R192, R204). -/
structure MmaBody where
  m : W16
  n : W16
  k : W32
  mode : BitVec 8
  dstop : BitVec 8
  enf : BitVec 8
  zbit : W16
  obit : W16
deriving DecidableEq, Repr

/-- The commands of the block, one for each row of the table of operations and events. -/
inductive Instr where
  -- the beat and its schedule
  /-- A pulse on the beat input: its width in ns and the time since the pulse before it, in 1/16 ns. -/
  | beatPulse (widthNs : W16) (interval : BitVec 48)
  /-- A BEAT_MARKER flit on a group port: value and complement words, and the time since the last. -/
  | beatMarker (p : CtlFlit) (value : W64) (comp : W64) (interval : BitVec 48)
  | localBeat
  | holdoverEntry
  | beatLost
  | beatCfgWrite (src : Src) (value : W32)
  | resync (src : Src)
  | wakeEntry (i : Fin 256)
  | accordCommit (i : Fin 256)
  | releaseEntry (d : Die) (i : Fin 1024)
  | deadlineRefresh (d : Die) (i : Fin 1024)
  | deadlineJob (d : Die) (i : Fin 1024)
  | refreshLaunch (d : Die) (i : Fin 1024)
  | collectiveLaunch (d : Die) (i : Fin 1024)
  | exportEntry (d : Die) (i : Fin 1024)
  -- common commands of the threads
  | nop (t : ThreadId) (h : CmdHead)
  | endCmd (t : ThreadId) (h : CmdHead)
  | wait (t : ThreadId) (h : CmdHead) (addr : W64) (mask : W32) (cond : BitVec 8) (limit : W16)
  | waitWake (t : ThreadId)
  | watchPoll (t : ThreadId)
  | eventLimit (t : ThreadId)
  | signal (t : ThreadId) (h : CmdHead) (addr : W64) (value : W32) (mode : BitVec 8)
  | waitBeat (t : ThreadId) (h : CmdHead) (position : W64) (form : BitVec 8)
  | waitBeatEnd (t : ThreadId)
  | skipIfFlag (t : ThreadId) (h : CmdHead) (addr : W64) (mask : W32) (cond : BitVec 8) (count : BitVec 8)
  | regWrite (t : ThreadId) (h : CmdHead) (reg : W32) (width : BitVec 8) (data : W64)
  | acquire (t : ThreadId) (h : CmdHead) (addr : W64) (length : W32)
  | release (t : ThreadId) (h : CmdHead) (addr : W64) (length : W32)
  | fence (t : ThreadId) (h : CmdHead)
  | loop (t : ThreadId) (h : CmdHead) (count : W32) (body : W16) (baseSel : BitVec 8) (stride : W32)
  | link (t : ThreadId) (h : CmdHead) (addr : W64)
  | mark (t : ThreadId) (h : CmdHead) (value : W32)
  /-- A line of the program image (byte offset ÷ 256) reaches the thread's list cache. -/
  | listFill (t : ThreadId) (line : BitVec 22)
  -- transfer commands
  | teCopy (t : ThreadId) (h : CmdHead) (rec : W32)
  | teDispatch (t : ThreadId) (h : CmdHead) (rec : W32)
  | teRowcopy (t : ThreadId) (h : CmdHead) (rec : W32)
  | stackRequestAccept (s : Stack) (ch : Fin 128)
  | requestPromote (s : Stack) (ch : Fin 128) (i : Fin 96)
  | stackRequestDone (s : Stack) (ch : Fin 128) (ecc : Ecc)
  -- jobs
  | job (d : DescHead) (block : W64) (data : List HostSeg)
  | jobStart (handle : W32)
  | jobZeroed (handle : W32)
  | quench (d : DescHead) (handle : W32)
  | evictImage (d : DescHead) (digest : BitVec 256)
  | imageEvicted (digest : BitVec 256)
  -- on-chip and stacked memory control
  | bankOwnerWrite (src : Src) (bank : BankId) (value : W64)
  | bankPwrWrite (src : Src) (r : PwrReg) (value : W32)
  | bankTransitionDone (bank : BankId)
  | memCompatWrite (src : Src) (t : Tile) (value : W32)
  | compatWakeDone (t : Tile)
  | regionWrite (src : Src) (n : Fin 64) (hi : Bool) (value : W64)
  /-- Patrol scrub reads the atom at this stack offset and row of a channel, with what its ECC shows. -/
  | scrubRead (s : Stack) (offset : BitVec 36) (ecc : Ecc)
  | spareRowRepair (s : Stack) (pch : Fin 132) (bank : Fin 16) (row : W32)
  /-- The repair of a logical channel; `wake` says that a wake arrives while it runs (R176). -/
  | channelReplace (s : Stack) (ch : Fin 128) (wake : Bool)
  | channelDown (s : Stack) (ch : Fin 128)
  -- the matrix engine
  | mxOpnd (t : ThreadId) (h : CmdHead) (addr : W64) (slot : BitVec 8) (format : BitVec 8) (flags : BitVec 8) (pitch : W32)
  | mxMma (t : ThreadId) (h : CmdHead) (b : MmaBody)
  | mxNormBwd (t : ThreadId) (h : CmdHead) (b : MmaBody) (flags : BitVec 8) (sigma : W32)
  | mxSoftmaxBwd (t : ThreadId) (h : CmdHead) (b : MmaBody) (flags : BitVec 8) (sigma : W32)
  | enfFlush (t : ThreadId) (h : CmdHead)
  | arrayGrant (t : Tile)
  | osDrainDone (t : Tile)
  | fusedStepDone (t : Tile) (n : Fin 4)
  -- the vector engine
  | veOp (t : ThreadId) (h : CmdHead) (op : BitVec 8) (fmt : BitVec 8) (count : W16) (d a b c : W16) (rowlen : W16) (imm : W32)
  | veRed (t : ThreadId) (h : CmdHead) (op : BitVec 8) (fmt : BitVec 8) (count : W16) (d a b : W16) (seg : W16) (flags : BitVec 8)
  | veLd (t : ThreadId) (h : CmdHead) (addr : W64) (tb : W16) (bytes : W32)
  | veSt (t : ThreadId) (h : CmdHead) (addr : W64) (tb : W16) (bytes : W32)
  | veSc (t : ThreadId) (h : CmdHead) (op : BitVec 8) (fmt : BitVec 8) (d a b : BitVec 8) (addr : W64) (imm : W32)
  -- Enfleurage
  | enfDrainLand (t : Tile) (set : Fin 2)
  | enfEpochWrite (src : Src) (t : Tile) (value : W32)
  -- solver commands and operations
  | svBegin (t : ThreadId) (h : CmdHead) (refresh : W16)
  | svRun (t : ThreadId) (h : CmdHead) (rec : W32)
  | svEnd (t : ThreadId) (h : CmdHead) (refresh : W16)
  | chol (e : Engine)
  | ldlt (e : Engine)
  | trsv (e : Engine)
  | trsm (e : Engine)
  | invRoot (e : Engine)
  | inv (e : Engine)
  | eigbasis (e : Engine)
  | solveLs (e : Engine)
  | slotLoad (e : Engine)
  | slotInit (e : Engine)
  | solverStepEnd (e : Engine)
  | borrowedChunk (e : Engine) (t : Tile)
  | pinWrite (src : Src) (d : Die) (pin : Fin 256) (value : W64)
  -- group links
  | dataFlit (p : GPort) (h : FlitHead) (landed : Option NiWrite)
  | credit (p : CtlFlit) (counts : BitVec 96) (comp : BitVec 96)
  | heartbeat (p : CtlFlit) (value : W32) (comp : W32)
  | heartbeatSend (p : GPort)
  /-- A QUENCH flit on a port, or message (none), with the system job identity and complement. -/
  | quenchFlit (p : Option CtlFlit) (jobId : W32) (comp : W32)
  | wakeFlit (p : CtlFlit) (value : W32) (comp : W32)
  | park (p : CtlFlit) (value : W32) (comp : W32)
  | hello (p : GPort) (i : HelloInfo)
  | helloTimeout (p : GPort)
  | signalDetect (p : GPort)
  | trainFail (p : GPort)
  | trainRetry (p : GPort)
  | laneCheckFail (p : GPort) (lane : Fin 9)
  | swapDone (p : GPort)
  | partnerDeparted (p : GPort)
  | portEnWrite (src : Src) (p : FPort) (value : W32)
  | retrain (src : Src) (p : FPort)
  | remoteAccess (p : FPort) (jobId : W32) (write : Bool) (addr : W64) (length : W32) (data : List Byte)
  -- Ethernet
  | ethMessage (e : EPort) (remote : W16) (vc : Fin 6) (seq : W32) (landed : Option NiWrite)
  | qpOpen (remote : W16) (i : HelloInfo)
  | cnpReceived (e : EPort) (remote : W16) (halvedWithin50us : Bool)
  | rateRecover (e : EPort) (remote : W16)
  | ethLinkDown (e : EPort)
  | ethRetransmit (e : EPort) (remote : W16)
  -- collectives
  | occurrenceStart (d : Die) (handle : W32)
  | ready (source : W16) (jobId : W32) (round : W32) (key : W32) (sig : W32)
  | niRetry (d : Die)
  | send (d : Die) (i : Fin 4096)
  | sendReduce (d : Die) (i : Fin 4096)
  | get (d : Die) (i : Fin 4096)
  | getServe (d : Die) (source : W16) (jobId : W32) (entry : W16) (gen : W16) (addr : W64) (bytes : W32) (fmtIn : BitVec 8) (reqId : W32)
  | generationGone (d : Die) (i : Fin 4096)
  | trigSignal (d : Die) (i : Fin 4096)
  | add (d : Die) (i : Fin 4096)
  | atomSend (d : Die) (i : Fin 4096)
  | join (d : Die) (i : Fin 4096)
  | joinMessage (d : Die) (source : W16) (jobId : W32) (round : W32) (key : W32) (i : Fin 4096) (values : List W64)
  | normsq (d : Die) (i : Fin 4096)
  | gnsCopy (d : Die) (i : Fin 4096)
  | trigReady (d : Die) (i : Fin 4096)
  | done (d : Die) (i : Fin 4096)
  | occurrenceRelease (d : Die) (handle : W32) (round : W32) (key : W32)
  | gnsClear (src : Src) (d : Die) (layer : Fin 256) (value : W64)
  -- the update unit
  | uuOpen (t : ThreadId) (h : CmdHead) (rec : W32) (mode : BitVec 8)
  | uuBlocks (t : ThreadId) (h : CmdHead) (rec : W32) (first : W32) (count : W16)
  | uuClose (t : ThreadId) (h : CmdHead) (rec : W32)
  | uuNorm (t : ThreadId) (h : CmdHead) (rec : W32) (first : W32) (count : W16)
  | uuInit (t : ThreadId) (h : CmdHead) (rec : W32) (first : W32) (count : W16) (gen : W16)
  | weightGroupLanded (u : Stack)
  | retainDiscard (src : Src) (d : Die) (value : W32)
  | retainDiscardTag (src : Src) (d : Die) (value : W64)
  -- the host interface
  | doorbellPoll (p : HPort) (ring : Fin 64) (sqTail : W32) (cqHead : W32)
  | nudge (p : HPort) (offset : BitVec 12) (sqTail : W32) (cqHead : W32)
  | transfer (d : DescHead) (host : W64) (mod : W64) (bytes : W32) (dir : BitVec 8) (tag : W16) (handle : W32) (flagBits : W32) (flag : W64) (data : List Byte)
  | solver (d : DescHead) (handle : W32) (refresh : W16)
  | exportDesc (d : DescHead) (rec : W64) (host : W64) (cap : W64) (tag : W16)
  | power (d : DescHead) (target : BitVec 8) (wakeAt : W64)
  | echo (d : DescHead)
  | coalesceTimeout (p : HPort) (cq : Fin 64)
  | sqCfgWrite (src : Src) (p : HPort) (ring : Fin 64) (value : W32)
  | cqCfgWrite (src : Src) (p : HPort) (ring : Fin 64) (value : W32)
  -- Accord
  | begin (src : Src) (c : Fin 3) (comp : W32)
  | commit (src : Src) (c : Fin 3) (comp : W32)
  | commitAt (src : Src) (c : Fin 3) (comp : W32)
  | rollback (src : Src) (c : Fin 3) (comp : W32)
  | accordTimeout (c : Fin 3)
  | hostDeparted (p : HPort) (cause : DepartCause)
  | registerWrite (src : Src) (offset : W32) (size : BitVec 8) (value : W64)
  -- supply, clock plans and temperature
  | supplyWarn (mv : W16)
  | supplyRecover (mv : W16)
  | supplyReset (mv : W16)
  | supplyOvervolt (mv : W16)
  | thermalThrottle (d : Die)
  | planStepUp
  | coolantHigh
  | thermalTrip
  | leakDetected
  -- power states
  | idleEntry
  | autoIdle
  | sleepEntry
  | deepSleepEntry
  | forceTimeout
  | offEntry
  | runRequest
  | idleExit
  | sleepExit
  | deepSleepExit (measuresOk : Bool)
  | wakePin (lowNs : W32)
  | wakeReplayed
  | powerGoodFailed
  | powerGoodRetry
  -- faults and spares
  | tileFault (t : Tile)
  | tileSpared (t : Tile) (measureOk : Bool) (selfTestOk : Bool)
  | tileRetire (t : Tile)
  | unitRetired (u : UnitId)
  | phaseFailed (rail : Fin 16)
  | lockstepMismatch
  -- the hang monitor
  | hangSample
  | hangDeclared (handle : W32)
  | stallDeclared (handle : W32)
  | fabricQuiet (handle : W32)
  | escalateReset (u : UnitId)
  -- resets
  | tileReset (t : Tile)
  | solverReset (e : Engine)
  | niReset (d : Die)
  | channelReset (s : Stack) (ch : Fin 128) (up : Bool)
  | portReset (p : FPort)
  | dieReset (d : Die)
  | moduleReset
  | logSummary
  -- management messages
  | readReg (via : MsgVia) (offset : W32) (size : BitVec 8)
  | writeReg (via : MsgVia) (offset : W32) (size : BitVec 8) (value : W64)
  | mgmtPower (via : MsgVia) (target : BitVec 3) (force : Bool) (wakeAt : Option W64)
  /-- RESET writes DIE.RESET of a die, or resets the module. -/
  | reset (via : MsgVia) (d : Die) (domain : BitVec 3) (unit : BitVec 8) (wholeModule : Bool)
  | record (via : MsgVia) (r : ConfigRecord)
  | logRead (via : MsgVia) (dumps : Bool) (index : W32)
  | debugChallenge (via : MsgVia)
  | debugOpen (via : MsgVia) (c : DebugCert)
  | debugClose (via : MsgVia)
  | debugSessionExpire
  | memRead (via : MsgVia) (addr : W64) (length : W16)
  | memWrite (via : MsgVia) (addr : W64) (data : List Byte)
  -- SPDM
  | getVersion (via : MsgVia)
  | getCapabilities (via : MsgVia)
  | negotiateAlgorithms (via : MsgVia) (p256 sha256 secp256r1 aes256gcm : Bool)
  | getDigests (via : MsgVia)
  | getCertificate (via : MsgVia) (slot : Fin 8)
  | challenge (via : MsgVia) (slot : Fin 8) (nonce : BitVec 256)
  | getMeasurements (via : MsgVia) (index : BitVec 8) (signed : Bool) (nonce : BitVec 256)
  | keyExchange (via : MsgVia) (session : W32)
  | finish (via : MsgVia) (session : W32) (ownerChained : Bool) (adeysChained : Bool)
  | endSession (via : MsgVia) (session : W32)
  | spdmHeartbeat (via : MsgVia) (session : W32)
  -- firmware
  | firmwareUpdate (via : MsgVia) (kind : Fin 3) (i : FwImage)
  | activate (mask : BitVec 3) (ok : Bool)
  | unitReload (kind : Fin 3) (u : UnitId) (measureOk : Bool)
  | ratchet (src : Src) (mask : BitVec 3) (comp : W32)
  | coldBoot (slot : Fin 8) (group : BitVec 10)
  -- observation
  | sillageSample (u : UnitId)
  | sillageEnable (src : Src) (value : W64)
  | snapshot (src : Src) (value : W32)
  | freeze (src : Src) (value : W32)
  | clear (src : Src) (value : W32)
  -- pins, links and sensors
  /-- The module is inserted; the straps read at the cold boot that begins (R289, R528). -/
  | insertion (slot : Fin 8) (group : BitVec 10)
  | removal
  | hostReadCompletion (p : HPort) (addr : W64) (ok : Bool) (data : List Byte) (thirdErrorIn10ms : Bool)
  | hostPortReturns (p : HPort) (speed : BitVec 2) (width : BitVec 5)
  | trainingComplete (p : GPort) (width4 : Bool) (latencyNs : W16)
  | ethLinkUp (e : EPort)
  | qpClose (remote : W16)
  | inputHeld40v
  | spareColumnGroupRepair (s : Stack) (pch : Fin 132) (bank : Fin 16)
  | spareTsvLaneRepair (s : Stack) (pch : Fin 132)
  | dieLinkReplayLimit (d : Die) (other : Die)
  | spdmHeartbeatMissed (session : W32)
  | consoleCommand (text : List Byte)
  | neighbourSolicitation (e : EPort) (target : BitVec 128)
  | pfcPause (e : EPort) (priority : Fin 8) (paused : Bool)
  | coolantInletBelow42c
  | leakSensorDry
deriving DecidableEq, Repr

end Sys2Proof
end

