-- ==== Sys2Proof/Config.lean ====
section
/-! DEFINITION. What the manual leaves open: the free values. Each is a constant without a body, so that
nothing can be proved of its value. The step gives each use a fresh token from State.freeCtr, the
model's own counter, and an index within the use (notes/assumptions/2). -/

namespace Sys2Proof.Config

/-- Which of two representable neighbours a faithful rounding takes (R116, R123), and every other choice
between two outcomes that the manual leaves open. -/
opaque freeBit : Nat → Nat → Bool

/-- A 32-bit value that the manual bounds or does not state; where it bounds it, the operation takes it
only within the bound (R127, R128, R129). -/
opaque freeWord : Nat → Nat → BitVec 32

/-- A byte whose contents the manual calls unspecified or undefined (R85, R140, R206, R232, R265). -/
opaque freeByte : Nat → Nat → BitVec 8

/-- A choice among several outcomes, as a number the operation reduces to its range. -/
opaque freeNat : Nat → Nat → Nat

/-- The 32 bytes of a fresh challenge or nonce (R479, R301). -/
opaque freshNonce : Nat → BitVec 256

/-- A signature by the key of a certificate slot, 0 the module identity key and 1 to 4 the dies', over a digest (R480,
R481, R487): its bits are not the manual's. -/
opaque slotSign : Nat → BitVec 256 → BitVec 512

/-- What a measurement covers that the manual does not spell out: the boot ROM identity (R484). -/
opaque romDigest : BitVec 256

/-- The certificate chain of a slot, as SPDM answers it (R487). -/
opaque chainBytes : Nat → List (BitVec 8)

/-- The order of this module requires an OWNER record before DEPLOYED (R492). -/
opaque ownerRequired : Bool

end Sys2Proof.Config
end

