-- ==== Sys2Proof/Machine/Regs.lean ====
section
/-! DEFINITION. The set-up registers: where each lies in BAR0 (R398) and what its fields allow (R9, and the
register tables of every chapter). A register is named by its BAR0 offset; `desc` answers none where
nothing lies. -/

namespace Sys2Proof.Regs

/-- A set-up register: its width in bits, its reset value (for an RWG register, of its value half), and the
masks of its RW, W1C and WO bits. `guarded` marks RWG, `listed` the registers a command list may write. -/
structure Desc where
  width : Nat
  reset : Nat := 0
  rw : Nat := 0
  w1c : Nat := 0
  wo : Nat := 0
  guarded : Bool := false
  listed : Bool := false
deriving DecidableEq, Repr

def ro (w : Nat) (reset : Nat := 0) : Option Desc := some ⟨w, reset, 0, 0, 0, false, false⟩
/-- A FAULT or ERR_LOG register: read-only fields and VALID at bit 31, W1C. -/
def faultReg (w : Nat) (reset : Nat := 0) : Option Desc := some ⟨w, reset, 0, 0x80000000, 0, false, false⟩
def rwr (w reset mask : Nat) (listed : Bool := false) : Option Desc := some ⟨w, reset, mask, 0, 0, false, listed⟩
def guardReg (reset mask : Nat) (listed : Bool := false) : Option Desc := some ⟨64, reset, mask, 0, 0, true, listed⟩

/-! ### Offsets (R398) -/

def hifPort (p : Nat) : Nat := p * 0x2000
def ring (p n : Nat) : Nat := hifPort p + 0x40 * n
def sqBase (p n : Nat) : Nat := ring p n
def cqBase (p n : Nat) : Nat := ring p n + 0x08
def ringDb (p n : Nat) : Nat := ring p n + 0x10
def sqCfg (p n : Nat) : Nat := ring p n + 0x18
def cqCfg (p n : Nat) : Nat := ring p n + 0x1C
def ringStatus (p n : Nat) : Nat := ring p n + 0x20
def hwin (p : Nat) : Nat := hifPort p + 0x1000
def hifPortStatus (p : Nat) : Nat := hifPort p + 0x1008
def adopt (p : Nat) : Nat := hifPort p + 0x100C
def accord (c : Nat) : Nat := 0x4000 + 0x40 * c
def accordCmd (c : Nat) : Nat := accord c
def accordBeat (c : Nat) : Nat := accord c + 0x08
def accordStatus (c : Nat) : Nat := accord c + 0x10
def accordBad (c : Nat) : Nat := accord c + 0x18
def hifErrLog : Nat := 0x5000
def beatCfg : Nat := 0x10000
def beatDelay : Nat := 0x10004
def beatCtrl : Nat := 0x10008
def beatStatus : Nat := 0x1000C
def beatPos : Nat := 0x10010
def beatInterval : Nat := 0x10018
def beatAdm : Nat := 0x10020
def updStatus (u : Nat) : Nat := 0x11000 + 0x40 * u
def updFault (u : Nat) : Nat := 0x11008 + 0x40 * u
def retain (d : Nat) : Nat := 0x11400 + 8 * d
def retainQ (d : Nat) : Nat := 0x11440 + 8 * d
/-- The FAB block of a port: 0 to 6 G0 to G6; 7 and 8 E0 and E1 (at 0x0800 and 0x0900). -/
def fabPort (p : Nat) : Nat := if p < 7 then 0x12000 + 0x100 * p else 0x12800 + 0x100 * (p - 7)
def portCtrl (p : Nat) : Nat := fabPort p
def portStatus (p : Nat) : Nat := fabPort p + 0x08
def vcWeight (p : Nat) : Nat := fabPort p + 0x10
def creditReg (p : Nat) : Nat := fabPort p + 0x18
def fabStrap : Nat := 0x13000
def hbCfg : Nat := 0x13004
def fabErrLog : Nat := 0x13010
def ethPrefix : Nat := 0x13040
def ethCfg : Nat := 0x13048
def topo (s : Nat) : Nat := 0x13100 + 8 * s
def pwrState : Nat := 0x14000
def pwrReq : Nat := 0x14008
def pwrWakeAt : Nat := 0x14010
def pwrPlan : Nat := 0x14018
def pwrWakeEn : Nat := 0x1401C
def scrubCfg : Nat := 0x18000
def memErrLog : Nat := 0x18010
def memErrAddr : Nat := 0x18018
def rgnLo (n : Nat) : Nat := 0x19000 + 16 * n
def rgnHi (n : Nat) : Nat := 0x19008 + 16 * n
def stkStatus (s : Nat) : Nat := 0x1C000 + 0x400 * s
def chRemap (s : Nat) : Nat := 0x1C004 + 0x400 * s
def mgtStatus : Nat := 0x20000
def fwReg (k : Nat) : Nat := 0x20008 + 8 * k
def fwCtrl : Nat := 0x20020
def secMeas (i : Nat) : Nat := 0x30000 + 32 * i
def secDebug : Nat := 0x30200
def secRtc : Nat := 0x30208
def die (d : Nat) : Nat := 0x40000 + 0x4000 * d
def hangCfg (d : Nat) : Nat := die d
def hangStatus (d : Nat) : Nat := die d + 0x08
def dieSpares (d : Nat) : Nat := die d + 0x10
def dieReset (d : Nat) : Nat := die d + 0x18
def shs (d : Nat) : Nat := 0x50000 + 0x1000 * d
def shsOwner (d b : Nat) : Nat := shs d + 8 * b
def shsPwr (d i : Nat) : Nat := shs d + 0x200 + 4 * i
def shsFault (d : Nat) : Nat := shs d + 0x210
def ni (d : Nat) : Nat := 0x54000 + 0x2000 * d
def niHead (d : Nat) : Nat := ni d
def niFree (d : Nat) : Nat := ni d + 0x08
def niFault (d : Nat) : Nat := ni d + 0x10
def gnsA (d l : Nat) : Nat := ni d + 0x1000 + 16 * l
def gnsB (d l : Nat) : Nat := ni d + 0x1008 + 16 * l
def slv (d : Nat) : Nat := 0x5C000 + 0x2000 * d
def slvStatus (d e : Nat) : Nat := slv d + 0x40 * e
def slvFault (d e : Nat) : Nat := slv d + 0x08 + 0x40 * e
def pin (d i : Nat) : Nat := slv d + 0x1000 + 8 * i
def obs : Nat := 0x400000
def obsTile (t eng k : Nat) : Nat := obs + 0x1000 * t + 0x100 * eng + 8 * k
def obsDie (d : Nat) : Nat := obs + 0x100000 + 0x10000 * d
def obsSolver (d e k : Nat) : Nat := obsDie d + 0x100 * e + 8 * k
def obsUpdate (u k : Nat) : Nat := obsDie (u / 2) + 0x400 + 0x100 * (u % 2) + 8 * k
def obsNi (d k : Nat) : Nat := obsDie d + 0x600 + 8 * k
def obsTotal (d i : Nat) : Nat := obsDie d + 0x800 + 8 * i
def obsSlotH (d j : Nat) : Nat := obsDie d + 0xC00 + 8 * j
def obsSlot (d j i : Nat) : Nat := obsDie d + 0x1000 + 0x100 * j + 4 * i
def obsChannel (s c k : Nat) : Nat := obs + 0x200000 + 0x2000 * s + 0x40 * c + 8 * k
/-- The counters of a fabric port: 0 to 6 G0 to G6, 7 and 8 E0 and E1 (which the map numbers 8 and 9). -/
def obsPort (p k : Nat) : Nat := obs + 0x210000 + 0x100 * (if p < 7 then p else p + 1) + 8 * k
def obsCtrl : Nat := obs + 0x300000
def silCtrl : Nat := obs + 0x300008
def silCfg : Nat := obs + 0x300010
def silBase : Nat := obs + 0x300018
def silWr : Nat := obs + 0x300020
def silRd : Nat := obs + 0x300028
def silDrop : Nat := obs + 0x300030
def silTiles (i : Nat) : Nat := obs + 0x300040 + 8 * i
def snapBase : Nat := obs + 0x300080
def snapCtrl : Nat := obs + 0x300088
def snapCfg : Nat := obs + 0x30008C
def til (t : Nat) : Nat := 0x1000000 + 0x1000 * t
def tilOwner (t b : Nat) : Nat := til t + 0x100 + 8 * b
def tilPwr (t : Nat) : Nat := til t + 0x180
def memCompat (t : Nat) : Nat := til t + 0x184
def tilMemFault (t : Nat) : Nat := til t + 0x188
def meCtrl (t : Nat) : Nat := til t + 0x200
def meFault (t : Nat) : Nat := til t + 0x208
def veFault (t : Nat) : Nat := til t + 0x280
def enf (t : Nat) : Nat := 0x1100000 + 0x1000 * t
/-- ENF.CTXn_A to _D as part 0 to 3. -/
def enfCtx (t n part : Nat) : Nat := enf t + 32 * n + 8 * part
def enfEpoch (t : Nat) : Nat := enf t + 0x800
def layerEn (t i : Nat) : Nat := enf t + 0x840 + 4 * i
def enfSetStatus (t : Nat) : Nat := enf t + 0x880

/-! ### What lies where -/

def all32 : Nat := 0xFFFFFFFF
def all64 : Nat := 0xFFFFFFFFFFFFFFFF
def allBase : Nat := 0xFFFFFFFFFFFFF000
def allDb : Nat := 0xFFFFFFFFFFFFFFC0

def hifRing (r : Nat) : Option Desc :=
  if r = 0x00 then rwr 64 0 allBase
  else if r = 0x08 then rwr 64 0 allBase
  else if r = 0x10 then rwr 64 0 allDb
  else if r = 0x18 then rwr 32 0xC 0x7FF
  else if r = 0x1C then rwr 32 0xC all32
  else if r = 0x20 then ro 64
  else none

def hif (o : Nat) : Option Desc :=
  if o < 0x4000 then
    let r := o % 0x2000
    if r < 0x1000 then hifRing (r % 0x40)
    else if r = 0x1000 then rwr 64 0 0xFFFFF00000000000
    else if r = 0x1008 then ro 32
    else if r = 0x100C then some ⟨32, 0, 0xFE, 0, 1, false, false⟩
    else none
  else if o < 0x40C0 then
    let r := o % 0x40
    if r = 0x00 then guardReg 0 7
    else if r = 0x08 then rwr 64 0 all64
    else if r = 0x10 then ro 64
    else if r = 0x18 then ro 32
    else none
  else if o = 0x5000 then faultReg 32
  else none

def beat (o : Nat) : Option Desc :=
  if o = 0x00 then rwr 32 0x271060 0x1FFFF7F
  else if o = 0x04 then rwr 32 0 0xFFFF
  else if o = 0x08 then some ⟨32, 0, 0, 0, 1, false, false⟩
  else if o = 0x0C then some ⟨32, 0, 0, 0x1C00, 0, false, false⟩
  else if o = 0x10 then ro 64
  else if o = 0x18 then ro 64
  else if o = 0x20 then guardReg 0x1F40140A all32
  else none

def upd (o : Nat) : Option Desc :=
  if o < 0x200 then
    if o % 0x40 = 0 then ro 64 else if o % 0x40 = 8 then faultReg 64 else none
  else if 0x400 ≤ o ∧ o < 0x420 then
    if o % 8 = 0 then some ⟨32, 0, 0, 0, 0x4000000, false, false⟩ else none
  else if 0x440 ≤ o ∧ o < 0x460 then
    if o % 8 = 0 then some ⟨64, 0, 0x1FF, 0, 0x4000000, false, false⟩ else none
  else none

def fab (o : Nat) : Option Desc :=
  if o < 0x1000 then
    let p := o / 0x100
    let r := o % 0x100
    if p < 7 ∨ p = 8 ∨ p = 9 then
      if r = 0x00 then some ⟨32, 5, 5, 0, 2, false, false⟩
      else if r = 0x08 then ro 64 0x3C1
      else if r = 0x10 then rwr 32 0x10108060 all32
      else if r = 0x18 then ro 64
      else none
    else none
  else if o = 0x1000 then ro 32
  else if o = 0x1004 then rwr 32 0x6A 0x1FF
  else if o = 0x1010 then faultReg 32
  else if o = 0x1040 then rwr 64 0 all64
  else if o = 0x1048 then rwr 32 0x306B3 0x3FFFF
  else if 0x1100 ≤ o ∧ o < 0x1140 then if o % 8 = 0 then ro 64 3 else none
  else none

def pwr (o : Nat) : Option Desc :=
  if o = 0x00 then ro 64
  else if o = 0x08 then guardReg 0 0x1F
  else if o = 0x10 then rwr 64 0 all64
  else if o = 0x18 then rwr 32 0x4B00 all32
  else if o = 0x1C then rwr 32 0x1F 0x1F
  else none

def memory (o : Nat) : Option Desc :=
  if o = 0x00 then rwr 32 0xC01 0xFF01
  else if o = 0x10 then faultReg 32
  else if o = 0x18 then ro 64
  else if 0x1000 ≤ o ∧ o < 0x1400 then
    if o % 16 = 0 then rwr 64 0 0x7FFFE0000F
    else if o % 16 = 8 then rwr 64 0 0x7FFFE3FFFF
    else none
  else if 0x4000 ≤ o ∧ o < 0x6000 then
    if o % 0x400 = 0 then ro 32 0x3FC0 else if o % 0x400 = 4 then ro 32 else none
  else none

def mgt (o : Nat) : Option Desc :=
  if o = 0 ∨ o = 8 ∨ o = 0x10 ∨ o = 0x18 then ro 64
  else if o = 0x20 then guardReg 0 0x77
  else none

def sec (o : Nat) : Option Desc :=
  if o < 0x200 then if o % 8 = 0 then ro 64 else none
  else if o = 0x200 ∨ o = 0x208 then ro 64
  else none

def dieBlock (r : Nat) : Option Desc :=
  if r = 0 then rwr 32 0x3203 0xFFFF03
  else if r = 8 then ro 64
  else if r = 0x10 then ro 32 0x7FC
  else if r = 0x18 then guardReg 0 0x7FF
  else none

def shsBlock (r : Nat) : Option Desc :=
  if r < 0x200 then if r % 8 = 0 then guardReg 0x10004 0x13F07 true else none
  else if r < 0x210 then if r % 4 = 0 then rwr 32 0 all32 true else none
  else if r = 0x210 then faultReg 32
  else none

def niBlock (r : Nat) : Option Desc :=
  if r = 0 then ro 64
  else if r = 8 then ro 32 0x400200
  else if r = 0x10 then faultReg 64
  else if 0x1000 ≤ r ∧ r < 0x2000 then
    if r % 16 = 0 then ro 64
    else if r % 16 = 8 then some ⟨64, 0x80, 0, 0, 0x100, false, false⟩
    else none
  else none

def slvBlock (r : Nat) : Option Desc :=
  if r < 0x100 then
    if r % 0x40 = 0 then ro 64 else if r % 0x40 = 8 then faultReg 64 else none
  else if 0x1000 ≤ r ∧ r < 0x1800 then
    if r % 8 = 0 then rwr 64 0 0xFFFFFFFFF001 true else none
  else none

def obsBlock (o : Nat) : Option Desc :=
  if o < 0x100000 then
    if o % 0x1000 < 0x300 ∧ o % 8 = 0 then ro 64 else none
  else if o < 0x140000 then
    let r := o % 0x10000
    if r < 0x700 then if r % 8 = 0 then ro 64 else none
    else if 0x800 ≤ r ∧ r < 0xA00 then if r % 8 = 0 then ro 64 else none
    else if 0xC00 ≤ r ∧ r < 0xC80 then if r % 8 = 0 then ro 64 else none
    else if 0x1000 ≤ r ∧ r < 0x2000 then if r % 4 = 0 then ro 32 else none
    else none
  else if 0x200000 ≤ o ∧ o < 0x210000 then if o % 8 = 0 then ro 64 else none
  else if 0x210000 ≤ o ∧ o < 0x210A00 then
    let p := (o - 0x210000) / 0x100
    if p ≠ 7 ∧ o % 0x100 < 0x80 ∧ o % 8 = 0 then ro 64 else none
  else if o = 0x300000 then some ⟨32, 0, 1, 0, 2, false, false⟩
  else if o = 0x300008 then some ⟨64, 0x100, 0x0FFFFFFF000001FD, 2, 0, false, false⟩
  else if o = 0x300010 then rwr 32 0xC 0xFFFF007F
  else if o = 0x300018 then rwr 64 0 all64
  else if o = 0x300020 then ro 32
  else if o = 0x300028 then rwr 32 0 all32
  else if o = 0x300030 then ro 32
  else if 0x300040 ≤ o ∧ o < 0x300060 then if o % 8 = 0 then rwr 64 0 all64 else none
  else if o = 0x300080 then rwr 64 0 all64
  else if o = 0x300088 then some ⟨32, 0, 0, 4, 1, false, false⟩
  else if o = 0x30008C then rwr 32 0 0xFFFF0003
  else none

def tilBlock (r : Nat) : Option Desc :=
  if 0x100 ≤ r ∧ r < 0x180 then if r % 8 = 0 then guardReg 0x10003 0x13F07 true else none
  else if r = 0x180 then rwr 32 0 all32 true
  else if r = 0x184 then some ⟨32, 2, 1, 4, 0, false, true⟩
  else if r = 0x188 then faultReg 32
  else if r = 0x200 then rwr 32 1 1
  else if r = 0x208 then faultReg 64 0x3C0000
  else if r = 0x280 then faultReg 64
  else none

def enfBlock (r : Nat) : Option Desc :=
  if r < 0x800 then
    let q := r % 32
    if q = 0 then rwr 64 0 0xFFFFFFFFFFFF7 true
    else if q = 8 then rwr 64 0 all32 true
    else if q = 16 then rwr 64 0 0x7FFFFFF07FFFFFF true
    else if q = 24 then rwr 64 0x3F800000 all64 true
    else none
  else if r = 0x800 then rwr 32 0 0xFFFF true
  else if 0x840 ≤ r ∧ r < 0x880 then if r % 4 = 0 then rwr 32 all32 all32 true else none
  else if r = 0x880 then ro 32
  else none

/-- The register at a BAR0 offset, or none where nothing lies (R398). -/
def desc (o : Nat) : Option Desc :=
  if o < 0x10000 then hif o
  else if o < 0x11000 then beat (o - 0x10000)
  else if o < 0x12000 then upd (o - 0x11000)
  else if o < 0x14000 then fab (o - 0x12000)
  else if o < 0x18000 then pwr (o - 0x14000)
  else if o < 0x20000 then memory (o - 0x18000)
  else if o < 0x30000 then mgt (o - 0x20000)
  else if o < 0x40000 then sec (o - 0x30000)
  else if o < 0x50000 then dieBlock ((o - 0x40000) % 0x4000)
  else if o < 0x54000 then shsBlock ((o - 0x50000) % 0x1000)
  else if o < 0x5C000 then niBlock ((o - 0x54000) % 0x2000)
  else if o < 0x64000 then slvBlock ((o - 0x5C000) % 0x2000)
  else if 0x400000 ≤ o ∧ o < 0x800000 then obsBlock (o - 0x400000)
  else if 0x1000000 ≤ o ∧ o < 0x1100000 then tilBlock ((o - 0x1000000) % 0x1000)
  else if 0x1100000 ≤ o ∧ o < 0x1200000 then enfBlock ((o - 0x1100000) % 0x1000)
  else none

/-- The reset value of a register, as its 64-bit or 32-bit word of stored bits. -/
def resetValue (o : Nat) : BitVec 64 :=
  match desc o with
  | some d => BitVec.ofNat 64 d.reset
  | none => 0

end Sys2Proof.Regs
end

