-- ==== Sys2Proof/Machine/State.lean ====
section
/-! DEFINITION. The state of the module as plain data: every register, store, queue and mode of the manual,
the queue of waiting commands, and the state after reset. The set-up registers of R398 that hold a value of
their own are one sparse store, `State.setup`; Machine/Regs.lean says where each lies and what it resets to. -/

namespace Sys2Proof.Machine

/-- Why a step stops with a fault. The manual gives every error of the module an effect (a quench, a report,
a refusal code), so no meaning raises a fault and the type has no constructor: safe. -/
inductive Fault
deriving DecidableEq, Repr

/-- Why a step is refused. -/
inductive Refusal where
  /-- Raised by an arm of `exec` whose command has no meaning in the model yet. Safe: the machine stops. -/
  | notModelled (mnemonic : String)
deriving DecidableEq, Repr

/-- A sparse map by number. An absent key reads as the default its reader names. -/
abbrev SMap (α : Type) := List (Nat × α)

/-! ### The beat (02) -/

/-- What the receiver has of a marker source (R32, R34, R36). -/
structure MarkerRun where
  port : Nat
  count : Nat
  hops : Nat
  run : Nat
  /-- Beats counted since its last marker, and its markers since the last edge of the source in use (R33). -/
  age : Nat
  since : Nat
deriving DecidableEq, Repr

structure Beat where
  /-- The beat position (R13): count in [63:16], phase in [15:0]. -/
  pos : W64
  /-- BEAT.STATUS.STATE: 0 SEARCH, 1 LOCKED, 2 HOLDOVER, 3 LOST, 4 FREERUN. -/
  mode : BitVec 3
  activeSrc : BitVec 4
  hops : BitVec 3
  /-- BEAT.CFG and BEAT.DELAY values that wait for the next edge (02, Registers). -/
  cfgNew : Option W32
  delayNew : Option W32
  /-- The intervals counted since reset or a change of source, newest first, at most 16 (R57). -/
  intervals : List Nat
  /-- The bits received on the cable, newest first, at most 64 (R30). -/
  bits : List Bool
  /-- Count of the last valid frame and the pulses received since it ended. -/
  lastFrame : Option (Nat × Nat)
  markers : List MarkerRun
  /-- The same two of the cable: beats since its last valid pulse, and its pulses since the last edge in use (R33). -/
  cableAge : Nat
  cableSince : Nat
  /-- Beats without a valid edge (R35). -/
  missed : Nat
  /-- The count holds at phase 65,535 until the source reaches it (R36). -/
  holding : Bool
  /-- The new source's count is not yet known (R34, R36). -/
  unconfirmed : Bool
  /-- An edge of the active source has been counted since reset or a change of source (R57). -/
  sawEdge : Bool
  /-- The source's count at its last edge, once known (R36). -/
  srcCount : Option Nat
  /-- The count jumps to the source's count at the next edge (R36). -/
  jumpNext : Bool
  /-- LOST on a count conflict, which only RESYNC ends (R36). -/
  conflict : Bool
deriving DecidableEq, Repr

/-- A schedule entry with its guard words as stored (R40) and the handle kept beside it (R44). -/
structure SchedEntry where
  header : W32
  nheader : W32
  position : W64
  nposition : W64
  target : W32
  ntarget : W32
  owner : W32
  late : Bool
deriving DecidableEq, Repr

/-! ### Threads (03) -/

/-- The states of a thread (R62). -/
inductive TSt where
  | free | ready | waitList | waitEvent | waitExt | waitBeat | waitData | waitUnit | waitOrder | done | halted
deriving DecidableEq, Repr

/-- A LOOP in progress (R80). -/
structure LoopRec where
  first : Nat
  body : Nat
  count : Nat
  remaining : Nat
  baseSel : Nat
  stride : W32
  saved : BitVec 48
deriving DecidableEq, Repr

/-- A WAIT in progress (R74): word address, condition and the position at which it reaches LIMIT. -/
structure WaitRec where
  addr : Nat
  mask : W32
  cond : BitVec 8
  limit : Option Nat
deriving DecidableEq, Repr

/-- An operand slot of a matrix-engine thread (R188). -/
structure OpndSlot where
  addr : Nat
  format : Nat
  flags : Nat
  pitch : Nat
deriving DecidableEq, Repr

/-- A request for a stack channel (R155, R158): its requester (a thread key, or 8192 + a list cache, 8704 + a die's
NI, 8708 + a tile's run-ahead), job, class, atom or streaming, module address and length, whether it writes, the bytes
that land with it where it carries them, and the command it belongs to. -/
structure Req where
  thread : Nat
  job : W32
  cls : Nat
  atom : Bool
  addr : Nat
  len : Nat
  write : Bool
  data : List Byte
  cmd : Nat
deriving DecidableEq, Repr

/-- A transfer command in progress (R86 to R88): its opcode and record, the row that runs next, what its rows have
counted, whether an access received BUSY, and whether TRACE asks for its records. -/
structure CopyProg where
  cmd : Nat
  op : Nat
  recAt : Nat
  row : Nat
  reading : Bool
  sat : Nat
  nan : Nat
  busy : Bool
  trace : Bool
  /-- The source extent as it was at issue, where the destination overlaps it (R85). -/
  snap : Option (List Byte)
deriving DecidableEq, Repr

/-- A transfer command that has issued every request: what its status word will hold once its writes have landed. -/
structure CopyTail where
  cmd : Nat
  pc : Nat
  status : Option Nat
  sat : Bool
  nan : Bool
  busy : Bool
  trace : Bool
deriving DecidableEq, Repr

structure Thread where
  st : TSt
  job : W32
  /-- Byte offset of the next command in the program image. -/
  pc : Nat
  /-- The thread's copies of bases 1 to 13 (R69). -/
  bases : List (BitVec 48)
  loops : List LoopRec
  wait : Option WaitRec
  /-- Target position of a WAIT_BEAT (R78). -/
  beatTarget : Option Nat
  /-- Requests accepted or waiting at a channel (R163), and those not yet issued. -/
  outstanding : Nat
  unissued : List Req
  /-- TE threads: the transfer in progress, and those whose writes have still to land (R64, R87). -/
  copy : Option CopyProg
  tails : List CopyTail
  /-- The WAIT or WAIT_BEAT it waits in carries TRACE (R67). -/
  traced : Bool
  /-- The host memory its command reads has arrived (R399). -/
  hostDone : Bool
  /-- ME threads: operand slots by number (R188). -/
  slots : SMap OpndSlot
  /-- VE threads: SC0 to SC7 (R213). -/
  sc : List W32
  /-- The replay mark the thread waits at (R452). -/
  markAt : Option Nat
deriving DecidableEq, Repr

/-! ### Jobs and images (03, 15) -/

structure HostRange where
  base : Nat
  pages : Nat
  port : Nat
  rd : Bool
  wr : Bool
deriving DecidableEq, Repr

/-- What admission keeps of a program image (R89): where it lies and its header's fields. -/
structure Image where
  base : Nat
  bytes : Nat
  flags : Nat
  digest : BitVec 256
  tileCount : Nat
  threadOff : Nat
  threadCount : Nat
  keyOff : Nat
  keyCount : Nat
  solverOff : Nat
  solverCount : Nat
  timingOff : Nat
  timingCount : Nat
  schedOff : Nat
  schedCount : Nat
  solverMask : Nat
  updateMask : Nat
deriving DecidableEq, Repr

/-- A resident image (R95): `evicting` once an eviction request for it has been taken. -/
structure Resident where
  img : Image
  evicting : Option (Nat × Nat × Nat)
deriving DecidableEq, Repr

/-- The admitted plan (R47). -/
structure Plan where
  fadm : Nat
  r : Nat
  a : Nat
  aUsed : Bool
  worstEnd : Nat
  /-- The beats at which its segments end at worst, in order. -/
  ends : List Nat
deriving DecidableEq, Repr

/-- States of a job; `held` is a running job that a tile takeover holds (R454). -/
inductive JobSt where
  | admitted | running | held | completing | quenching
deriving DecidableEq, Repr

/-- The fields of a job block that stay in force while the job lives (R406). -/
structure JobBlock where
  flags : W32
  tag : W16
  jobId : W32
  seed : W64
  start : W64
  deadline : W64
  serveCount : Nat
  serve : Nat
  bases : List (BitVec 48)
  banks : List W64
  niw : List W64
  hostr : List HostRange
  tiles : List Nat
  shares : List Nat
  /-- Export descriptors: record, bus address, capacity and tag (R405, R406). -/
  exports : List (Nat × Nat × Nat × Nat)
deriving DecidableEq, Repr

/-- The operation boundary a recorded replay mark holds: each thread's pc, bases and loops, and the ROWCNTs
of the job's tiles (R452). -/
structure ReplayPoint where
  mark : Nat
  threads : SMap (Nat × List (BitVec 48) × List LoopRec)
  rowcnt : SMap W64
deriving DecidableEq, Repr

structure Job where
  handle : W32
  /-- Host port, submission ring and ring index of its descriptor. -/
  port : Nat
  ring : Nat
  sqIndex : Nat
  st : JobSt
  block : JobBlock
  image : Image
  resident : Bool
  /-- Keys of the threads that the program names. -/
  named : List Nat
  plan : Plan
  /-- Segments ended, as its completed replay marks show them (R45, R51, R452). -/
  segment : Nat
  refreshDl : List W64
  cause : W16
  /-- Faults met while the job was quenching (R99). -/
  faults : Nat
  /-- TRAP_NONFINITE has quenched it once (R118). -/
  trapped : Bool
  replay : Option ReplayPoint
  /-- Descriptors that wait for the quench (R99): port, ring, index. -/
  quenchers : List (Nat × Nat × Nat)
deriving DecidableEq, Repr

/-! ### On-chip stores (05) -/

/-- A line of a tile's data cache (R142): its 64 bytes with their valid and dirty masks. -/
structure CacheLine where
  addr : Nat
  valid : W64
  dirty : W64
  bytes : List Byte
deriving DecidableEq, Repr

/-- Where a bank's power mode is going (R144): the mode it leaves and the mode it enters. -/
structure BankMove where
  bank : Nat
  target : Nat
  /-- It is becoming ON or RETENTION from OFF, and is zeroed on the way. -/
  zero : Bool
deriving DecidableEq, Repr

structure Store where
  /-- Poisoned on-chip words, by aligned 8-byte address (R148). -/
  poison : List Nat
  moves : List BankMove
  /-- Tiles whose W1 retention is waking (R147). -/
  compatWaking : List Nat
  /-- Data cache of each tile, most recently used first. -/
  dcache : SMap (List CacheLine)
  /-- Lines held by each list cache (tile t, 256 + solver engine, 272 + update unit), most recent first. -/
  listLines : SMap (List Nat)
  /-- Lines a thread has pinned (R72). -/
  pinned : SMap (List Nat)
  /-- Watch table of each shared-store bank (R75): the threads whose words it watches. -/
  watch : SMap (List Nat)
deriving DecidableEq, Repr

/-! ### Stacks (06, 17) -/

/-- The states of a physical channel (R174). -/
inductive ChSt where
  | ok | degraded | down | spare | retired
deriving DecidableEq, Repr

structure Stacks where
  /-- Poisoned atoms by aligned 64-byte address (R170). -/
  poison : List Nat
  /-- Channels (stack · 128 + channel) that a repair filled with poison (R175), with the atoms written since. -/
  filled : SMap (List Nat)
  /-- Accepted requests of each logical channel (stack · 128 + channel), oldest first, and those waiting. -/
  queues : SMap (List Req)
  waiting : SMap (List Req)
  /-- States of physical channels (stack · 132 + channel) that are not at reset. -/
  chSt : SMap ChSt
  /-- Corrected errors of this scrub pass, by channel and by row (R171). -/
  corrCh : SMap Nat
  corrRow : SMap Nat
  /-- Spare rows, column groups and lanes used (R173). -/
  rowsUsed : SMap Nat
  colsUsed : SMap Nat
  lanesUsed : SMap Nat
  /-- MEM.CH_REMAP by stack: (spare index, logical channel). -/
  remap : SMap (List (Nat × Nat))
  trained : Bool
deriving DecidableEq, Repr

/-! ### Matrix engine and Enfleurage (07, 09) -/

/-- A chain or kept accumulation on the array (R196): its thread, shape, format class and accumulators. -/
structure Chain where
  thread : Nat
  m : Nat
  n : Nat
  cls : Nat
  acc : List W32
deriving DecidableEq, Repr

/-- Results of an OS command on their way from the second accumulator set to D (R196), with the mask of its
column blocks and the FILL of R202. -/
structure OsDrain where
  thread : Nat
  job : W32
  addr : Nat
  pitch : Nat
  m : Nat
  n : Nat
  accum : Bool
  fill : Nat
  masked : List Bool
  vals : List W32
  /-- Byte offset of its command in the program image. -/
  cmd : Nat
  /-- Its command's TRACE bit: the COMPLETE record comes as it lands (R67, R196). -/
  trace : Bool
deriving DecidableEq, Repr

/-- The vector step that a fused command still has to run (R204, R205). -/
structure FusedStep where
  thread : Nat
  job : W32
  norm : Bool
  m : Nat
  n : Nat
  addr : Nat
  x : OpndSlot
  rowv : OpndSlot
  colv : Nat
  gg : Option Nat
  sigma : W32
  /-- Byte offset of its command in the program image. -/
  cmd : Nat
  /-- Its command's TRACE bit: the COMPLETE record comes as it lands (R67, R205). -/
  trace : Bool
deriving DecidableEq, Repr

structure Matrix where
  /-- Thread that the array is granted to, by tile (R194): 0 to 3, or 4 for a borrowed chunk. -/
  holder : SMap Nat
  /-- Requester granted last, by tile (R194 round robin). -/
  last : SMap Nat
  chain : SMap Chain
  /-- The drain from the second accumulator set of a tile (R196). -/
  osDrain : SMap OsDrain
  fused : List FusedStep
  /-- ENF_FLUSH commands that wait for drains: thread key → mask of the sets still to land (R247). -/
  flushing : SMap Nat
  /-- Engines that have asked a tile's array for a chunk, oldest first (R257), by tile. -/
  borrowed : SMap (List Nat)
  /-- Operand that the last matrix command of a thread took through the transposing buffer: 0 A, 1 B; none where it took
  none (R191, R207). -/
  turned : SMap Nat
  /-- Once a command has run on a tile's array: the ME threads that waited for the array then (R194). -/
  behind : SMap (List Nat)
  /-- TIL.ME_CTRL.ZSKIP_EN as the array was granted last, by tile (R208). -/
  zskip : SMap Bool
  /-- Places given out in the order in which drains of sets arrive (R246). -/
  drainSeq : Nat
deriving DecidableEq, Repr

/-- The state of an Enfleurage set (R243). -/
inductive SetSt where
  | empty | accumulating | draining
deriving DecidableEq, Repr

/-- An Enfleurage set (R243): its destination's stat tile, header, index and epoch, the weights of the first
context that named it, the rows it holds and its 128 × 128 sums. -/
structure EnfSet where
  st : SetSt
  job : W32
  dest : Nat
  hdr : Nat
  idx : Nat
  epoch : Nat
  alpha : W32
  beta : W32
  rows : Nat
  sums : List W32
  /-- Place of its drain among those that have started (R246). -/
  order : Nat
deriving DecidableEq, Repr

/-! ### Solvers (10) -/

/-- A solver operation record with its addresses resolved (R262). -/
structure SlvRec where
  op : Nat
  pair : Bool
  scale : Bool
  sparse : Bool
  infmt : Nat
  outslot : Bool
  tri : Nat
  unit : Bool
  qr : Bool
  seed : Bool
  n : Nat
  iters : Nat
  p : Nat
  nbor : Nat
  lend : Nat
  in1 : Nat
  in2 : Nat
  out : Nat
  work : Nat
  lambda : W32
  tauRel : W32
  resMax : W32
  mh : Nat
  sched : Nat
  tiles : List Nat
deriving DecidableEq, Repr

/-- A running operation (R256, R263): its thread, its record, the buffer of its slot that it writes, what its steps
have done, and the result it has staged in WORK with what it met on the way. -/
structure SlvOp where
  thread : Nat
  r : SlvRec
  buf : Nat
  steps : Nat
  iter : Nat
  staged : Bool
  overflow : Bool
  resid : Option W32
  sigma : Option W32
  /-- Segments of the result: offset from its start, and its words. -/
  result : List (Nat × List W32)
  /-- Borrowed tiles still in use (R257, R281). -/
  tiles : List Nat
  /-- Byte offset of its SV_RUN in the program image (R285). -/
  cmd : Nat
deriving DecidableEq, Repr

/-- An open occurrence (R261): its refresh and ordinal, the code that abandoned it or 0 (R282, R283), and the
tallies of its status record. -/
structure OpenOcc where
  thread : Nat
  refresh : Nat
  occ : Nat
  abandoned : Nat
  committed : Nat
  overflow : Nat
  highres : Nat
  small : Nat
  zero : Nat
  maxResid : W32
deriving DecidableEq, Repr

structure Engine where
  opens : List OpenOcc
  op : Option SlvOp
deriving DecidableEq, Repr

structure Solver where
  engines : SMap Engine
  /-- Launches and begins of a job, by (handle · 16 + engine) · 256 + refresh (R260). -/
  launches : SMap Nat
  begins : SMap Nat
  /-- Occurrences marked abandoned before they began (R282): key of the launches, occurrence. -/
  marks : List (Nat × Nat)
  /-- Slots held by an operation (R276): slot address and engine. -/
  holds : List (Nat × Nat)
deriving DecidableEq, Repr

/-! ### Fabric (11) -/

/-- PORT_STATUS.STATE of a group port (R297), in the order of its codes. -/
inductive LinkSt where
  | disabled | down | train | hello | up | swap | parked | isolated | failed
deriving DecidableEq, Repr

/-- A flit sent or held, by its header (R290): sequence number, KIND, virtual channel, RELAY, slots it comes from and
goes to and payload bytes; the value of a control flit (R292); and the port by which a flit came that this module only
forwards. -/
structure TxFlit where
  seq : Nat
  kind : Nat
  vc : Nat
  relay : Bool
  src : Nat
  dst : Nat
  len : Nat
  value : Nat
  inPort : Option Nat
deriving DecidableEq, Repr

structure Link where
  st : LinkSt
  width4 : Bool
  spareUsed : Bool
  badLane : Nat
  /-- Mask of the lanes 0 to 8 that have not failed (R296). -/
  good : Nat
  peerSlot : Nat
  peerGroup : Nat
  peerSerial : W32
  latency : Nat
  /-- Sequence numbers of the last flit sent and of the last received in order (R290). -/
  txSeq : Nat
  rxSeq : Nat
  /-- The last ACK received, and the retry buffer, oldest first (R291). -/
  lastAck : Nat
  retry : List TxFlit
  /-- Consecutive failures (R299), and that discovery put the port in ISOLATED. -/
  trainFails : Nat
  /-- The partner's latest heartbeat: its UP mask and beat state (R292, R303). -/
  peerUp : Nat
  peerBeat : Nat
  /-- Credits held for VC0 to VC5, and relay credits for VC2 to VC5 (R293). -/
  credits : List Nat
  relayCredits : List Nat
  /-- Flits held for want of a credit, in a swap or while the partner is parked. -/
  held : List TxFlit
  /-- The partner departed and has not returned (R303, R305). -/
  departed : Bool
  /-- Credits to return, by channel: those of no CREDIT flit yet, those of the CREDIT flit that waits for its
  acknowledgement, and that flit's sequence number (R292). -/
  owed : List Nat
  inCredit : List Nat
  creditSeq : Option Nat
  /-- The deficit round-robin over VC2 to VC5: whose turn it is and the flits it has left; and by channel whether a
  relayed flit goes before a direct one (R294). -/
  turn : Nat
  turnLeft : Nat
  relayNext : Nat
  /-- Symbols that error correction corrected on lanes 0 to 8, and flits replayed, in the current millisecond (R291,
  R296). -/
  corrected : List Nat
  replays : Nat
  /-- Flits dropped for a reserved KIND (R290). -/
  errors : Nat
deriving DecidableEq, Repr

/-- A message sent over Ethernet and not known to be acknowledged (R309, R310). -/
structure EthTx where
  port : Nat
  vc : Nat
  seq : Nat
  len : Nat
deriving DecidableEq, Repr

/-- A message that has arrived before its turn (R309). -/
structure EthRx where
  vc : Nat
  seq : Nat
  write : Option NiWrite
deriving DecidableEq, Repr

/-- The two queue pairs to a remote module, one on each Ethernet port (R308, R309). -/
structure QPair where
  remote : Nat
  /-- Open and usable, by port. -/
  up : List Bool
  /-- Rate in millionths of the line rate, by port (R308). -/
  rate : List Nat
  /-- The port that takes the next message. -/
  next : Nat
  /-- Sequence numbers by virtual channel: messages sent, and messages landed. -/
  txSeq : List Nat
  rxSeq : List Nat
  sent : List EthTx
  early : List EthRx
  serial : W32
  /-- The exchange that opens the pairs has been started (R309). -/
  asked : Bool
deriving DecidableEq, Repr

/-- A message of an NI that waits for a route or for its queue pairs (R306, R309). -/
structure NiMsg where
  die : Nat
  remote : Nat
  kind : Nat
  key : W32
  round : W32
  index : Nat
  data : List Byte
deriving DecidableEq, Repr

structure Fabric where
  links : SMap Link
  /-- Ethernet port states: 1 DOWN, 2 TRAIN, 4 UP. -/
  eth : SMap Nat
  pairs : List QPair
  /-- Paused priorities of each Ethernet port (R308). -/
  paused : SMap Nat
  slot : Nat
  group : Nat
  sysId : W32
  /-- The routes of FAB.TOPO: slot → (ROUTE, PORT, VIA) (R302, R304, R316). -/
  routes : SMap (Nat × Nat × Nat)
  /-- Flits held because their slot has no route (R306), or while its route returns to the direct port (R305). -/
  noRoute : List TxFlit
  /-- Slots whose direct port is back while flits sent through a relay wait for the slot's acknowledgement (R305). -/
  returning : List Nat
  outbox : List NiMsg
deriving DecidableEq, Repr

/-! ### Collectives (12, 14) -/

/-- An armed triggered-operation record (R331): its index within the collective, the address of its 64 bytes in
the program image, its triggered-operation slot, its place in firing order once fired, whether a GET or JOIN has
sent its messages, and whether its action is complete. -/
structure Armed where
  index : Nat
  recAt : Nat
  slot : Nat
  fired : Option Nat
  asked : Bool
  complete : Bool
deriving DecidableEq, Repr

/-- A started occurrence (R324, R327). -/
structure Occ where
  job : W32
  die : Nat
  key : W32
  round : Nat
  keyIndex : Nat
  /-- First slot claimed, relative to the job's window, and how many. -/
  slotFirst : Nat
  slotCount : Nat
  armed : List Armed
  doneFired : Bool
  stopped : Bool
deriving DecidableEq, Repr

/-- A READY, GET or JOIN sent by an NI, which its receiver may refuse (R326, R332, R333). -/
structure Retry where
  msg : NiMsg
  job : W32
deriving DecidableEq, Repr

/-- A READY received (R326). -/
structure ReadyEntry where
  source : Nat
  jobId : W32
  round : Nat
  key : W32
deriving DecidableEq, Repr

/-- A held GET in the serve queue of a die (R381, R383). -/
structure ServeGet where
  die : Nat
  source : Nat
  jobId : W32
  entry : Nat
  gen : Nat
  addr : W64
  bytes : Nat
  fmt : Nat
  reqId : W32
  /-- The shard record that it was held for. -/
  record : Nat
deriving DecidableEq, Repr

/-- The values of a member for a JOIN (R333); `early` while it takes an entry of the early-JOIN table. -/
structure JoinVals where
  die : Nat
  source : Nat
  jobId : W32
  round : Nat
  key : W32
  /-- Index of the JOIN record within its collective. -/
  index : Nat
  values : List W64
  early : Bool
deriving DecidableEq, Repr

/-- An addition to a counter that a network interface makes: the counter's die and offset, the value, and whose it is. -/
structure CtrAdd where
  die : Nat
  off : Nat
  value : Nat
  job : W32
  key : W32
  index : Nat
deriving DecidableEq, Repr

structure Ni where
  /-- The occurrence started last, as (round, key index), by handle · 4 + die (R322). -/
  heads : SMap (Nat × Nat)
  /-- Launches counted and occurrences begun of a LAUNCH collective, by (handle · 4 + die) · 256 + record (R324). -/
  launches : SMap Nat
  begun : SMap Nat
  /-- SLOT_ADMISSION_WAIT has been counted for the head, by handle · 4 + die (R324). -/
  waited : List Nat
  /-- Records fired so far: the next place in firing order (R331). -/
  fireSeq : Nat
  /-- The job that most recently started an occurrence, by die (R342). -/
  shown : SMap W32
  occs : List Occ
  /-- Occurrences complete on an NI while another NI of the module has not completed them: die, job, round, key. -/
  finished : List (Nat × W32 × Nat × W32)
  /-- Occurrences whose READY this module has sent: job, round, key (R326). -/
  readySent : List (W32 × Nat × W32)
  /-- Staging lines that hold valid data, by die · 2^19 + line (R318). -/
  valid : List Nat
  readys : List ReadyEntry
  joins : List JoinVals
  serve : List ServeGet
  retries : List Retry
  /-- Writes that arrived for a bank that is becoming ON, oldest first (R145, R147). -/
  arrivals : List NiWrite
  /-- Additions to counters that wait for their bank, oldest first. -/
  adds : List CtrAdd
deriving DecidableEq, Repr

/-! ### Update units (13) -/

structure OpenUpd where
  recAt : Nat
  unit : Nat
  thread : Nat
  job : W32
  gen : Nat
  /-- Opened with MODE NEW: blocks make additions to DONE_CTR (R358, R363). -/
  adds : Bool
  started : List Nat
  done : List Nat
deriving DecidableEq, Repr

structure Upd where
  opened : List OpenUpd
  /-- Retained slots (R366): die · 512 + slot, tag, shard record. -/
  retained : SMap (W16 × Nat)
  /-- Blocks whose weight group has not landed (R363), oldest first: thread key, record, block. -/
  inflight : List (Nat × Nat × Nat)
  /-- Shard and block of the last block at DONE, by unit (R372). -/
  lastDone : SMap (Nat × Nat)
  /-- Update threads that wait in WAIT_BEAT for a NOT_BEFORE (R358). -/
  waitBeat : List Nat
deriving DecidableEq, Repr

/-! ### Host interface and Accord (15) -/

structure Ring where
  sqHead : W32
  sqTail : W32
  cqTail : W32
  cqHead : W32
  stopped : Bool
  lost : Nat
  /-- Entries reserved on the completion ring of this number (R404). -/
  reserved : Nat
  /-- Entries written since the last message (R404). -/
  unsent : Nat
  /-- Completion entries held while EN is 0 (R404). -/
  held : List (List Byte)
  /-- Descriptors of this ring consumed and not complete (R405 FENCE). -/
  openDescs : Nat
deriving DecidableEq, Repr

/-- A read of host memory that a thread waits for. -/
structure HostRead where
  thread : Nat
  port : Nat
  addr : Nat
  bytes : Nat
deriving DecidableEq, Repr

structure HostPort where
  up : Bool
  departed : Bool
  adopted : Bool
  speed : BitVec 2
  width : BitVec 5
  /-- Port and completion ring that this port's jobs were adopted to (R416). -/
  adopter : Option (Nat × Nat)
  /-- Entries held while the port is departed, each with its completion ring, oldest first (R415). -/
  held : List (Nat × List Byte)
  /-- MSI-X: masked and pending vectors. -/
  masked : W64
  msiPending : W64
  errors : Nat
deriving DecidableEq, Repr

structure HostIf where
  /-- Ports 0 and 1; a departed port that returns leaves what is held of it under a number of its own, p + 2, p + 4 … -/
  ports : SMap HostPort
  /-- Rings by port · 64 + number. -/
  rings : SMap Ring
  reads : List HostRead
deriving DecidableEq, Repr

/-- A staged set-up write (R412). -/
structure Staged where
  offset : Nat
  size : Nat
  value : W64
deriving DecidableEq, Repr

structure AccordCtx where
  /-- 0 IDLE, 1 OPEN, 2 PENDING, 3 APPLYING. -/
  st : BitVec 2
  txn : W16
  staged : List Staged
  failed : W16
  lastCode : W16
  bad : Option Nat
deriving DecidableEq, Repr

/-! ### Power (16) -/

/-- A power request under way (R433): target (0 Run to 4 Off), its force and who asked. -/
structure PwrReq where
  target : Nat
  force : Bool
  wakeAt : Option W64
  from_ : Option (Nat × Nat × Nat)
deriving DecidableEq, Repr

structure Power where
  /-- PWR.STATE.STATE: 0 Run, 1 Idle, 2 Sleep, 3 Deep sleep, 4 entering, 5 exiting. -/
  st : BitVec 3
  /-- PWR.STATE.TARGET of the sequence in progress. -/
  target : BitVec 3
  /-- The state that a sequence in progress left (R439). -/
  origin : BitVec 3
  /-- Off, where only the standby converter and the wake logic run (R432). -/
  off : Bool
  /-- The plan that the thermal and power limits hold at least (R430). -/
  therm : Nat
  /-- SUPPLY_WARN hold in force (R424). -/
  warn : Bool
  lastWake : Nat
  /-- Internal floors for the coolant inlet (R430) and for a second phase failure (R457). -/
  coolFloor : Nat
  phaseFloor : Nat
  /-- Input voltage in units of 4 mV and input power in W (R443). -/
  inMv : Nat
  inW : Nat
  /-- A wake taken while an entry was in progress (R437), by its LAST_WAKE code. -/
  latched : Option Nat
  /-- Requests that wait for the sequence in progress (R438), and the one in progress. -/
  queued : List PwrReq
  inProgress : Option PwrReq
  /-- Power-good failures of the return in progress (R439). -/
  pgFails : Nat
  /-- The compute domain is held in reset: until secure boot has measured its firmware (R19), after a reset of the supply
  or of its temperature (R425, R430), or after a second power-good failure (R439). -/
  held : Bool
  /-- It is off until a management agent asks (R430, R439). -/
  hot : Bool
  /-- The leak sensor is wet (R430). -/
  leak : Bool
  /-- The allowance of a forced entry has passed (R435). -/
  forceDone : Bool
deriving DecidableEq, Repr

/-! ### Faults and recovery (17) -/

structure HangJob where
  handle : W32
  cycles : Nat
  sig : List Nat
  stall : Nat
  quiet : Nat
deriving DecidableEq, Repr

structure Recovery where
  /-- Physical tile of a logical tile, where it is not the identity (R17): logical → physical within the die. -/
  tileMap : SMap Nat
  /-- Physical tiles out of service (die · 68 + tile), and spares free by die. -/
  retiredTiles : List Nat
  sparesUsed : SMap Nat
  lastRetired : SMap Nat
  /-- Logical tiles with no physical tile (R455). -/
  lost : List Nat
  /-- Retired solver engines, update units and NIs (0.., 16.., 24..). -/
  retiredUnits : List Nat
  /-- Takeovers that wait for their load: tiles held by a takeover. -/
  taking : List Nat
  /-- Corrected errors in 24 h by tile (R455) and tiles marked for retirement. -/
  corrected : SMap Nat
  marked : List Nat
  phases : SMap Nat
  hang : List HangJob
  hangLast : SMap (Nat × Nat × W32)
  recoveries : Nat
deriving DecidableEq, Repr

/-! ### Management and security (18) -/

structure FwBank where
  version : W32
  svn : W16
  digest : BitVec 256
  valid : Bool
deriving DecidableEq, Repr

/-- A unit that waits for a new image (R490): the image's kind, the unit, the next job handle at the commit, and that
one load has already mismatched (R486). -/
structure Reload where
  kind : Nat
  unit : UnitId
  mark : W32
  failed : Bool
deriving DecidableEq, Repr

structure Debug where
  level : BitVec 2
  owner : Bool
  remain : W32
  via : MsgVia
deriving DecidableEq, Repr

structure Spdm where
  /-- 0 nothing, 1 version, 2 capabilities, 3 algorithms negotiated (R487). -/
  stage : Nat
  sessions : SMap Bool
  pendingKeys : List Nat
deriving DecidableEq, Repr

/-- The identifiers that the IDENTITY record carries (R483, R533): PCI vendor, device, revision and subsystem, and the MAC
addresses of E0, E1 and the sideband port. -/
structure Identity where
  vendor : W16
  device : W16
  revision : Byte
  subVendor : W16
  subsystem : W16
  macs : List Nat
deriving DecidableEq, Repr

structure Mgmt where
  serial : W64
  identity : Identity
  sysId : W32
  lifecycle : BitVec 2
  rtc : W64
  rtcValid : Bool
  ownerKey : Bool
  /-- Record counters by kind and payloads in force (R483). -/
  counters : SMap W32
  records : SMap (List Byte)
  /-- Digests of the records in force, by kind (R484). -/
  recDigests : SMap (BitVec 256)
  meas : SMap (BitVec 256)
  /-- Banks A and B of each kind (kind · 2 + bank), the active bank and minimum SVN of each kind. -/
  banks : SMap FwBank
  active : SMap Nat
  minSvn : SMap W16
  reloads : List Reload
  /-- Kinds whose activation a commit has asked for (R490). -/
  activate : BitVec 3
  debug : Option Debug
  challenge : Option (BitVec 256)
  spdm : Spdm
  /-- Published sensors (R476): the input voltage and the leak sensor, which the rows carry. -/
  sensors : SMap Nat
  /-- No management image ran at the last boot (R485): the controller answers nothing. -/
  noImage : Bool
deriving DecidableEq, Repr

/-! ### Observation (19) and what leaves the module -/

/-- A record of the error log or the flight recorder: code, unit, handle, beat position, detail, and in the recorder
its KIND: 2 error, 3 beat edge, 5 declaration (R467). -/
structure LogRec where
  seq : W32
  code : W16
  unit : Nat
  handle : W32
  beat : W64
  detail : W64
  kind : Nat
deriving DecidableEq, Repr

structure Obs where
  log : List LogRec
  logSeq : W32
  recorder : List LogRec
  recFrozen : Bool
  dumps : List (List LogRec)
  /-- Counted codes since the last summary: (code, place) → count (R468). -/
  counted : SMap Nat
  silSeq : SMap Nat
  silDropped : Nat
  paused : List Nat
  /-- Order in which job slots were freed, oldest first: die · 16 + slot. -/
  slotFree : List Nat
deriving DecidableEq, Repr

/-- What a port sends of itself in HELLO (R301): the certificate chain of the die that carries it, a nonce, the capability
record, and the signature over the SHA-256 of both nonces and both records, by digest. -/
structure Hello where
  certs : List Byte
  nonce : BitVec 256
  sysId : W32
  group : Nat
  slot : Nat
  port : Nat
  stepping : Nat
  width : Nat
  version : W32
  signature : BitVec 512
deriving DecidableEq, Repr

/-- What the module puts on its wires and answers with; the newest stands first in `State.sent`. -/
inductive Output where
  | beatOut (widthNs : Nat)
  /-- A flit on a group port, with the ACK of its header (R290). -/
  | flit (port : Nat) (f : TxFlit) (ack : Nat)
  /-- What a port sends in HELLO (R301). -/
  | hello (port : Nat) (h : Hello)
  /-- A message on an Ethernet port: channel, remote module, sequence number and bytes (R309). -/
  | ethMessage (port : Nat) (vc : Nat) (remote : Nat) (seq : Nat) (len : Nat)
  /-- Data of a send, as its destination takes it (R330). -/
  | write (remote : Nat) (w : NiWrite)
  | message (remote : Nat) (kind : Nat) (key : W32) (round : W32) (index : Nat) (data : List Byte)
  | msix (port : Nat) (vector : Nat)
  | pin (name : String) (level : Bool)
  | answer (code : W16) (data : List Byte)
  | console (text : List Byte)
  | report (code : W16) (unit : Nat)
  /-- A neighbour advertisement of an Ethernet port, with the port's MAC address (R308). -/
  | advertise (port : Nat) (mac : Nat)
deriving DecidableEq, Repr

/-- The module's state. -/
structure State where
  /-- Set-up registers with a value other than the reset value, by BAR0 offset (R398). -/
  setup : SMap W64
  beat : Beat
  /-- The beat schedule: table · 1024 + index; tables 0 to 3 are the dies', 4 the management domain's. -/
  sched : SMap SchedEntry
  /-- Threads that are not FREE, by thread key. -/
  threads : SMap Thread
  jobs : List Job
  nextHandle : W32
  images : List Resident
  /-- Stacked memory and the on-chip stores of R132, R156 by module address; unlisted bytes read 0. -/
  mem : List Host.Cell
  /-- Host memory as the ports show it: port · 2^64 + bus address. -/
  hostMem : List Host.Cell
  store : Store
  stk : Stacks
  matrix : Matrix
  /-- Enfleurage sets that are not EMPTY: tile · 2 + set. -/
  enf : SMap EnfSet
  solver : Solver
  fabric : Fabric
  ni : Ni
  upd : Upd
  host : HostIf
  accord : SMap AccordCtx
  power : Power
  recov : Recovery
  mgmt : Mgmt
  obs : Obs
  /-- The model's own counter: it makes each free value a fresh one. -/
  freeCtr : Nat
  sent : List Output
  /-- The commands that wait, first in first out. -/
  pending : List Instr
deriving DecidableEq, Repr

/-- The module right after reset: every register at its reset value, nothing stored, no job (R19, R34, R62,
R96, R156 and the Registers sections). The compute domain is held until a boot has measured its
firmware (R19). Where the manual gives no value, notes/assumptions/3 names the one taken here. -/
def State.reset : State where
  setup := []
  beat := ⟨0, 0, 0, 0, none, none, [], [], none, [], 0, 0, 0, false, true, false, none, false, false⟩
  sched := []
  threads := []
  jobs := []
  nextHandle := 1
  images := []
  mem := []
  hostMem := []
  store := ⟨[], [], [], [], [], [], []⟩
  stk := ⟨[], [], [], [], [], [], [], [], [], [], [], false⟩
  matrix := ⟨[], [], [], [], [], [], [], [], [], [], 0⟩
  enf := []
  solver := ⟨[], [], [], [], []⟩
  fabric := ⟨[], [], [], [], 0, 0, 0, [], [], [], []⟩
  ni := ⟨[], [], [], [], 0, [], [], [], [], [], [], [], [], [], [], []⟩
  upd := ⟨[], [], [], [], []⟩
  host := ⟨[], [], []⟩
  accord := []
  power := ⟨0, 0, 0, false, 0, false, 0, 0, 0, 0, 0, none, [], none, 0, true, false, false, false⟩
  recov := ⟨[], [], [], [], [], [], [], [], [], [], [], [], 0⟩
  mgmt := ⟨0, ⟨0x1F3A, 0x5732, 0xB1, 0x1F3A, 0xA048, [0, 1, 2]⟩, 0, 1, 0, false, false, [], [], [], [],
    (List.range 6).map (fun b => (b, ⟨0, 0, 0, true⟩)), [], [],
    [], 0, none, none, ⟨0, [], []⟩, [], false⟩
  obs := ⟨[], 0, [], false, [], [], [], 0, [], []⟩
  freeCtr := 0
  sent := []
  pending := []

end Sys2Proof.Machine
end

