-- ==== Sys2Proof/Machine/Ops.lean ====
section
/-! DEFINITION. The named operations over State that every meaning uses: sparse maps, memory in its canonical
form, the stored set-up registers, the address map (R132, R133, R156, R157, R399), threads and jobs, the log
and the counters. -/

namespace Sys2Proof.Machine

/-! ### Sparse maps -/

def mfind {α : Type} (m : SMap α) (k : Nat) : Option α :=
  match m with
  | [] => none
  | (x, v) :: r => if x = k then some v else mfind r k

def mget {α : Type} (m : SMap α) (k : Nat) (d : α) : α := (mfind m k).getD d

def mset {α : Type} (m : SMap α) (k : Nat) (v : α) : SMap α :=
  match m with
  | [] => [(k, v)]
  | (x, w) :: r => if x = k then (k, v) :: r else (x, w) :: mset r k v

def mdel {α : Type} (m : SMap α) (k : Nat) : SMap α := m.filter (fun c => c.1 != k)

/-! ### Memory: strictly rising addresses, no byte that is 0 (an unlisted byte reads 0: R96, R167) -/

def cellGet (m : List Host.Cell) (a : Nat) : Byte :=
  match m with
  | [] => 0
  | (x, b) :: r => if x = a then b else cellGet r a

/-- Store a byte that is not 0. -/
def cellInsert (m : List Host.Cell) (a : Nat) (b : Byte) : List Host.Cell :=
  match m with
  | [] => [(a, b)]
  | (x, c) :: r => if a < x then (a, b) :: (x, c) :: r else if a = x then (a, b) :: r else (x, c) :: cellInsert r a b

/-- Store a byte; a byte 0 is unlisted. -/
def cellPut (m : List Host.Cell) (a : Nat) (b : Byte) : List Host.Cell :=
  if b = 0 then m.filter (fun c => c.1 != a) else cellInsert m a b

def cellsPut (m : List Host.Cell) (a : Nat) (bs : List Byte) : List Host.Cell :=
  match bs with
  | [] => m
  | b :: r => cellsPut (cellPut m a b) (a + 1) r

def cellsGet (m : List Host.Cell) (a : Nat) (n : Nat) : List Byte :=
  (List.range n).map (fun i => cellGet m (a + i))

/-- Zero every byte from `a` to before `a + n`. -/
def cellsZero (m : List Host.Cell) (a n : Nat) : List Host.Cell :=
  m.filter (fun c => !(decide (a ≤ c.1) && decide (c.1 < a + n)))

/-- The canonical form of a memory: addresses rise strictly from above `lo`, and no byte is 0. -/
def Memory.wfFrom (lo : Option Nat) (m : List Host.Cell) : Bool :=
  match m with
  | [] => true
  | (x, b) :: r =>
    (match lo with | none => true | some l => decide (l < x)) && b != 0 && Memory.wfFrom (some x) r

def Memory.wf (m : List Host.Cell) : Bool := Memory.wfFrom none m

/-- Little-endian value of bytes (R5). -/
def leNat (bs : List Byte) : Nat :=
  match bs with
  | [] => 0
  | b :: r => b.toNat + 256 * leNat r

/-- The `n` bytes of a value, little-endian (R5). -/
def leBytes (n : Nat) (v : Nat) : List Byte :=
  match n with
  | 0 => []
  | k + 1 => BitVec.ofNat 8 v :: leBytes k (v / 256)

/-- Bits [hi:lo] of a number. -/
def bits (v hi lo : Nat) : Nat := v / 2 ^ lo % 2 ^ (hi + 1 - lo)
def bit (v i : Nat) : Bool := v / 2 ^ i % 2 == 1

/-- A number with its bits [hi:lo] replaced. -/
def setBits (v hi lo x : Nat) : Nat :=
  v - bits v hi lo * 2 ^ lo + x % 2 ^ (hi + 1 - lo) * 2 ^ lo

namespace State

def rd8 (s : State) (a : Nat) : Byte := cellGet s.mem a
def rd (s : State) (a n : Nat) : List Byte := cellsGet s.mem a n
def rdNat (s : State) (a n : Nat) : Nat := leNat (s.rd a n)
def wr (s : State) (a : Nat) (bs : List Byte) : State := { s with mem := cellsPut s.mem a bs }
def wrNat (s : State) (a n v : Nat) : State := s.wr a (leBytes n v)
def zero (s : State) (a n : Nat) : State := { s with mem := cellsZero s.mem a n }

/-- The key of a byte of host memory behind a port. -/
def hostKey (p bus : Nat) : Nat := p * 2 ^ 64 + bus
def hostRd (s : State) (p bus n : Nat) : List Byte := cellsGet s.hostMem (hostKey p bus) n
def hostNat (s : State) (p bus n : Nat) : Nat := leNat (s.hostRd p bus n)
def hostWr (s : State) (p bus : Nat) (bs : List Byte) : State :=
  { s with hostMem := cellsPut s.hostMem (hostKey p bus) bs }

/-- A fresh token for the free values of one use. -/
def tick (s : State) : State := { s with freeCtr := s.freeCtr + 1 }

/-- Bytes whose contents the manual leaves open, written from `a` on. -/
def wrFree (s : State) (a n : Nat) : State :=
  { (s.wr a ((List.range n).map (fun i => Config.freeByte s.freeCtr i))) with freeCtr := s.freeCtr + 1 }

def out (o : Output) (s : State) : State := { s with sent := o :: s.sent }

/-! ### Stored set-up registers -/

def reg (s : State) (o : Nat) : W64 := mget s.setup o (Regs.resetValue o)
def regNat (s : State) (o : Nat) : Nat := (s.reg o).toNat
/-- Bits [hi:lo] of a stored register. -/
def field (s : State) (o hi lo : Nat) : Nat := bits (s.reg o).toNat hi lo
def flag (s : State) (o i : Nat) : Bool := bit (s.reg o).toNat i
def setReg (o : Nat) (v : W64) (s : State) : State := { s with setup := mset s.setup o v }
def setRegNat (o : Nat) (v : Nat) (s : State) : State := s.setReg o (BitVec.ofNat 64 v)
def setField (o hi lo x : Nat) (s : State) : State := s.setRegNat o (setBits (s.regNat o) hi lo x)

/-- A FAULT or log register takes a fault only while its VALID bit is 0 (first fault stands). -/
def recordFault (o : Nat) (v : Nat) (s : State) : State :=
  if s.flag o 31 then s else s.setRegNat o (setBits v 31 31 1)

/-! ### The error log (R468) and the counters (R503, R508, R509) -/

/-- Write a record to the flight recorder, unless it is frozen (R467). -/
def recorded (r : LogRec) (s : State) : State :=
  { s with obs := { s.obs with recorder := if s.obs.recFrozen then s.obs.recorder else (r :: s.obs.recorder).take 262144 } }

/-- Write one entry to the error log and one of a KIND to the flight recorder. `unit` codes DOMAIN and UNIT: a tile,
0x100 + a solver engine, 0x200 + an update unit, 0x300 + a die's NI, 0x400 + a port, 0x500 + a die, 0x600 + a stack,
0x700 the module. -/
def logAs (kind : Nat) (code : W16) (unit : Nat) (handle : W32) (detail : W64) (s : State) : State :=
  let r : LogRec := ⟨s.obs.logSeq, code, unit, handle, s.beat.pos, detail, kind⟩
  { s with obs := { s.obs with
      log := (r :: s.obs.log).take 2097152
      logSeq := s.obs.logSeq + 1
      recorder := if s.obs.recFrozen then s.obs.recorder else (r :: s.obs.recorder).take 262144 } }

def log (code : W16) (unit : Nat) (handle : W32) (detail : W64) (s : State) : State := s.logAs 2 code unit handle detail

/-- A beat edge in the flight recorder. -/
def recordEdge (s : State) : State := s.recorded ⟨s.obs.logSeq, 0, 0x700, 0, s.beat.pos, 0, 3⟩

end State

/-- DETAIL of a GUARD_MISMATCH entry: STRUCT and INDEX of R447. -/
def guardDetail (struct index : Nat) : Nat := struct + index % 2 ^ 32 * 256

namespace State

/-- A guard mismatch that only discards what it guards. -/
def logGuard (unit : Nat) (h : W32) (struct index : Nat) (s : State) : State :=
  s.log 0x8010 unit h (BitVec.ofNat 64 (guardDetail struct index))

/-- A code reported to the management controller and logged (R474, kind Rep). -/
def report (code : W16) (unit : Nat) (s : State) : State :=
  (s.log code unit 0 0).out (.report code unit)

/-- Freeze the flight recorder and keep its records as a crash dump; the newest 12 dumps stand. A frozen recorder stays as it
is (R467). -/
def freezeRecorder (s : State) : State :=
  if s.obs.recFrozen then s
  else { s with obs := { s.obs with recFrozen := true, dumps := (s.obs.recorder :: s.obs.dumps).take 12 } }

/-- The code that a reset of a die or the module follows: the one of a declaration that froze the recorder, else 0. -/
def resetCause (s : State) : W16 :=
  match s.obs.recorder with
  | r :: _ => if s.obs.recFrozen ∧ r.kind = 5 then r.code else 0
  | [] => 0

/-- The code of a reset is appended to the frozen recorder and its dump, as a state change (R466, R467). -/
def appendReset (code : W16) (unit : Nat) (s : State) : State :=
  let r : LogRec := ⟨s.obs.logSeq, code, unit, 0, s.beat.pos, 0, 4⟩
  { s with obs := { s.obs with
    recorder := (r :: s.obs.recorder).take 262144
    dumps := match s.obs.dumps with | d :: rest => (r :: d).take 262144 :: rest | [] => [] } }

/-- A reset freezes the recorder and leaves its code there. -/
def freezeForReset (code : W16) (unit : Nat) (s : State) : State := (s.freezeRecorder).appendReset code unit

/-- Add to a 48-bit counter unless OBS.CTRL.FREEZE stops it (R503, R517). -/
def bump (o n : Nat) (s : State) : State :=
  if s.flag Regs.obsCtrl 0 then s else s.setRegNat o ((s.regNat o + n) % 2 ^ 48)

/-- Index of a counted code among a die's totals (R508). -/
def countIndex (code : Nat) : Option Nat :=
  if code = 0x1141 then some 0 else if code = 0x1142 then some 1 else if code = 0x1143 then some 2
  else if code = 0x2101 then some 4 else if code = 0x2102 then some 5 else if code = 0x2103 then some 6
  else if code = 0x2105 then some 7 else if code = 0x2202 then some 8 else if code = 0x2203 then some 9
  else if code = 0x2301 then some 10 else if code = 0x2302 then some 11 else if code = 0x2303 then some 12
  else if code = 0x2304 then some 13 else if code = 0x2310 then some 14 else if code = 0x2311 then some 15
  else if code = 0x3105 then some 16 else if code = 0x3111 then some 17 else if code = 0x3210 then some 18
  else if code = 0x3230 then some 19 else if code = 0x4410 then some 20 else if code = 0x4431 then some 21
  else if code = 0x4432 then some 22 else if code = 0x4433 then some 23 else if code = 0x5101 then some 24
  else if code = 0x5104 then some 25 else if code = 0x5106 then some 26 else if code = 0x5203 then some 27
  else if code = 0x5206 then some 28 else if code = 0x6110 then some 29 else if code = 0x6123 then some 30
  else none

/-- The job slot of a die that a job is bound to (R509). -/
def jobSlot (s : State) (d : Nat) (h : W32) : Option Nat :=
  (List.range 16).find? (fun j => s.field (Regs.obsSlotH d j) 31 0 == h.toNat && s.flag (Regs.obsSlotH d j) 32)

/-- Add to one counter of a job's slot; a slot counter saturates at 32 bits (R509). -/
def bumpSlot (d : Nat) (h : W32) (i n : Nat) (s : State) : State :=
  if s.flag Regs.obsCtrl 0 then s else
  match s.jobSlot d h with
  | none => s
  | some j => s.setRegNat (Regs.obsSlot d j i) (min (s.regNat (Regs.obsSlot d j i) + n) (2 ^ 32 - 1))

/-- Note that a counted code rose, for the summary of the second (R468): `place` is the die, port or ring. -/
def noteCounted (code place n : Nat) (s : State) : State :=
  let k := code * 65536 + place
  { s with obs := { s.obs with counted := mset s.obs.counted k (mget s.obs.counted k 0 + n) } }

/-- A counted event of a job on a die (R131, R508, R509); handle 0 for none. -/
def count (code d : Nat) (h : W32) (n : Nat) (s : State) : State :=
  if n = 0 then s else
  match countIndex code with
  | none => s.noteCounted code d n
  | some i => ((s.bump (Regs.obsTotal d i) n).bumpSlot d h i n).noteCounted code d n

/-- The late-entry total at index 3 (R43, R508). -/
def countLate (d : Nat) (h : W32) (s : State) : State :=
  (s.bump (Regs.obsTotal d 3) 1).bumpSlot d h 3 1

/-! ### Jobs -/

def findJob (s : State) (h : W32) : Option Job := s.jobs.find? (fun j => j.handle == h)
def findJobId (s : State) (id : W32) : Option Job := s.jobs.find? (fun j => j.block.jobId == id)
def mapJob (h : W32) (f : Job → Job) (s : State) : State :=
  { s with jobs := s.jobs.map (fun j => if j.handle = h then f j else j) }
/-- The replay point of a job is lost (R453). -/
def loseReplay (h : W32) (s : State) : State := s.mapJob h (fun j => { j with replay := none })
/-- The quiet timers of the jobs that satisfy `p` restart (R462). -/
def quietRestart (p : Job → Bool) (s : State) : State :=
  { s with recov := { s.recov with hang := s.recov.hang.map (fun (x : HangJob) =>
      if s.jobs.any (fun j => j.handle == x.handle && p j) then { x with quiet := 0 } else x) } }

/-! ### Threads -/

end State

end Sys2Proof.Machine

namespace Sys2Proof

/-- Number of a thread in the thread map: tile threads, then solver threads, then update threads. -/
def ThreadId.key : ThreadId → Nat
  | .tile t n => t.val * 28 + n.val
  | .solver e n => 7168 + e.val * 2 + n.val
  | .update u n => 7200 + u.val * 4 + n.val

/-- ENGINE code of the engine that runs a thread (R67, R90). -/
def ThreadId.engine : ThreadId → Nat
  | .tile _ n => if n.val < 4 then 1 else if n.val < 12 then 2 else 3
  | .solver _ _ => 4
  | .update _ _ => 5

/-- The die a thread runs on (R14, R17, R255). -/
def ThreadId.die : ThreadId → Nat
  | .tile t _ => t.val / 64
  | .solver e _ => e.val / 4
  | .update u _ => u.val / 2

/-- THREAD code of a thread in R90. -/
def ThreadId.index : ThreadId → Nat
  | .tile _ n => n.val
  | .solver _ n => n.val
  | .update _ n => n.val

/-- The thread of a key. -/
def ThreadId.ofKey (k : Nat) : ThreadId :=
  if k < 7168 then .tile (Fin.ofNat 256 (k / 28)) (Fin.ofNat 28 (k % 28))
  else if k < 7200 then .solver (Fin.ofNat 16 ((k - 7168) / 2)) (Fin.ofNat 2 (k - 7168))
  else .update (Fin.ofNat 8 ((k - 7200) / 4)) (Fin.ofNat 4 (k - 7200))

/-- UNIT code of a thread's unit in a Sillage record (R510). -/
def ThreadId.unit : ThreadId → Nat
  | .tile t _ => t.val
  | .solver e _ => 0x100 + e.val
  | .update u _ => 0x200 + u.val

end Sys2Proof

namespace Sys2Proof.Machine

/-- The same for a thread key. -/
def keyDie (k : Nat) : Nat := if k < 7168 then k / 28 / 64 else if k < 7200 then (k - 7168) / 8 else (k - 7200) / 8
def keyEngine (k : Nat) : Nat :=
  if k < 7168 then (if k % 28 < 4 then 1 else if k % 28 < 12 then 2 else 3) else if k < 7200 then 4 else 5
def keyIndex (k : Nat) : Nat := if k < 7168 then k % 28 else if k < 7200 then (k - 7168) % 2 else (k - 7200) % 4
def keyUnit (k : Nat) : Nat :=
  if k < 7168 then k / 28 else if k < 7200 then 0x100 + (k - 7168) / 2 else 0x200 + (k - 7200) / 4

/-- A thread not bound to a job. -/
def Thread.idle : Thread :=
  ⟨.free, 0, 0, [], [], none, none, 0, [], none, [], false, false, [], List.replicate 8 0, none⟩

/-- Code of a thread state (R62). -/
def TSt.code : TSt → Nat
  | .free => 0 | .ready => 1 | .waitList => 2 | .waitEvent => 3 | .waitExt => 4 | .waitBeat => 5
  | .waitData => 6 | .waitUnit => 7 | .waitOrder => 8 | .done => 9 | .halted => 0xA

/-- Stall reason of a thread state (R505). -/
def TSt.reason : TSt → Nat
  | .waitList => 1 | .waitData => 2 | .waitUnit => 3 | .waitOrder => 4 | .waitEvent => 5 | .waitExt => 6
  | .waitBeat => 7 | .halted => 8 | _ => 0

namespace State

def thread (s : State) (k : Nat) : Thread := mget s.threads k Thread.idle
def setThread (k : Nat) (t : Thread) (s : State) : State := { s with threads := mset s.threads k t }
def mapThread (k : Nat) (f : Thread → Thread) (s : State) : State := s.setThread k (f (s.thread k))
/-- Apply a change to every thread that is bound to a job. -/
def mapThreadsOf (h : W32) (f : Nat → Thread → Thread) (s : State) : State :=
  { s with threads := s.threads.map (fun c => if c.2.job = h ∧ c.2.st ≠ .free then (c.1, f c.1 c.2) else c) }

end State

/-! ### Units of a job -/

def Job.engines (j : Job) : List Nat := (List.range 16).filter (fun e => bit j.image.solverMask e)
def Job.updates (j : Job) : List Nat := (List.range 8).filter (fun u => bit j.image.updateMask u)
def Job.ownsBank (j : Job) (d b : Nat) : Bool := bit (j.block.banks.getD d 0).toNat b
def Job.niBase (j : Job) (d : Nat) : Nat := bits (j.block.niw.getD d 0).toNat 8 0
def Job.niCount (j : Job) (d : Nat) : Nat := bits (j.block.niw.getD d 0).toNat 18 9
def Job.trigCount (j : Job) (d : Nat) : Nat := bits (j.block.niw.getD d 0).toNat 31 19

/-- The job uses a unit of the die. -/
def Job.usesDie (j : Job) (d : Nat) : Bool :=
  j.block.tiles.any (fun t => t / 64 == d) || j.engines.any (fun e => e / 4 == d)
    || j.updates.any (fun u => u / 2 == d) || (j.block.banks.getD d 0 != 0)
    || j.niCount d != 0 || j.trigCount d != 0

/-- Two jobs share a tile, solver engine, update unit, job-owned bank or NI window (R46, R94, R319). -/
def Job.shares (a b : Job) : Bool :=
  a.block.tiles.any (fun t => b.block.tiles.contains t)
    || (a.image.solverMask &&& b.image.solverMask) != 0
    || (a.image.updateMask &&& b.image.updateMask) != 0
    || (List.range 4).any (fun d =>
        (a.block.banks.getD d 0 &&& b.block.banks.getD d 0) != 0
          || (a.niCount d != 0 && b.niCount d != 0 && a.niBase d < b.niBase d + b.niCount d && b.niBase d < a.niBase d + a.niCount d)
          || decide (4096 < a.trigCount d + b.trigCount d))

/-- The lowest-numbered die that holds a unit of the job (R44). -/
def Job.lowDie (j : Job) : Nat := ((List.range 4).find? (fun d => j.usesDie d)).getD 0

/-- A job that is admitted or running, not one that is being quenched (R64, R99). -/
def Job.live (j : Job) : Bool := j.st == .admitted || j.st == .running || j.st == .held
/-- A running job, held by a takeover or not. -/
def Job.runs (j : Job) : Bool := j.st == .running || j.st == .held

/-! ### The address map -/

/-- Where an address falls, with the offset inside the unit. -/
inductive Place where
  | scratch (t : Nat) (off : Nat)
  | tbuf (t : Nat) (off : Nat)
  | shared (d : Nat) (off : Nat)
  | staging (d : Nat) (off : Nat)
  | stack (s : Nat) (off : Nat)
  | host (p : Nat) (off : Nat)
  | pinView (d : Nat) (i : Nat) (off : Nat)
  | badChip
  | badStack
deriving DecidableEq, Repr

/-- An on-chip address in the normal window (R132). -/
def placeChip (a : Nat) : Place :=
  let o := a - 0x800000000000
  if o < 0x40000000 then .scratch (o / 0x400000) (o % 0x400000)
  else if o < 0x44000000 then .tbuf ((o - 0x40000000) / 0x40000) ((o - 0x40000000) % 0x40000)
  else if 0x80000000 ≤ o ∧ o < 0xA0000000 then
    .shared ((o - 0x80000000) / 0x8000000) ((o - 0x80000000) % 0x8000000)
  else if 0xC0000000 ≤ o ∧ o < 0xC8000000 then
    .staging ((o - 0xC0000000) / 0x2000000) ((o - 0xC0000000) % 0x2000000)
  else .badChip

/-- The window of an address: 0 normal, 1 bit-set, 2 bit-clear, 3 unmapped (R133). -/
def windowOf (a : Nat) : Nat := if a < 0x800000000000 then 0 else bits a 41 40

/-- The same address in the normal window. -/
def plainAddr (a : Nat) : Nat := if a < 0x800000000000 then a else setBits a 41 40 0

/-- Where a module address falls (R132, R133, R156, R278, R399). -/
def placeOf (a : Nat) : Place :=
  if a < 0x006000000000 then .stack (a / 0xC00000000) (a % 0xC00000000)
  else if 0x100000000000 ≤ a ∧ a < 0x200000000000 then .host 0 (a - 0x100000000000)
  else if 0x200000000000 ≤ a ∧ a < 0x300000000000 then .host 1 (a - 0x200000000000)
  else if 0x7E0000000000 ≤ a ∧ a < 0x7E0800000000 then
    let o := a - 0x7E0000000000
    .pinView (o / 0x200000000) (o / 0x2000000 % 256) (o % 0x2000000)
  else if a < 0x800000000000 then .badStack
  else if windowOf a = 3 then .badChip
  else
    match placeChip (plainAddr a) with
    | .tbuf t o => if windowOf a = 0 then .tbuf t o else .badChip
    | p => p

/-- Module address of a scratchpad, tile buffer, shared store, NI staging byte. -/
def scratchAddr (t off : Nat) : Nat := 0x800000000000 + t * 0x400000 + off
def tbufAddr (t off : Nat) : Nat := 0x800040000000 + t * 0x40000 + off
def sharedAddr (d off : Nat) : Nat := 0x800080000000 + d * 0x8000000 + off
def stagingAddr (d off : Nat) : Nat := 0x8000C0000000 + d * 0x2000000 + off
def stackAddr (s off : Nat) : Nat := s * 0xC00000000 + off

/-- Logical channel of an offset within a stack (R157). -/
def channelOf (o : Nat) : Nat := bits o 14 8 ^^^ bits o 21 15

end Sys2Proof.Machine
end

