-- ==== Sys2Proof/Machine/Flit.lean ====
section
/-! DEFINITION. The flits of a group port (spec/11_fabric.md, R290 to R294): sequence numbers, the retry buffer,
credits, and the choice of the next flit. -/

namespace Sys2Proof.Machine

/-- Credits of the receive buffers VC0 to VC5 and of the relay buffers VC2 to VC5 of a port (R293). -/
def fullCredits : List Nat := [32, 64, 512, 768, 256, 256]
def fullRelay : List Nat := [128, 128, 128, 128]

/-- Port of slot `a` that is wired to slot `t`, and the slot that port `i` of slot `a` is wired to (R289). -/
def portTo (a t : Nat) : Nat := (t + 15 - a) % 8
def slotOf (a i : Nat) : Nat := (a + i + 1) % 8

def noCounts : List Nat := List.replicate 6 0

def Link.fresh : Link := ⟨.down, false, false, 0xF, 0x1FF, 0, 0, 0, 0, 0, 0, 0, [], 0, 0, 0,
  noCounts, List.replicate 4 0, [], false, noCounts, noCounts, none, 0, 0, 0, List.replicate 9 0, 0, 0⟩

def LinkSt.code : LinkSt → Nat
  | .disabled => 0 | .down => 1 | .train => 2 | .hello => 3 | .up => 4 | .swap => 5 | .parked => 6
  | .isolated => 7 | .failed => 8

/-- The port is in service: UP, or UP but for a swap or a parked partner, which hold traffic and re-route none
(R296, R300). -/
def LinkSt.serves : LinkSt → Bool
  | .up => true | .swap => true | .parked => true | _ => false

/-- Channel of the relay buffer that a relayed flit uses: its own, and VC2 for VC1 (R293). -/
def relayVc (vc : Nat) : Nat := max 2 vc

/-- A credit for a flit on the next hop. Only DATA takes one; a relayed flit takes a relay credit (R293). -/
def hasCredit (l : Link) (f : TxFlit) : Bool :=
  f.kind != 1 || (if f.relay then decide (0 < l.relayCredits.getD (relayVc f.vc - 2) 0) else decide (0 < l.credits.getD f.vc 0))

def takeCredit (f : TxFlit) (l : Link) : Link :=
  if f.kind ≠ 1 then l
  else if f.relay then
    { l with relayCredits := l.relayCredits.set (relayVc f.vc - 2) (l.relayCredits.getD (relayVc f.vc - 2) 0 - 1) }
  else { l with credits := l.credits.set f.vc (l.credits.getD f.vc 0 - 1) }

namespace Link

/-- The first DATA flit that a port holds for a channel, direct or relayed, where it has a credit: the order of R295 is
the order within each, and none waits for another's credits (R293). -/
def head (l : Link) (vc : Nat) (relay : Bool) : Option TxFlit :=
  (l.held.find? (fun f => f.kind == 1 && f.vc == vc && f.relay == relay)).filter (fun f => hasCredit l f)

/-- The next flit of a channel: relayed and direct flits take its turns alternately (R294). -/
def channelHead (l : Link) (vc : Nat) : Option TxFlit :=
  let relayed := bit l.relayNext vc
  (l.head vc relayed).or (l.head vc !relayed)

/-- The turn of the deficit round-robin over VC2 to VC5 and the flits it has left (R294): the channel whose turn it is
keeps it while it can send; then the next of them with a weight, then the next with weight 0. -/
def nextTurn (l : Link) (weight : Nat → Nat) : Option (Nat × Nat) :=
  let ready := fun k => (l.channelHead (k + 2)).isSome
  let after := (List.range 4).map (fun i => (l.turn + 1 + i) % 4)
  if ready l.turn ∧ 0 < l.turnLeft then some (l.turn, l.turnLeft - 1)
  else match after.find? (fun k => ready k && decide (0 < weight k)) with
    | some k => some (k, weight k - 1)
    | none => (after.find? ready).map (fun k => (k, 0))

/-- The next flit that leaves, and the round-robin's turn after it (R294): a flit of VC0, then one of VC1, then one of
VC2 to VC5 by its turn. DATA leaves while the port is UP; control flits do not wait for data. A flit waits for room in
the retry buffer (R291). -/
def pick (l : Link) (weight : Nat → Nat) : Option (TxFlit × Nat × Nat) :=
  if !(l.st == .up || l.st == .parked) || decide (256 ≤ l.retry.length) then none
  else match l.held.find? (fun f => f.kind != 1) with
    | some f => some (f, l.turn, l.turnLeft)
    | none =>
      if l.st ≠ .up then none
      else match (l.head 0 false).or (l.channelHead 1) with
        | some f => some (f, l.turn, l.turnLeft)
        | none =>
          match l.nextTurn weight with
          | some (k, left) => (l.channelHead (k + 2)).map (fun f => (f, k, left))
          | none => none

end Link

namespace State

def link (s : State) (p : Nat) : Link := mget s.fabric.links p Link.fresh
def mapLink (p : Nat) (f : Link → Link) (s : State) : State :=
  { s with fabric := { s.fabric with links := mset s.fabric.links p (f (s.link p)) } }

/-- The flit takes the next sequence number, is kept for replay and leaves with the ACK of the last flit received in
order (R290, R291). A CREDIT flit carries every count returned and not acknowledged yet (R292). -/
def emit (p : Nat) (f : TxFlit) (s : State) : State :=
  let l := s.link p
  let q := (l.txSeq + 1) % 256
  let f := { f with seq := q, inPort := none, value := if f.kind = 2 then (List.range 6).foldl (fun v k => v + l.owed.getD k 0 * 2 ^ (16 * k)) 0
    else f.value }
  ((s.mapLink p (fun l => takeCredit f { l with
    txSeq := q, retry := l.retry ++ [f]
    relayNext := if f.kind = 1 then setBits l.relayNext f.vc f.vc (if f.relay then 0 else 1) else l.relayNext
    owed := if f.kind = 2 then noCounts else l.owed
    inCredit := if f.kind = 2 then l.owed else l.inCredit
    creditSeq := if f.kind = 2 then some q else l.creditSeq })).out (.flit p f l.rxSeq)).bump (Regs.obsPort p f.vc) 1

/-- A control flit to the port's partner, by its KIND and value (R290, R292). A port in a swap holds it; a port out of
service sends none. -/
def control (s : State) (p kind value : Nat) : TxFlit :=
  ⟨0, kind, 0, false, s.fabric.slot, slotOf s.fabric.slot p, 0, value, none⟩

def sendCtl (p kind value : Nat) (s : State) : State :=
  let l := s.link p
  let f := s.control p kind value
  if !l.st.serves then s
  else if l.st ≠ .swap ∧ l.retry.length < 256 ∧ !l.held.any (fun f => f.kind != 1) then s.emit p f
  else s.mapLink p (fun l => { l with held := l.held ++ [f] })

/-- An IDLE flit fills a flit slot with the port's ACK; it takes no sequence number (R290, R291). -/
def sendIdle (p : Nat) (s : State) : State :=
  s.out (.flit p { s.control p 0 0 with seq := (s.link p).txSeq } (s.link p).rxSeq)

/-- A CREDIT flit leaves where counts are owed and none waits for its acknowledgement (R292). -/
def offerCredit (p : Nat) (s : State) : State :=
  let l := s.link p
  if l.creditSeq.isNone ∧ l.owed.any (fun n => n != 0) ∧ !l.held.any (fun f => f.kind == 2) then s.sendCtl p 2 0 else s

/-- A buffer place of a channel is free again: its credit goes back to the partner (R292, R293). -/
def returnCredit (p vc : Nat) (s : State) : State :=
  (s.mapLink p (fun l => { l with owed := l.owed.set vc (l.owed.getD vc 0 + 1) })).offerCredit p

/-- A flit leaves; one that passes through frees its relay buffer at the port it came by (R293). -/
def depart (p : Nat) (f : TxFlit) (s : State) : State :=
  let s := s.emit p f
  match f.inPort with
  | some q => (s.bump (Regs.obsPort p 12) 1).returnCredit q (relayVc f.vc)
  | none => s

def weightOf (s : State) (p k : Nat) : Nat := s.field (Regs.vcWeight p) (8 * k + 7) (8 * k)

def pumpFuel (fuel p : Nat) (s : State) : State :=
  match fuel with
  | 0 => s
  | n + 1 =>
    match (s.link p).pick (s.weightOf p) with
    | none => s
    | some (f, turn, left) =>
      pumpFuel n p ((s.mapLink p (fun l => { l with held := l.held.erase f, turn := turn, turnLeft := left })).depart p f)

/-- What a port holds leaves it as far as the port can send, in the order of R294. -/
def pump (p : Nat) (s : State) : State := s.pumpFuel ((s.link p).held.length + 1) p

/-- Send a flit on a port, behind what it holds, or `front` of it (R304). -/
def txPut (front : Bool) (p : Nat) (f : TxFlit) (s : State) : State :=
  (s.mapLink p (fun l => { l with held := if front then f :: l.held else l.held ++ [f] })).pump p

def txOn (p : Nat) (f : TxFlit) (s : State) : State := s.txPut false p f

end State
end Sys2Proof.Machine
end

