-- ==== Sys2Proof/Machine/Link.lean ====
section
/-! DEFINITION. The transmit side of the fabric (spec/11_fabric.md): routes (R302, R304 to R306), Ethernet messages and
queue pairs (R308, R309), and the messages that the network interfaces send to other modules. -/

namespace Sys2Proof.Machine

/-- Port number of a fabric port as FAB.ERR_LOG codes it: G0 to G6 as 0 to 6, E0 and E1 as 8 and 9 (R315). -/
def portCode (p : Nat) : Nat := if p < 7 then p else p + 1

/-- Kinds of the messages an NI sends (R326, R332, R333, R340) and of the answers to a GET (R381). -/
def kReady : Nat := 1
def kGet : Nat := 2
def kJoin : Nat := 3
def kQuench : Nat := 4
def kData : Nat := 5
def kGone : Nat := 6
def kAhead : Nat := 7
def kDenied : Nat := 8
def kRefused : Nat := 9
def kOpenPair : Nat := 10
def kRemoteDenied : Nat := 11
def kHello : Nat := 12

/-- Queue pairs to a remote module that are not open yet. -/
def QPair.fresh (m : Nat) : QPair :=
  ⟨m, [false, false], [1000000, 1000000], 0, noCounts, noCounts, [], [], 0, false⟩

namespace State

/-- Group × 8 + slot of this module (R6, R321). -/
def moduleNo (s : State) : Nat := s.fabric.group * 8 + s.fabric.slot

/-- A reported fabric fault: the first since the last clear stands in FAB.ERR_LOG (R315, R317). -/
def fabReport (code : W16) (p : Nat) (s : State) : State :=
  (s.recordFault Regs.fabErrLog (code.toNat + portCode p * 2 ^ 16)).report code (0x400 + portCode p)

/-! ### Routes (R289, R302, R304 to R306) -/

/-- The route that the links give now to a slot: own, direct, relayed through the lowest slot that serves, or
none. -/
def findRoute (s : State) (t : Nat) : Nat × Nat × Nat :=
  let own := s.fabric.slot
  if t = own then (0, 0, 0)
  else if (s.link (portTo own t)).st.serves then (1, portTo own t, 0)
  else
    match (List.range 8).find? (fun m => m != own && m != t && (s.link (portTo own m)).st == .up
        && bit (s.link (portTo own m)).peerUp (portTo m t)) with
    | some m => (2, portTo own m, m)
    | none => (3, 0, 0)

def route (s : State) (t : Nat) : Nat × Nat × Nat :=
  if t = s.fabric.slot then (0, 0, 0) else mget s.fabric.routes t (3, 0, 0)

def holdFlit (f : TxFlit) (s : State) : State := { s with fabric := { s.fabric with noRoute := s.fabric.noRoute ++ [f] } }

/-- Send a flit toward a slot of the group by its route; with none it is held (R306), as it is while the slot's route
returns to its direct port (R305). -/
def txFlit (f : TxFlit) (s : State) : State :=
  if s.fabric.returning.contains f.dst then s.holdFlit f
  else match s.route f.dst with
    | (1, p, _) => s.txOn p { f with relay := false }
    | (2, p, _) => s.txOn p { f with relay := true }
    | (3, _, _) => s.holdFlit f
    | _ => s

/-- A DATA flit of this module's own. -/
def ownFlit (s : State) (vc dst len : Nat) (relay : Bool := false) : TxFlit := ⟨0, 1, vc, relay, s.fabric.slot, dst, len, 0, none⟩

def txAll (l : List TxFlit) (s : State) : State := l.foldl (fun st f => st.txFlit f) s

/-- This module's own DATA to a slot on a port: sent direct, or through the port's partner as a relay. What the module
forwards for others goes to the partner itself marked RELAY. -/
def ownTo (direct : Bool) (t : Nat) (f : TxFlit) : Bool := f.kind == 1 && f.dst == t && f.relay == !direct

/-- DATA that a port still owes to a slot: kept for replay and not acknowledged, then held. -/
def owedTo (direct : Bool) (l : Link) (t : Nat) : List TxFlit := l.retry.filter (ownTo direct t) ++ l.held.filter (ownTo direct t)

def dropOwed (direct : Bool) (t : Nat) (l : Link) : Link :=
  { l with retry := l.retry.filter (fun f => !ownTo direct t f), held := l.held.filter (fun f => !ownTo direct t f) }

/-- The route to one slot is brought up to date (R302, R305, R306): flits not acknowledged on the old route are
resent in order on the new one. While a direct port is back and the relay serves, no flit goes to the slot until the
slot has acknowledged every relayed flit; when it has, beyond the relay's own acknowledgements, the manual gives no sign
of, and a free bit says (log 48). -/
def updateRoute (t : Nat) (s : State) : State :=
  let old := s.route t
  let new := s.findRoute t
  let moving := fun (s : State) (moved : List TxFlit) =>
    let all := moved ++ s.fabric.noRoute.filter (fun f => f.dst == t)
    ({ s with fabric := { s.fabric with
      routes := mset s.fabric.routes t new, noRoute := s.fabric.noRoute.filter (fun f => f.dst != t)
      returning := s.fabric.returning.filter (fun x => x != t) } }, all)
  if t = s.fabric.slot then s
  else if old = new then
    if s.fabric.returning.contains t then
      let (s, all) := moving s []
      s.txAll all
    else s
  else
    let p := old.2.1
    let away := old.1 == 2 && new.1 == 1 && (s.link p).st.serves
    let waits := away && (!(owedTo false (s.link p) t).isEmpty || Config.freeBit s.freeCtr t)
    let s := if away then s.tick else s
    if waits then
      if s.fabric.returning.contains t then s else { s with fabric := { s.fabric with returning := s.fabric.returning ++ [t] } }
    else
      let moved := if old.1 = 1 ∨ old.1 = 2 then owedTo (old.1 == 1) (s.link p) t else []
      let s := if old.1 = 1 ∨ old.1 = 2 then s.mapLink p (dropOwed (old.1 == 1) t) else s
      let (s, moved) := moving s moved
      let s := if new.1 = 3 then s.fabReport 0x4108 (portTo s.fabric.slot t) else s
      let s := if new.1 = 1 ∧ (old.1 = 2 ∨ (s.link new.2.1).departed) then
          (s.mapLink new.2.1 (fun l => { l with departed := false })).fabReport 0x4105 new.2.1 else s
      s.txAll moved

/-! ### Ethernet (R308 to R310) -/

def pairOf (s : State) (m : Nat) : Option QPair := s.fabric.pairs.find? (fun q => q.remote == m)
def mapPair (m : Nat) (f : QPair → QPair) (s : State) : State :=
  { s with fabric := { s.fabric with pairs := s.fabric.pairs.map (fun q => if q.remote = m then f q else q) } }

/-- Priority of a virtual channel (R315). -/
def vcPriority (s : State) (vc : Nat) : Nat := if vc < 2 then s.field Regs.ethCfg 5 3 else s.field Regs.ethCfg 2 0

/-- An Ethernet port carries a pair's traffic of a virtual channel now. -/
def ethUsable (s : State) (q : QPair) (vc e : Nat) : Bool :=
  q.up.getD e false && mget s.fabric.eth e 1 == 4 && !bit (mget s.fabric.paused e 0) (s.vcPriority vc)

/-- Send one message of at most 4,096 bytes on the pair's next port, or on the other where that one cannot. -/
def ethSend (m vc len : Nat) (s : State) : State :=
  match s.pairOf m with
  | none => s
  | some q =>
    let e := if s.ethUsable q vc q.next then q.next else 1 - q.next
    let n := q.txSeq.getD vc 0
    let s := s.mapPair m (fun q => { q with
      next := 1 - e, txSeq := q.txSeq.set vc (n + 1), sent := (⟨e, vc, n, len⟩ :: q.sent).take 32 })
    (s.out (.ethMessage (7 + e) vc m n len)).bump (Regs.obsPort (7 + e) vc) ((len + 255) / 256)

/-- Queue pairs that are not open and of which the exchange has been started. -/
def opening (s : State) : Nat := (s.fabric.pairs.filter (fun q => q.asked && !q.up.any id)).length

/-- Exchanges start for the pairs that wait, while fewer than 256 are under way on a port (R309). -/
def askPairs (s : State) : State :=
  s.fabric.pairs.foldl (fun (st : State) q =>
    if q.asked ∨ 256 ≤ st.opening then st
    else (st.mapPair q.remote (fun q => { q with asked := true })).out (.message q.remote kOpenPair 0 0 0 [])) s

/-- The module starts to open the queue pairs to a remote module (R309). -/
def openPair (m : Nat) (s : State) : State :=
  match s.pairOf m with
  | some _ => s
  | none => ({ s with fabric := { s.fabric with pairs := s.fabric.pairs ++ [QPair.fresh m] } }).askPairs

/-- Traffic of a virtual channel can leave for a module now: a route within the group whose partner is not parked (R300)
and that is not returning (R305), an open pair and a port that is up and not paused outside it. -/
def canSend (s : State) (m vc : Nat) : Bool :=
  if m / 8 = s.fabric.group then
    let r := s.route (m % 8)
    (r.1 == 1 || r.1 == 2) && (s.link r.2.1).st != .parked && !s.fabric.returning.contains (m % 8)
  else match s.pairOf m with
    | some q => s.ethUsable q vc 0 || s.ethUsable q vc 1
    | none => false

/-- Payload lengths of the pieces of `n` bytes. -/
def cutBytes (size n : Nat) : List Nat :=
  List.replicate (n / size) size ++ (if n % size = 0 then [] else [n % size])

/-- Data of an action leaves for another module, in flits of 256 bytes or in messages of 4,096. -/
def sendBytes (m vc n : Nat) (s : State) : State :=
  if m / 8 = s.fabric.group then s.txAll ((cutBytes 256 n).map (s.ownFlit vc (m % 8)))
  else (cutBytes 4096 n).foldl (fun st k => st.ethSend m vc k) s

/-- A message of an NI leaves, on VC1 or the control priority, or waits until it can (R306, R309). A QUENCH goes on
VC0 of the direct port, or relayed as data at the head of VC2 (R304). -/
def sendMsg (g : NiMsg) (s : State) : State :=
  if g.remote / 8 = s.fabric.group ∧ g.remote % 8 = s.fabric.slot then s
  else
    let vc := if g.kind = kQuench then 0 else 1
    if s.canSend g.remote vc then
      let s := if g.remote / 8 = s.fabric.group then
          (if g.kind = kQuench then
            (if (s.route (g.remote % 8)).1 = 1 then s.sendCtl (s.route (g.remote % 8)).2.1 5 g.key.toNat
              else s.txPut true (s.route (g.remote % 8)).2.1 (s.ownFlit 2 (g.remote % 8) (max 1 g.data.length) true))
            else s.txFlit (s.ownFlit 1 (g.remote % 8) (max 1 g.data.length)))
        else s.ethSend g.remote vc g.data.length
      s.out (.message g.remote g.kind g.key g.round g.index g.data)
    else
      let s := { s with fabric := { s.fabric with outbox := s.fabric.outbox ++ [g] } }
      if g.remote / 8 = s.fabric.group then s else s.openPair g.remote

/-- Messages that wait are offered again. -/
def pumpMsgs (s : State) : State :=
  let l := s.fabric.outbox
  l.foldl (fun st g => st.sendMsg g) { s with fabric := { s.fabric with outbox := [] } }

/-- Routes, held flits and waiting messages after a change of a link, a pair or a port. -/
def fabricChanged (s : State) : State :=
  let s := (List.range 8).foldl (fun st t => st.updateRoute t) s
  ((List.range 7).foldl (fun st p => st.pump p) s).pumpMsgs

end State
end Sys2Proof.Machine
end

