-- ==== Sys2Proof/Machine/Keys.lean ====
section
/-! DEFINITION. The collective key table and the triggered-operation records as the network interfaces read them from a
program image (R321, R328), and the QUENCH that goes to the members of a job's collectives (R340). -/

namespace Sys2Proof.Machine

/-- A collective record as read from the key table (R321). -/
structure KeyRec where
  key : W32
  nkey : W32
  first : Nat
  rounds : Nat
  launch : Bool
  groups : Nat
  members : Nat
  dies : List Nat
  sig : W32
deriving DecidableEq, Repr

def KeyRec.firstSlot (k : KeyRec) (d : Nat) : Nat := bits (k.dies.getD d 0) 8 0
def KeyRec.slots (k : KeyRec) (d : Nat) : Nat := bits (k.dies.getD d 0) 18 9
def KeyRec.trig (k : KeyRec) (d : Nat) : Nat := bits (k.dies.getD d 0) 31 19
def KeyRec.trigOff (k : KeyRec) (d : Nat) : Nat := bits (k.dies.getD d 0) 63 32
/-- An NI whose SLOTS and TRIG are both 0 takes no part (R321). -/
def KeyRec.takesPart (k : KeyRec) (d : Nat) : Bool := k.slots d != 0 || k.trig d != 0

def keyRecOf (bs : List Byte) : KeyRec :=
  let n := fun o k => leNat ((bs.drop o).take k)
  ⟨BitVec.ofNat 32 (n 0 4), BitVec.ofNat 32 (n 4 4), n 8 4, n 12 4, bit (n 16 1) 0, n 17 1, n 20 4,
    [n 24 8, n 32 8, n 40 8, n 48 8], BitVec.ofNat 32 (n 56 4)⟩

/-- A triggered-operation record as read from the image (R328). -/
structure TrigRec where
  header : W32
  nheader : W32
  ctr : Nat
  thresh : Nat
  src : W64
  dst : W64
  bytes : Nat
  peer : Nat
  fmtIn : Nat
  fmtOut : Nat
  rctr : Nat
  rval : Nat
  stream : W32
  aux : Nat
  ef : W64
deriving DecidableEq, Repr

def TrigRec.action (r : TrigRec) : Nat := r.header.toNat % 256
def TrigRec.vc (r : TrigRec) : Nat := bits r.header.toNat 10 8
def TrigRec.sr (r : TrigRec) : Bool := bit r.header.toNat 11
def TrigRec.norm (r : TrigRec) : Bool := bit r.header.toNat 12

def trigRecOf (bs : List Byte) : TrigRec :=
  let n := fun o k => leNat ((bs.drop o).take k)
  ⟨BitVec.ofNat 32 (n 0 4), BitVec.ofNat 32 (n 4 4), n 8 4, n 12 4, BitVec.ofNat 64 (n 16 8), BitVec.ofNat 64 (n 24 8),
    n 32 4, n 36 2, n 38 1, n 39 1, n 40 4, n 44 4, BitVec.ofNat 32 (n 48 4), n 52 4, BitVec.ofNat 64 (n 56 8)⟩

def noCounter : Nat := 0xFFFFFFFF

namespace State

def keyRec (s : State) (j : Job) (k : Nat) : KeyRec := keyRecOf (s.rd (j.image.base + j.image.keyOff + 64 * k) 64)
def trigRec (s : State) (a : Nat) : TrigRec := trigRecOf (s.rd a 64)

/-- The module numbers of a member list (R321). -/
def memberList (s : State) (j : Job) (off : Nat) : List Nat :=
  let a := j.image.base + off
  (List.range (min (s.rdNat a 4) 8192)).map (fun i => s.rdNat (a + 4 + 2 * i) 2)

/-- Modules that some member list of a job names, but for this one (R340). -/
def jobPeers (s : State) (j : Job) : List Nat :=
  (((List.range j.image.keyCount).flatMap (fun k => s.memberList j (s.keyRec j k).members)).eraseDups).filter (fun m => m != s.moduleNo)

/-- The QUENCH of a job that was quenched here, to every other member (R340). -/
def sendQuench (j : Job) (s : State) : State :=
  (s.jobPeers j).foldl (fun st m => st.sendMsg ⟨0, m, kQuench, j.block.jobId, 0, 0, []⟩) s

end State
end Sys2Proof.Machine
end

