-- ==== Sys2Proof/Machine/Operands.lean ====
section
/-! DEFINITION. Operands: the address operands of R69, who makes an access, and what an access may touch: the
job's storage (R135), regions (R165), host ranges (R400), bank ownership (R139), bank power (R145), poison
(R148, R170) and channels (R174). The data cache (R142, R143) stands here too. -/

namespace Sys2Proof.Machine

/-- Who makes an access: KIND as R136 codes it (1 matrix, 2 vector, 3 transfer, 4 network interface, 5 update
unit, 6 solver engine; 0 the host interface engine), and the number of the tile, die, stack or engine. -/
structure Who where
  kind : Nat
  unit : Nat
deriving DecidableEq, Repr

/-- How a generation `a` stands to `b`: (a − b) mod 2^16 read as signed (R384). -/
def genDiff (a b : Nat) : Int := (BitVec.ofNat 16 (a + 65536 - b % 65536)).toInt

/-- 64 bytes hold a value and its complement (R380). -/
def isZeroGuard (bs : List Byte) : Bool := (List.zip (bs.take 32) (bs.drop 32)).all (fun x => x.2 == ~~~x.1)

def whoOf : ThreadId → Who
  | .tile t n => ⟨if n.val < 4 then 1 else if n.val < 12 then 2 else 3, t.val⟩
  | .solver e _ => ⟨6, e.val⟩
  | .update u _ => ⟨5, u.val⟩

/-- Outcome of an access check. -/
inductive Acc where
  | ok
  /-- The bank is becoming ON, or a W1 wake runs (R145, R147): the thread waits in WAIT_DATA. -/
  | wait
  | bad (code : W16)
deriving DecidableEq, Repr

def Acc.andThen (a b : Acc) : Acc :=
  match a, b with
  | .bad c, _ => .bad c
  | _, .bad c => .bad c
  | .wait, _ => .wait
  | _, x => x

/-! ### Address operands (R69) -/

/-- The effective address of an 8-byte address operand, or none where a reserved bit is set or the base is
not the thread's to use. -/
def resolveAddr (t : ThreadId) (bases : List (BitVec 48)) (op : W64) : Option Nat :=
  let off := bits op.toNat 47 0
  let base := bits op.toNat 51 48
  if bits op.toNat 63 52 ≠ 0 then none
  else if base = 0 then some off
  else if base ≤ 13 then some (((bases.getD (base - 1) 0).toNat + off) % 2 ^ 48)
  else if base = 14 then
    if setBits off 41 40 0 < 0x8000000 then
      some (sharedAddr t.die (setBits off 41 40 0) + bits off 41 40 * 2 ^ 40) else none
  else
    match t with
    | .tile n _ =>
      if setBits off 41 40 0 < 0x400000 then
        some (scratchAddr n.val (setBits off 41 40 0) + bits off 41 40 * 2 ^ 40) else none
    | _ => none

/-! ### Banks (R134, R136, R144, R145, R147) -/

/-- Number of a bank: scratchpad bank b of tile t, or 4096 + 64d + b of a shared store. -/
def bankOf (p : Place) : Option Nat :=
  match p with
  | .scratch t o => some (t * 16 + o / 0x40000)
  | .shared d o => some (4096 + d * 64 + o / 0x200000)
  | _ => none

def ownerReg (bank : Nat) : Nat :=
  if bank < 4096 then Regs.tilOwner (bank / 16) (bank % 16) else Regs.shsOwner ((bank - 4096) / 64) (bank % 64)

/-- Start address and size of a bank. -/
def bankAddr (bank : Nat) : Nat :=
  if bank < 4096 then scratchAddr (bank / 16) (bank % 16 * 0x40000)
  else sharedAddr ((bank - 4096) / 64) (bank % 64 * 0x200000)
def bankSize (bank : Nat) : Nat := if bank < 4096 then 0x40000 else 0x200000
def bankDie (bank : Nat) : Nat := if bank < 4096 then bank / 1024 else (bank - 4096) / 64

namespace State

/-- MODE of a bank: 0 ON, 1 RETENTION, 2 OFF (R150). -/
def bankMode (s : State) (bank : Nat) : Nat :=
  if bank < 4096 then s.field (Regs.tilPwr (bank / 16)) (2 * (bank % 16) + 1) (2 * (bank % 16))
  else
    let b := (bank - 4096) % 64
    s.field (Regs.shsPwr ((bank - 4096) / 64) (b / 16)) (2 * (b % 16) + 1) (2 * (b % 16))

/-- An access to a bank meets its power mode (R145). A tile whose memory is in W1 retention, or that is coming
out of it, makes the access wait (R147). -/
def bankAcc (s : State) (bank : Nat) : Acc :=
  let compat := s.flag (Regs.memCompat (bank / 16)) 0
  if bank < 4096 && !s.flag (Regs.memCompat (bank / 16)) 1 then
    if compat || s.bankMode bank = 0 then .wait else .bad 0x3107
  else if bank < 4096 && compat then .ok
  else
    match s.store.moves.find? (fun m => m.bank == bank) with
    | some m => if m.target = 0 then .wait else .bad 0x3107
    | none => if s.bankMode bank = 0 then .ok else .bad 0x3107

/-- The engine that a bank's owner register names (R136), as who. -/
def bankOwner (s : State) (bank : Nat) : Who :=
  let v := s.regNat (ownerReg bank)
  let kind := bits v 2 0
  let u := bits v 13 8
  let d := bankDie bank
  if kind = 0 then ⟨7, 0⟩
  else if kind ≤ 3 then ⟨kind, if bank < 4096 then bank / 16 else 64 * d + u⟩
  else if kind = 4 then ⟨4, d⟩
  else if kind = 5 then ⟨5, 2 * d + u⟩
  else ⟨6, 4 * d + u⟩

/-- Ownership (R139): the owner passes; a transfer engine, network interface or the host interface engine
passes where STEAL is 1 and the bank has an owner; every other access is refused. -/
def ownAcc (s : State) (w : Who) (bank : Nat) : Acc :=
  if s.bankOwner bank = w then .ok
  else if (w.kind = 3 ∨ w.kind = 4 ∨ w.kind = 0) ∧ s.flag (ownerReg bank) 16 ∧ s.field (ownerReg bank) 2 0 ≠ 0
  then .ok
  else .bad 0x3106

/-- A TIL.MEM_COMPAT wake starts at the first access to a tile in W1 retention (R147). -/
def startWake (tile : Nat) (s : State) : State :=
  if s.flag (Regs.memCompat tile) 0 && !s.flag (Regs.memCompat tile) 1 && !s.store.compatWaking.contains tile then
    { s with store := { s.store with compatWaking := tile :: s.store.compatWaking } }
  else s

/-- Tiles of W1 retention that an access to an extent wakes. -/
def wakeFor (a : Nat) (s : State) : State :=
  match placeOf a with
  | .scratch t _ => s.startWake t
  | .tbuf t _ => s.startWake t
  | _ => s

/-! ### Regions and host ranges (R164, R165, R400) -/

/-- The valid region-table entry of lowest index that holds a whole extent of stacked memory. -/
def regionOf (s : State) (a n : Nat) : Option Nat :=
  (List.range 64).find? (fun i =>
    s.flag (Regs.rgnLo i) 0
      && decide (s.field (Regs.rgnLo i) 38 21 * 0x200000 ≤ a)
      && decide (a + n ≤ (s.field (Regs.rgnHi i) 38 21 + 1) * 0x200000))

/-- A stacked-memory access with a region tag (R164, R165); `solver` marks a solver engine's. -/
def regionAcc (s : State) (tag : Nat) (solver write : Bool) (a n : Nat) : Acc :=
  match s.regionOf a n with
  | none => .bad 0x3201
  | some i =>
    let kind := s.field (Regs.rgnLo i) 3 1
    let t := s.field (Regs.rgnHi i) 15 0
    if t = 0 ∨ t ≠ tag then .bad 0x3201
    else if kind = 0 then
      if write then (if s.flag (Regs.rgnHi i) 17 then .ok else if s.flag (Regs.rgnHi i) 16 then .bad 0x3203 else .bad 0x3201)
      else if s.flag (Regs.rgnHi i) 16 then .ok else .bad 0x3201
    else if kind = 2 then (if !write || solver then .ok else .bad 0x3203)
    else .bad 0x3201

/-- A physical channel serves each logical channel of a stack (R182). -/
def physCh (s : State) (stack ch : Nat) : Nat :=
  match (mget s.stk.remap stack []).find? (fun x => x.2 == ch) with
  | some (k, _) => 128 + k
  | none => ch

def chState (s : State) (stack pch : Nat) : ChSt :=
  mget s.stk.chSt (stack * 132 + pch) (if pch < 128 then .ok else .spare)

/-- An access meets a channel that is DOWN (R174). -/
def channelAcc (s : State) (a n : Nat) : Acc :=
  let first := a / 256
  let last := (a + n - 1) / 256
  let chans := (List.range (min (last + 1 - first) 4096)).map (fun i =>
    let o := (first + i) * 256
    (o / 0xC00000000, channelOf (o % 0xC00000000)))
  if chans.any (fun c => s.chState c.1 (s.physCh c.1 c.2) == .down) then .bad 0x3220 else .ok

/-- An access to host memory (R399, R400): inside a host range of the job with its right, through a port that
is up and not departed. `bus` is the bus address. -/
def hostAcc (s : State) (j : Job) (p bus n : Nat) (write : Bool) : Acc :=
  if !(j.block.hostr.any (fun r => r.port == p && decide (r.base ≤ bus) &&
      decide (bus + n ≤ r.base + r.pages * 4096) && (if write then r.wr else r.rd))) then .bad 0x1151
  else
    match mfind s.host.ports p with
    | some q => if q.up && !q.departed then .ok else .bad 0x1152
    | none => .bad 0x1152

/-- Bus address of an offset in the host window of a port (R399). -/
def busAddr (s : State) (p off : Nat) : Nat := s.field (Regs.hwin p) 63 44 * 2 ^ 44 + off

/-- Poison of a read on chip (R148) and in the stacks (R170). -/
def poisonChip (s : State) (a n : Nat) : Bool :=
  s.store.poison.any (fun w => decide (w < a + n) && decide (a < w + 8))
def poisonStack (s : State) (a n : Nat) : Bool :=
  s.stk.poison.any (fun w => decide (w < a + n) && decide (a < w + 64))
    || s.stk.filled.any (fun c =>
      (List.range ((a + n + 63) / 64 - a / 64)).any (fun i =>
        let w := (a / 64 + i) * 64
        w / 0xC00000000 * 128 + channelOf (w % 0xC00000000) == c.1 && !c.2.contains w))

end State

/-! ### Root slots and pin views (R275, R278, R279) -/

namespace State

/-- Bytes of one buffer of a root slot: its matrix, for EIGBASIS with the n estimates, to a whole 4 KiB (R275). -/
def slotBytes (n op : Nat) : Nat := (n * n * 4 + (if op = 7 then n * 4 else 0) + 4095) / 4096 * 4096

def slotN (s : State) (slot : Nat) : Nat := s.rdNat (slot + 28) 2
def slotSize (s : State) (slot : Nat) : Nat := slotBytes (s.slotN slot) (s.rdNat (slot + 30) 1)
def bufAddr (s : State) (slot buf : Nat) : Nat := slot + 4096 + buf * s.slotSize slot

def pinSlot (s : State) (d i : Nat) : Nat := s.field (Regs.pin d i) 47 12 * 4096
def pinBuf (s : State) (d i : Nat) : Nat := s.field (Regs.pin d i) 2 2

/-- The n × n FP32 identity as bytes from offset `o` on (R279). -/
def identityBytes (n o len : Nat) : List Byte :=
  (List.range len).map (fun k =>
    let e := (o + k) / 4
    if e < n * n ∧ e / n = e % n then (leBytes 4 0x3F800000).getD ((o + k) % 4) 0 else 0)

/-- Bytes of a pin's view (R278). -/
def viewLoad (s : State) (d i o len : Nat) : List Byte :=
  if s.flag (Regs.pin d i) 1 then identityBytes (s.slotN (s.pinSlot d i)) o len
  else s.rd (s.bufAddr (s.pinSlot d i) (s.pinBuf d i) + o) len

end State

/-- The parts of an extent between 256 KiB boundaries, so that each lies in one bank, region and host range. -/
def piecesFuel (fuel a n : Nat) : List (Nat × Nat) :=
  match fuel with
  | 0 => []
  | f + 1 =>
    if n = 0 then [] else
    let k := min n (0x40000 - a % 0x40000)
    (a, k) :: piecesFuel f (a + k) (n - k)
def pieces (a n : Nat) : List (Nat × Nat) := piecesFuel (n / 0x40000 + 2) a n

namespace State

/-- The job may touch the place (R135). -/
def jobPlace (_s : State) (j : Job) (p : Place) : Acc :=
  match p with
  | .scratch t _ => if j.block.tiles.contains t then .ok else .bad 0x3101
  | .tbuf t _ => if j.block.tiles.contains t then .ok else .bad 0x3101
  | .shared d o => if j.ownsBank d (o / 0x200000) then .ok else .bad 0x3101
  | .staging d o =>
    if j.niBase d ≤ o / 0x10000 ∧ o / 0x10000 < j.niBase d + j.niCount d then .ok else .bad 0x3101
  | .badChip => .bad 0x3102
  | .badStack => .bad 0x3202
  | _ => .ok

/-- Check of one piece of an access of a job (R135, R139, R145, R148, R156, R165, R170, R174, R278, R400).
`owned` is false for flag words and alias accesses, which ownership does not bind (R76, R141). -/
def pieceAcc (s : State) (j : Job) (w : Who) (write owned : Bool) (a n : Nat) : Acc :=
  let p := placeOf a
  match s.jobPlace j p with
  | .bad c => .bad c
  | _ =>
    match p with
    | .scratch _ _ | .shared _ _ =>
      let bank := (bankOf p).getD 0
      (s.bankAcc bank).andThen ((if owned && windowOf a = 0 then s.ownAcc w bank else .ok).andThen
        (if !write && s.poisonChip (plainAddr a) n then .bad 0x3112 else .ok))
    | .tbuf t _ =>
      if !s.flag (Regs.memCompat t) 1 then .wait
      else if !write && s.poisonChip a n then .bad 0x3112 else .ok
    | .staging _ _ => if !write && s.poisonChip (plainAddr a) n then .bad 0x3112 else .ok
    | .stack _ _ =>
      (s.regionAcc j.block.tag.toNat (w.kind == 6) write a n).andThen ((s.channelAcc a n).andThen
        (if !write && s.poisonStack a n then .bad 0x3211 else .ok))
    | .host q o => s.hostAcc j q (s.busAddr q o) n write
    | .pinView d i o =>
      if write then .bad 0x3203
      else if !s.flag (Regs.pin d i) 0 then .bad 0x3202
      else if s.slotSize (s.pinSlot d i) < o + n then .bad 0x3202
      else if s.flag (Regs.pin d i) 1 then .ok
      else
        let x := s.bufAddr (s.pinSlot d i) (s.pinBuf d i) + o
        (s.regionAcc j.block.tag.toNat (w.kind == 6) false x n).andThen ((s.channelAcc x n).andThen
          (if s.poisonStack x n then .bad 0x3211 else .ok))
    | _ => .ok

/-- Check of a whole extent: the first piece that fails gives the code. -/
def access (s : State) (j : Job) (w : Who) (write owned : Bool) (a n : Nat) : Acc :=
  (pieces a n).foldl (fun acc p => acc.andThen (s.pieceAcc j w write owned p.1 p.2)) .ok

/-! ### Reads and writes by place -/

/-- Number of the 64-byte line of NI staging that an offset lies in, over the four dies (R318). -/
def stagingLine (d off : Nat) : Nat := d * 524288 + off / 64

/-- Bytes of an extent: host windows read the host's memory; a staging line whose valid bit is clear reads +0
(R318); every other place reads the module's own memory. -/
def load (s : State) (a n : Nat) : List Byte :=
  match placeOf a with
  | .host p o => s.hostRd p (s.busAddr p o) n
  | .pinView d i o => s.viewLoad d i o n
  | .staging d o =>
    (List.range n).map (fun i => if s.ni.valid.contains (stagingLine d (o + i)) then s.rd8 (plainAddr a + i) else 0)
  | _ => s.rd (plainAddr a) n

def loadNat (s : State) (a n : Nat) : Nat := leNat (s.load a n)

/-- A write into NI staging sets the valid bits of its lines; bytes of a line that was not valid start at 0. -/
def touchStaging (d off n : Nat) (s : State) : State :=
  let first := stagingLine d off
  let lines := (List.range (stagingLine d (off + n - 1) + 1 - first)).map (fun i => first + i)
  let fresh := lines.filter (fun l => !s.ni.valid.contains l)
  let s := fresh.foldl (fun st l => st.zero (stagingAddr d (l % 524288 * 64)) 64) s
  { s with ni := { s.ni with valid := fresh ++ s.ni.valid } }

/-- Whole words that a write covers lose their poison (R148, R170). -/
def clearPoison (a n : Nat) (s : State) : State :=
  { s with
    store := { s.store with poison := s.store.poison.filter (fun w => !(decide (a ≤ w) && decide (w + 8 ≤ a + n))) }
    stk := { s.stk with
      poison := s.stk.poison.filter (fun w => !(decide (a ≤ w) && decide (w + 64 ≤ a + n)))
      filled := s.stk.filled.map (fun (c : Nat × List Nat) => (c.1, c.2 ++
        ((List.range ((a + n) / 64 - (a + 63) / 64)).map (fun i => ((a + 63) / 64 + i) * 64)).filter (fun w =>
          w / 0xC00000000 * 128 + channelOf (w % 0xC00000000) == c.1))) } }

/-- Write an extent. A write through an alias window sets or clears the written bits (R141). -/
def save (a : Nat) (bs : List Byte) (s : State) : State :=
  match placeOf a with
  | .host p o => s.hostWr p (s.busAddr p o) bs
  | p =>
    let b := plainAddr a
    let s := match p with | .staging d o => if bs.isEmpty then s else s.touchStaging d o bs.length | _ => s
    if windowOf a = 1 then s.wr b ((List.zip (s.rd b bs.length) bs).map (fun x => x.1 ||| x.2))
    else if windowOf a = 2 then s.wr b ((List.zip (s.rd b bs.length) bs).map (fun x => x.1 &&& ~~~x.2))
    else (s.wr b bs).clearPoison b bs.length

end State

/-! ### Requests of the stack channels (R155 to R163) -/

/-- Requesters that are no thread: list cache `c`, the NI of a die, the run-ahead of a tile, and what is left of a unit
that was reset. -/
def listRequester (c : Nat) : Nat := 8192 + c
def niRequester (d : Nat) : Nat := 8704 + d
def runaheadRequester (tile : Nat) : Nat := 8708 + tile
def orphanRequester : Nat := 9000

/-- Queue key of the logical channel that serves an address: stack · 128 + channel (R157). -/
def queueOf (a : Nat) : Nat := a / 0xC00000000 * 128 + channelOf (a % 0xC00000000)

/-- Tracker entries that accepted requests take: one each for a streaming request, one for up to four atoms
(R162). -/
def entriesOf (q : List Req) : Nat :=
  (q.filter (fun r => !r.atom)).length + ((q.filter (fun r => r.atom)).length + 3) / 4

/-- Two requests touch an atom in common. -/
def Req.touches (a b : Req) : Bool :=
  decide (a.addr / 64 * 64 < b.addr / 64 * 64 + (if b.atom then 64 else 256))
    && decide (b.addr / 64 * 64 < a.addr / 64 * 64 + (if a.atom then 64 else 256))

/-- Writes that a read waits for are raised to its class (R160). -/
def raiseWrites (r : Req) (q : List Req) : List Req :=
  if r.write then q else q.map (fun w => if w.write && w.touches r && decide (r.cls < w.cls) then { w with cls := r.cls } else w)

/-- A request is accepted behind the others. -/
def enqueue (q : List Req) (r : Req) : List Req := raiseWrites r q ++ [r]

/-- The request served before `r`, or `r`: the oldest accepted earlier that touches one of its atoms (R160), and so on
along the chain. -/
def servedBefore (fuel : Nat) (q : List Req) (r : Req) : Req :=
  match fuel with
  | 0 => r
  | f + 1 =>
    match (q.takeWhile (fun x => x != r)).find? (fun x => x.touches r) with
    | some e => servedBefore f q e
    | none => r

/-- The request of the highest class, oldest first, behind what must go before it (R159, R160). -/
def nextServed (q : List Req) : Option Req :=
  (q.foldl (fun (b : Option Req) r =>
    match b with | none => some r | some x => if r.cls < x.cls then some r else b) none).map (servedBefore q.length q)

/-- The requests of an extent of stacked memory, with the bytes that they carry: aligned 256-byte streaming requests
with atoms for an unaligned head or tail, or atoms only (R155). -/
def requestsFuel (fuel : Nat) (x : Req) (gather : Bool) (a n : Nat) (data : List Byte) : List Req :=
  match fuel with
  | 0 => []
  | f + 1 =>
    if n = 0 then []
    else
      let atom := gather || a % 256 != 0 || decide (n < 256)
      let step := if atom then min n (64 - a % 64) else 256
      { x with atom := atom, addr := a, len := step, data := data.take step }
        :: requestsFuel f x gather (a + step) (n - step) (data.drop step)

/-- The same for an extent anywhere: none where it does not lie in stacked memory. Every write is of class 3 (R158). -/
def requestsOf (k : Nat) (h : W32) (cls cmd : Nat) (gather write : Bool) (a n : Nat) (data : List Byte) : List Req :=
  match placeOf a with
  | .stack _ _ => requestsFuel (n / 64 + 3) ⟨k, h, if write then 3 else cls, true, a, 0, write, [], cmd⟩ gather a n data
  | _ => []

namespace State

/-- Send a request to its channel: accepted while an entry is free, else it waits there (R163). A thread's request is
outstanding until it is done. -/
def postReq (r : Req) (s : State) : State :=
  let c := queueOf r.addr
  let q := mget s.stk.queues c []
  let s := if r.thread < 7232 then s.mapThread r.thread (fun t => { t with outstanding := t.outstanding + 1 }) else s
  if entriesOf (q ++ [r]) ≤ 96 ∧ (mget s.stk.waiting c []).isEmpty then
    ({ s with stk := { s.stk with queues := mset s.stk.queues c (enqueue q r) } }).bump
      (Regs.obsChannel (c / 128) (c % 128) (r.cls - 1)) 1
  else
    ({ s with stk := { s.stk with waiting := mset s.stk.waiting c (mget s.stk.waiting c [] ++ [r]) } }).bump
      (Regs.obsChannel (c / 128) (c % 128) 4) 1

/-- The requests of an access whose data moves in the step that makes it (log 15): they only load the channels. -/
def traffic (k : Nat) (h : W32) (cls : Nat) (write : Bool) (a n : Nat) (s : State) : State :=
  (requestsOf k h cls 0 false write a n []).foldl (fun st r => st.postReq r) s

/-- Requests of a requester at the channels that satisfy `p`. -/
def reqsOut (s : State) (p : Req → Bool) : List Req :=
  (s.stk.queues ++ s.stk.waiting).flatMap (fun c => c.2.filter p)

/-! ### The data cache (R142, R143) -/

def lineIn (l : CacheLine) (a n : Nat) : Bool := decide (l.addr < a + n) && decide (a < l.addr + 64)

/-- The runs of dirty bytes of a line, from byte `i` on: offset and length. -/
def dirtyRuns (fuel : Nat) (dirty i : Nat) : List (Nat × Nat) :=
  match fuel with
  | 0 => []
  | f + 1 =>
    if 64 ≤ i then []
    else if !bit dirty i then dirtyRuns f dirty (i + 1)
    else
      let n := ((List.range (64 - i)).takeWhile (fun x => bit dirty (i + x))).length
      (i, n) :: dirtyRuns f dirty (i + n)

/-- Bytes stored at `a` as the serve tables of the jobs take them: a whole entry that would move REL_GEN of the same record
to an earlier generation leaves the entry as it is (R385). -/
def keepRelease (s : State) (a : Nat) (bs : List Byte) : List Byte :=
  s.jobs.foldl (fun bs j =>
    (List.range (bs.length / 64)).foldl (fun bs i =>
      let x := (a + 63) / 64 * 64 + 64 * i
      let old := s.rd x 64
      let new := (bs.drop (x - a)).take 64
      let n := fun (l : List Byte) (o k : Nat) => leNat ((l.drop o).take k)
      if j.block.serve ≤ x ∧ x < j.block.serve + 64 * j.block.serveCount ∧ x + 64 ≤ a + bs.length
          ∧ isZeroGuard old ∧ isZeroGuard new ∧ n old 0 8 = n new 0 8 ∧ genDiff (n new 16 2) (n old 16 2) < 0
      then bs.take (x - a) ++ old ++ bs.drop (x - a + 64) else bs) bs) bs

/-- Write a line's dirty bytes to memory: each run is one write of its requester `k` (R142, R161). A channel that is DOWN
takes none; its request raises the code (R174). -/
def writeBack (k : Nat) (l : CacheLine) (s : State) : State :=
  let h := if k < 7232 then (s.thread k).job else 0
  (dirtyRuns 65 l.dirty.toNat 0).foldl (fun st x =>
    let a := l.addr + x.1
    let down : Bool := match placeOf a with | .stack _ _ => st.channelAcc a x.2 != .ok | _ => false
    (if down then st else st.save a (st.keepRelease a ((l.bytes.drop x.1).take x.2))).traffic k h 3 true a x.2) s

def setCache (t : Nat) (ls : List CacheLine) (s : State) : State :=
  { s with store := { s.store with dcache := mset s.store.dcache t ls } }

/-- Write back every dirty line of a tile that meets a range; the lines stay, clean (RELEASE). -/
def cacheClean (k t a n : Nat) (s : State) : State :=
  let ls := mget s.store.dcache t []
  let hit := fun l => n = 0 || lineIn l a n
  (ls.foldl (fun st l => if hit l then st.writeBack k l else st) s).setCache t
    (ls.map (fun l => if hit l then { l with dirty := 0 } else l))

/-- Write back and invalidate every line of a tile that meets a range; length 0 is the whole cache (R83). -/
def cacheInvalidate (k t a n : Nat) (s : State) : State :=
  let s := s.cacheClean k t a n
  s.setCache t ((mget s.store.dcache t []).filter (fun l => !(n = 0 || lineIn l a n)))

/-- Put a line in front, keeping 16 ways in each of the 256 sets; a line that falls out is written back. -/
def cacheInsert (k t : Nat) (l : CacheLine) (s : State) : State :=
  let rest := (mget s.store.dcache t []).filter (fun x => x.addr != l.addr)
  let same := rest.filter (fun x => x.addr / 64 % 256 == l.addr / 64 % 256)
  match same.drop 15 with
  | [] => s.setCache t (l :: rest)
  | out :: _ => (s.writeBack k out).setCache t (l :: rest.filter (fun x => x.addr != out.addr))

/-- The line of an address holds all its bytes. -/
def cacheHolds (s : State) (t a : Nat) : Bool :=
  (mget s.store.dcache t []).any (fun x => x.addr == a / 64 * 64 && x.valid == BitVec.allOnes 64)

/-- The line of an address as a cached read leaves it: missing bytes are fetched and merged under the
dirty ones. -/
def cacheFill (k t a : Nat) (s : State) : State :=
  let base := a / 64 * 64
  let mem := s.rd base 64
  match (mget s.store.dcache t []).find? (fun x => x.addr == base) with
  | some l =>
    let merged := (List.range 64).map (fun i => if bit l.valid.toNat i then l.bytes.getD i 0 else mem.getD i 0)
    s.cacheInsert k t { l with valid := BitVec.allOnes 64, bytes := merged }
  | none => s.cacheInsert k t ⟨base, BitVec.allOnes 64, 0, mem⟩

def cachePeek (s : State) (t a : Nat) : Byte :=
  match (mget s.store.dcache t []).find? (fun x => x.addr == a / 64 * 64) with
  | some l => if bit l.valid.toNat (a % 64) then l.bytes.getD (a % 64) 0 else s.rd8 a
  | none => s.rd8 a

/-- The lines of an extent. -/
def linesOf (a n : Nat) : List Nat := (List.range ((a + n + 63) / 64 - a / 64)).map (fun i => (a / 64 + i) * 64)

/-- A cached read: fills the lines of the extent, then reads through them. -/
def cacheRead (k t a n : Nat) (s : State) : List Byte × State :=
  let s := (linesOf a n).foldl (fun st l => st.cacheFill k t l) s
  ((List.range n).map (fun i => s.cachePeek t (a + i)), s)

/-- A cached write of one byte: stored and marked dirty, nothing fetched. -/
def cachePut (k t a : Nat) (b : Byte) (s : State) : State :=
  let base := a / 64 * 64
  let l := ((mget s.store.dcache t []).find? (fun x => x.addr == base)).getD ⟨base, 0, 0, List.replicate 64 0⟩
  let i := a % 64
  s.cacheInsert k t { l with
    valid := l.valid ||| BitVec.ofNat 64 (2 ^ i), dirty := l.dirty ||| BitVec.ofNat 64 (2 ^ i)
    bytes := l.bytes.set i b }

def cacheWrite (k t a : Nat) (bs : List Byte) (s : State) : State :=
  match bs with
  | [] => s
  | b :: r => (s.cachePut k t a b).cacheWrite k t (a + 1) r

/-- The data cache holds shared-store and stacked-memory data in the normal window only (R142). -/
def cacheable (a : Nat) : Bool :=
  windowOf a == 0 && (match placeOf a with | .shared _ _ => true | .stack _ _ => true | _ => false)

/-- A read of a record of the program image: its channel may be DOWN, or an atom of it poisoned (R170, R174). -/
def recordAcc (s : State) (a n : Nat) : Option W16 :=
  match (s.channelAcc a n).andThen (if s.poisonStack a n then .bad 0x3211 else .ok) with
  | .bad c => some c
  | _ => none

end State

end Sys2Proof.Machine
end

