-- ==== Sys2Proof/Machine/Flags.lean ====
section
/-! DEFINITION. What faults, quenches and completions do to the state: completion entries and events
(R404, R411, R415), fault registers, the halt of a thread and the quench of a job (R97 to R99). -/

namespace Sys2Proof.Machine

def Ring.fresh : Ring := ⟨0, 0, 0, 0, false, 0, 0, 0, [], 0⟩
def HostPort.fresh : HostPort := ⟨false, false, false, 0, 0, none, [], 0, 0, 0⟩

def ringKey (p n : Nat) : Nat := p * 64 + n

/-- The bytes of a completion entry with PHASE 0 (R411). -/
def entryBytes (code : W16) (type kind sq index aux : Nat) (handle : W32) (detail : Nat) : List Byte :=
  leBytes 2 code.toNat ++ leBytes 1 (type * 2 + kind * 16) ++ leBytes 1 sq ++ leBytes 2 index
    ++ leBytes 2 aux ++ leBytes 4 handle.toNat ++ leBytes 4 detail

namespace State

def ring (s : State) (p n : Nat) : Ring := mget s.host.rings (ringKey p n) Ring.fresh
def mapRing (p n : Nat) (f : Ring → Ring) (s : State) : State :=
  { s with host := { s.host with rings := mset s.host.rings (ringKey p n) (f (s.ring p n)) } }
def port (s : State) (p : Nat) : HostPort := mget s.host.ports p HostPort.fresh
def mapPort (p : Nat) (f : HostPort → HostPort) (s : State) : State :=
  { s with host := { s.host with ports := mset s.host.ports p (f (s.port p)) } }

def cqEnabled (s : State) (p n : Nat) : Bool := decide (p < 2) && s.flag (Regs.cqCfg p n) 0
def cqEntries (s : State) (p n : Nat) : Nat := 2 ^ s.field (Regs.cqCfg p n) 4 1
/-- The completion ring that a submission ring is bound to; of a port that returned, the ring's own number stands for
it. -/
def boundCq (s : State) (p n : Nat) : Nat := if p < 2 then s.field (Regs.sqCfg p n) 10 5 else n

/-- The free entries of a completion ring less its reservations (R404); none while its EN is 0. -/
def cqFree (s : State) (p n : Nat) : Nat :=
  if s.cqEnabled p n && !(s.port p).departed then
    let r := s.ring p n
    s.cqEntries p n - (r.cqTail - r.cqHead).toNat - r.reserved - r.held.length
  else 0

/-- The port and completion ring that entries of a port go to: the adopter's once adopted (R416). -/
def routeFuel (fuel : Nat) (s : State) (p n : Nat) : Nat × Nat :=
  match fuel with
  | 0 => (p, n)
  | f + 1 =>
    match (s.port p).adopter with
    | some x => s.routeFuel f x.1 x.2
    | none => (p, n)
def routeCq (s : State) (p n : Nat) : Nat × Nat := s.routeFuel 8 p n

/-- A descriptor of port `p` may name a job of port `q`: its own, or one it has adopted (R407, R416). -/
def ownsPort (s : State) (p q : Nat) : Bool := p == q || (s.routeCq q 0).1 == p

/-- An entry of the completion ring just written: raise its vector once COAL_COUNT are unsent (R404). -/
def signalCq (p n : Nat) (now : Bool) (s : State) : State :=
  let r := s.ring p n
  let c := s.field (Regs.cqCfg p n) 19 12
  if !s.flag (Regs.cqCfg p n) 11 then s
  else if now || c = 0 || decide (c ≤ r.unsent) then
    let v := s.field (Regs.cqCfg p n) 10 5
    let s := s.mapRing p n (fun r => { r with unsent := 0 })
    if bit (s.port p).masked.toNat v then s.mapPort p (fun q => { q with msiPending := q.msiPending ||| BitVec.ofNat 64 (2 ^ v) })
    else s.out (.msix p v)
  else s

/-- Write an entry at the tail, with the PHASE of the lap (R411). -/
def writeEntry (p n : Nat) (e : List Byte) (s : State) : State :=
  let r := s.ring p n
  let size := s.cqEntries p n
  let phase : Byte := if r.cqTail.toNat / size % 2 = 0 then 1 else 0
  let e := (e.take 2) ++ [(e.getD 2 0) ||| phase] ++ e.drop 3
  let a := s.regNat (Regs.cqBase p n) + 16 * (r.cqTail.toNat % size)
  ((s.hostWr p a e).mapRing p n (fun r => { r with cqTail := r.cqTail + 1, unsent := r.unsent + 1 })).signalCq p n false

/-- An entry for which a place was reserved: written, or held while the ring is out of service or its port departed,
behind what is held already (R404, R415). -/
def postReserved (p n : Nat) (e : List Byte) (s : State) : State :=
  let (p, n) := s.routeCq p n
  let s := s.mapRing p n (fun r => { r with reserved := r.reserved - 1 })
  if (s.port p).departed then s.mapPort p (fun q => { q with held := q.held ++ [(n, e)] })
  else if s.cqEnabled p n && (s.ring p n).held.isEmpty then s.writeEntry p n e
  else s.mapRing p n (fun r => { r with held := r.held ++ [e] })

/-- Held entries of a ring are written in order while it is in service and has room (R404). -/
def drainFuel (fuel p n : Nat) (s : State) : State :=
  match fuel with
  | 0 => s
  | f + 1 =>
    let r := s.ring p n
    match r.held with
    | [] => s
    | e :: rest =>
      if s.cqEnabled p n ∧ !(s.port p).departed ∧ (r.cqTail - r.cqHead).toNat < s.cqEntries p n then
        ((s.mapRing p n (fun r => { r with held := rest })).writeEntry p n e).drainFuel f p n
      else s
def drainHeld (p n : Nat) (s : State) : State := s.drainFuel (s.ring p n).held.length p n

/-- An event entry: it takes an unreserved free entry or is dropped and counted (R404); on a departed port it
is held while unreserved places remain (R415). -/
def postEvent (p n : Nat) (e : List Byte) (s : State) : State :=
  let (p, n) := s.routeCq p n
  let r := s.ring p n
  let q := s.port p
  let used := (q.held.filter (fun x => x.1 == n)).length + r.reserved + (r.cqTail - r.cqHead).toNat
  if 0 < s.cqFree p n then s.writeEntry p n e
  else if s.cqEnabled p n && q.departed && decide (used < s.cqEntries p n) then
    s.mapPort p (fun q => { q with held := q.held ++ [(n, e)] })
  else
    (s.mapRing p n (fun r => { r with lost := min (r.lost + 1) 65535 })).noteCounted 0x1170 (ringKey p n) 1

/-- An event of a job, on the completion ring of its submission ring (R411). -/
def jobEvent (h : W32) (code : W16) (aux detail : Nat) (s : State) : State :=
  match s.findJob h with
  | none => s
  | some j => (s.log code 0x700 h (BitVec.ofNat 64 detail)).postEvent j.port (s.boundCq j.port j.ring)
      (entryBytes code 0 0 j.ring j.sqIndex aux h detail)

/-- An event that names no job, on completion ring 0 of every port whose ring 0 is enabled (R411). -/
def moduleEvent (code : W16) (aux detail : Nat) (s : State) : State :=
  let s := s.log code 0x700 0 (BitVec.ofNat 64 detail)
  [0, 1].foldl (fun st p =>
    if st.cqEnabled p 0 then st.postEvent p 0 (entryBytes code 0 0 0 0 aux 0 detail) else st) s

/-- The completion entry of a descriptor: TYPE FINAL (2) or ADMITTED (1), with its KIND (R411). -/
def completeDesc (p n index kind type : Nat) (code : W16) (aux detail : Nat) (handle : W32) (s : State) : State :=
  let s := s.mapRing p n (fun r => { r with openDescs := r.openDescs - 1 })
  let s := if code = 0 then s else s.log code 0x700 handle (BitVec.ofNat 64 detail)
  s.postReserved p (s.boundCq p n) (entryBytes code type kind n index aux handle detail)

/-! ### Fault registers -/

/-- An uncorrectable word marks its tile for retirement (R455). -/
def markTile (code : W16) (a : Nat) (s : State) : State :=
  match placeOf a with
  | .scratch t _ | .tbuf t _ =>
    if code = 0x3112 ∧ !s.recov.marked.contains t then { s with recov := { s.recov with marked := t :: s.recov.marked } } else s
  | _ => s

/-- A single-bit error of an on-chip word, or a bad clean line, is corrected and counted (R148); more than 64 in 24 h mark
the tile for retirement (R455). -/
def onchipCorrected (tile : Option Nat) (die : Nat) (h : W32) (s : State) : State :=
  let s := s.count 0x3111 die h 1
  match tile with
  | none => s
  | some t =>
    let n := mget s.recov.corrected t 0 + 1
    { s with recov := { s.recov with
        corrected := mset s.recov.corrected t n
        marked := if 64 < n ∧ !s.recov.marked.contains t then t :: s.recov.marked else s.recov.marked } }

/-- A fault of an on-chip access, in TIL.MEM_FAULT or SHS.MEM_FAULT (R152): `a` lies in the bank that refused. An engine of
a scratchpad's own tile is UNIT 0, as in R136. DEDUCED (log 85): a tile buffer, which has no bank number, is BANK 0, and
the host interface engine, which R136 does not code, is KIND 0 and UNIT 0. -/
def memFault (code : W16) (a : Nat) (w : Who) (s : State) : State :=
  let s := s.markTile code a
  let own := match placeOf a with | .scratch t _ => t == w.unit | .tbuf t _ => t == w.unit | _ => false
  let unit := if w.kind = 1 ∨ w.kind = 2 ∨ w.kind = 3 then (if own then 0 else w.unit % 64)
    else if w.kind = 5 then w.unit % 2 else if w.kind = 6 then w.unit % 4 else 0
  let v := fun bank => code.toNat + bank * 2 ^ 16 + w.kind % 8 * 2 ^ 22 + unit * 2 ^ 25
  match placeOf a with
  | .scratch t o => s.recordFault (Regs.tilMemFault t) (v (o / 0x40000))
  | .tbuf t _ => s.recordFault (Regs.tilMemFault t) (v 0)
  | .shared d o => s.recordFault (Regs.shsFault d) (v (o / 0x200000))
  | _ => s

/-- A fault of a stacked-memory access, in MEM.ERR_LOG and MEM.ERR_ADDR (R180). -/
def stackFault (code : W16) (a : Nat) (s : State) : State :=
  if s.flag Regs.memErrLog 31 then s else
  let (st, pch) := match placeOf a with
    | .stack x o => (x, s.physCh x (channelOf o))
    | _ => (0, 0)
  (s.recordFault Regs.memErrLog (code.toNat + st * 2 ^ 16 + pch * 2 ^ 19)).setRegNat Regs.memErrAddr (a % 2 ^ 48)

/-- The register that records a refused access, by the area of its code. -/
def accessFault (code : W16) (a : Nat) (w : Who) (s : State) : State :=
  if code.toNat / 0x100 = 0x31 then s.memFault code a w
  else if code.toNat / 0x100 = 0x32 then s.stackFault code a
  else s

/-- The FAULT register of a thread's engine (R209, R233, R285, R373): code, thread, slot and command index. -/
def engineFault (t : ThreadId) (code : W16) (slot pc : Nat) (s : State) : State :=
  let idx := pc / 32 * 2 ^ 32
  match t with
  | .tile t n =>
    if n.val < 4 then s.recordFault (Regs.meFault t.val) (code.toNat + n.val * 2 ^ 16 + slot * 2 ^ 18 + idx)
    else if n.val < 12 then s.recordFault (Regs.veFault t.val) (code.toNat + (n.val - 4) * 2 ^ 16 + idx)
    else s
  | .solver e n => s.recordFault (Regs.slvFault (e.val / 4) (e.val % 4)) (code.toNat + n.val * 2 ^ 16 + idx)
  | .update u n => s.recordFault (Regs.updFault u.val) (code.toNat + n.val * 2 ^ 16 + idx)

/-! ### Quench (R97, R98) -/

/-- What a quench does to a thread at once (R98): one that waits on its outstanding requests issues no more and
halts when they are done; a DONE thread stays DONE; every other thread halts. -/
def quenchThread (t : Thread) : Thread :=
  match t.st with
  | .free | .done | .halted => t
  | .waitData => { t with st := if t.outstanding = 0 then .halted else .waitData, unissued := [], copy := none }
  | _ => { t with st := .halted, copy := none, wait := none, beatTarget := none, unissued := [], markAt := none }

/-- The schedule entries that keep a job's handle are removed (R44). -/
def dropEntries (h : W32) (s : State) : State :=
  { s with sched := s.sched.filter (fun c => c.2.owner != h) }

/-- The job's slot of each die is freed; it keeps its counts and handle (R509). -/
def freeJobSlots (h : W32) (s : State) : State :=
  (List.range 4).foldl (fun st d =>
    match st.jobSlot d h with
    | none => st
    | some j =>
      let st := st.setField (Regs.obsSlotH d j) 32 32 0
      { st with obs := { st.obs with slotFree := st.obs.slotFree ++ [d * 16 + j] } }) s

/-- A job is gone, with its launch counts. An image leaves the program region with it, unless it is resident (R95). -/
def dropJob (h : W32) (s : State) : State :=
  let keep := fun (k : Nat) => k / 4096 != h.toNat
  { s with
    jobs := s.jobs.filter (fun j => j.handle != h)
    solver := { s.solver with
      launches := s.solver.launches.filter (fun c => keep c.1), begins := s.solver.begins.filter (fun c => keep c.1)
      marks := s.solver.marks.filter (fun m => keep m.1) } }

/-- The FINAL entry of a job (R411), and the entries of the quench descriptors that waited for it (R99). -/
def finalEntry (j : Job) (code : W16) (s : State) : State :=
  let s := s.postReserved j.port (s.boundCq j.port j.ring) (entryBytes code 2 1 j.ring j.sqIndex 0 j.handle 0)
  j.quenchers.foldl (fun st q => st.completeDesc q.1 q.2.1 q.2.2 6 2 0x0000 0 0 j.handle) s

/-- A quench at the tiles of a job: the array is released and kept accumulators discarded (R206); accumulating
Enfleurage sets are discarded and counted (R251); flushes end with their threads. -/
def quenchTiles (j : Job) (s : State) : State :=
  let mine := fun (t : Nat) => j.block.tiles.contains t
  let freed : SMap Nat := s.matrix.holder.filter (fun c => mine c.1 && c.2 != 4)
  let s := { s with matrix := { s.matrix with
    holder := s.matrix.holder.filter (fun c => !(mine c.1 && c.2 != 4))
    last := freed.foldl (fun (m : SMap Nat) (c : Nat × Nat) => mset m c.1 c.2) s.matrix.last
    chain := s.matrix.chain.filter (fun c => !mine c.1)
    flushing := s.matrix.flushing.filter (fun c => !mine (c.1 / 28)) } }
  let lost := s.enf.filter (fun c => mine (c.1 / 2) && c.2.st == .accumulating)
  let s := lost.foldl (fun st c => st.count 0x2203 (c.1 / 2 / 64) j.handle 1) s
  { s with enf := s.enf.filter (fun c => !(mine (c.1 / 2) && c.2.st == .accumulating)) }

/-- The pins of the solver engines that a job holds are released (R278). -/
def releasePins (j : Job) (s : State) : State :=
  { s with setup := s.setup.map (fun (c : Nat × W64) =>
      if j.engines.any (fun e => decide (Regs.pin (e / 4) (e % 4 * 64) ≤ c.1) && decide (c.1 < Regs.pin (e / 4) (e % 4 * 64 + 64))) then
        (c.1, c.2 &&& ~~~1) else c) }

/-- A quench that a request or a missed deadline asks for, not a fault (R97). -/
def asked (cause : W16) : Bool := cause == 0x1401 || cause == 0x120A

/-- Every named thread of a job is DONE: no quench asked for takes effect on it any more (R99). -/
def threadsDone (s : State) (j : Job) : Bool := j.named.all (fun k => (s.thread k).st == .done)

/-- Quench a job with a cause (R97). An admitted job that has not started is removed (R99); a running job's
threads, engines, update units and network interfaces stop (R98), and its other modules are told (R340); a job already
quenching keeps its first cause and counts a fault. -/
def quenchNow (h : W32) (cause : W16) (s : State) : State :=
  match s.findJob h with
  | none => s
  | some j =>
    match j.st with
    | .completing => s
    | .quenching => if asked cause ∨ cause = 0x6120 then s else s.mapJob h (fun j => { j with faults := j.faults + 1 })
    | .admitted =>
      ((((s.dropEntries h).freeJobSlots h).finalEntry j cause).dropJob h).sendQuench j
    | .running | .held =>
      let s := (s.mapJob h (fun j => { j with st := .quenching, cause := cause })).dropEntries h
      let s := s.mapThreadsOf h (fun _ t => quenchThread t)
      let s := { s with ni := { s.ni with occs := s.ni.occs.map (fun (o : Occ) => if o.job = h then { o with stopped := true } else o) } }
      (((s.quenchTiles j).releasePins j).freeJobSlots h).sendQuench j

/-- The same, but a running job whose threads are all DONE completes normally where only a request asks (R99). -/
def quenchJob (h : W32) (cause : W16) (s : State) : State :=
  match s.findJob h with
  | some j => if asked cause ∧ j.runs ∧ s.threadsDone j then s else s.quenchNow h cause
  | none => s

/-- A thread halts on a fault and its job is quenched with the code (R97, R98); the log entry carries a detail. -/
def haltDetail (t : ThreadId) (code : W16) (detail : Nat) (s : State) : State :=
  let th := s.thread t.key
  let s := s.log code t.unit th.job (BitVec.ofNat 64 detail)
  let s := s.engineFault t code 0xF th.pc
  let s := s.mapThread t.key (fun x => { x with st := .halted, wait := none, beatTarget := none, unissued := [], copy := none })
  s.quenchJob th.job code

/-- The same with the command's place as the detail: its image offset, or for a header guard mismatch the STRUCT
and INDEX of R447. -/
def haltThread (t : ThreadId) (code : W16) (s : State) : State :=
  let pc := (s.thread t.key).pc
  s.haltDetail t code (if code = 0x8010 then guardDetail 1 (pc / 32) else pc)

/-- The same for a guard mismatch of another structure. -/
def haltGuard (t : ThreadId) (struct index : Nat) (s : State) : State := s.haltDetail t 0x8010 (guardDetail struct index)

/-- The same for a fault of a memory access, which is also recorded where its address lies. -/
def haltAccess (t : ThreadId) (code : W16) (a : Nat) (s : State) : State :=
  (s.accessFault code a (whoOf t)).haltThread t code

/-- The same by thread key, for events that name a thread by its requests. -/
def haltKey (k : Nat) (code : W16) (s : State) : State := s.haltThread (ThreadId.ofKey k) code

/-! ### Numeric counts of a command (R117 to R119, R131) -/

/-- Add the numeric events of a command to its job's counters, and quench the job once where it asked for
TRAP_NONFINITE (R118): `sat` saturations, `nan` NaNs, `acc` accumulator overflows, `m8` M8 events. -/
def countNumeric (d : Nat) (h : W32) (sat nan acc m8 : Nat) (s : State) : State :=
  (((s.count 0x2101 d h sat).count 0x2102 d h nan).count 0x2103 d h acc).count 0x2105 d h m8

/-- NUMERIC_TRAP: the first conversion of a job with TRAP_NONFINITE that counts CONV_NAN (R118). -/
def traps (s : State) (h : W32) (nan : Nat) : Bool :=
  match s.findJob h with
  | some j => nan != 0 && bit j.block.flags.toNat 3 && !j.trapped
  | none => false

/-- The thread halts on it, at the command that counted. -/
def trapCheck (t : ThreadId) (h : W32) (nan : Nat) (s : State) : State :=
  if s.traps h nan then (s.mapJob h (fun j => { j with trapped := true })).haltThread t 0x2104 else s

end State
end Sys2Proof.Machine
end

