-- ==== Sys2Proof/Machine/Plan.lean ====
section
/-! DEFINITION. The worst-case plan of a job (spec/02_beat_and_deadlines.md, R45 to R48, R51): segment records, the loop
of R46, the plan that admission records, and its repetition for DEADLINE_AT_RISK. -/

namespace Sys2Proof.Machine

/-- The job holds a unit (R61); a die where it uses one of its units. -/
def Job.holds (j : Job) : UnitId → Bool
  | .tile t => j.block.tiles.contains t.val
  | .solver e => j.engines.contains e.val
  | .update u => j.updates.contains u.val
  | .ni d => j.niCount d.val != 0 || j.trigCount d.val != 0
  | .die d => j.usesDie d.val

/-- A segment record (R45). -/
structure Segment where
  cycles : Nat
  fixed : Nat
  ext : Nat
  notBefore : Nat
  premap : Nat
  dl : Nat
deriving DecidableEq, Repr

/-- The quantities of R46: f_adm in MHz ÷ 200, NOMINAL_HZ, 10⁶ − 10 · TOLERANCE_PPM · 10, TAKEOVER_US and r. -/
structure AdmQ where
  fadm : Nat
  hz : Nat
  tol : Nat
  takeover : Nat
  r : Nat
deriving DecidableEq, Repr

/-- Positions in the plan are fractions of a beat over this denominator, so that no time is rounded. -/
def AdmQ.den (q : AdmQ) : Nat := 65536 * (q.fadm * 5000) * 1000000000 * q.tol

/-- Time of a segment as a numerator over `den`: sec · NOMINAL_HZ ÷ (1 − tolerance). -/
def AdmQ.segTime (q : AdmQ) (g : Segment) : Nat :=
  (g.cycles * (65536 + g.premap * q.r) * 1000000000 + (g.fixed + g.ext) * (65536 * (q.fadm * 5000))) * q.hz * 1000000

/-- The 2 ms of a reload (R490). -/
def AdmQ.reloadTime (q : AdmQ) : Nat := 2000 * q.hz * (65536 * (q.fadm * 5000) * 1000000000)

def AdmQ.ofPos (q : AdmQ) (p : Nat) : Nat := p * (q.den / 65536)

def AdmQ.ceilBeat (q : AdmQ) (t : Nat) : Nat := (t + q.den - 1) / q.den

/-- The loop of R46: the position at its end, and the worst finishes by DL_INDEX. -/
def AdmQ.run (q : AdmQ) (l : List Segment) (t : Nat) (fin : SMap Nat) : Nat × SMap Nat :=
  match l with
  | [] => (t, fin)
  | g :: r =>
    let t := if g.notBefore = 0 then t else max t (q.ofPos g.notBefore)
    let t := t + q.segTime g
    q.run r t (if g.dl = 0 then fin else mset fin g.dl t)

/-- A in the units of `den`: TAKEOVER_US and the longest segment. -/
def AdmQ.allowance (q : AdmQ) (l : List Segment) : Nat :=
  q.takeover * q.hz * (65536 * (q.fadm * 5000) * 1000000000) + l.foldl (fun m g => max m (q.segTime g)) 0

/-- Shortfall in whole beats of a finish against a deadline, saturated (R48). -/
def shortfall (finishBeat deadline : Nat) : Nat := min ((finishBeat * 65536 - deadline + 65535) / 65536) (2 ^ 32 - 1)

/-- The positions at which the segments end in the same loop. -/
def AdmQ.ends (q : AdmQ) (l : List Segment) (t : Nat) : List Nat :=
  match l with
  | [] => []
  | g :: r =>
    let t := (if g.notBefore = 0 then t else max t (q.ofPos g.notBefore)) + q.segTime g
    t :: q.ends r t

def hasDeadline (j : Job) : Bool := j.block.deadline != 0 || j.refreshDl.any (fun d => d != 0)

/-- The deadlines of a job: DL_INDEX and position. -/
def jobDeadlines (j : Job) : List (Nat × Nat) :=
  ((1, j.block.deadline.toNat) :: (List.range j.refreshDl.length).map (fun i => (i + 2, (j.refreshDl.getD i 0).toNat))).filter
    (fun x => x.2 != 0)

/-- Frequency of a clock plan in MHz (R427). -/
def planMhz (p : Nat) : Nat := [1500, 1350, 1200, 1050, 900, 750].getD p 750

namespace State

/-! ### The clock plan in force (R427, R431) -/

/-- The internal floor in force, as PWR.STATE.FLOOR shows it. -/
def planFloor (s : State) : Nat := max s.power.coolFloor s.power.phaseFloor
/-- The lowest-numbered plan that CAP and the floors allow. -/
def planLimit (s : State) : Nat := max (min 5 (s.field Regs.pwrPlan 2 0)) s.planFloor
/-- The plan in force; tiles stand still at IDLE beside it under a supply warning. -/
def planNow (s : State) : Nat := min 5 (max s.planLimit s.power.therm)

def nominalHz (s : State) : Nat := s.field Regs.beatCfg 24 8

def segmentsOf (s : State) (j : Job) : List Segment :=
  (List.range j.image.timingCount).map (fun i =>
    let a := j.image.base + j.image.timingOff + 32 * i
    ⟨s.rdNat a 8, s.rdNat (a + 8) 4, s.rdNat (a + 12) 4, s.rdNat (a + 16) 8, s.rdNat (a + 24) 2, s.rdNat (a + 26) 1⟩)

/-- Dies that hold a tile of the job. -/
def tileDies (j : Job) : List Nat := (List.range 4).filter (fun d => j.block.tiles.any (fun t => t / 64 == d))

/-- Remapped tiles of a die (R17). -/
def remapped (s : State) (d : Nat) : Nat := (s.recov.tileMap.filter (fun c => c.1 / 64 == d && c.2 != c.1 % 64)).length

def sparesLeft (s : State) (d : Nat) : Nat := 4 - mget s.recov.sparesUsed d 0

def admQ (s : State) (j : Job) : AdmQ :=
  let m := min 40 (s.field Regs.beatAdm 7 0)
  { fadm := planMhz s.planNow * (200 - m), hz := s.nominalHz
    tol := 1000000 - 10 * s.field Regs.beatAdm 15 8
    takeover := s.field Regs.beatAdm 31 16
    r := (tileDies j).foldl (fun x d => max x (s.remapped d)) 0 }

/-- The start of R46's loop: now or START, and behind the jobs of a list that share a unit. -/
def planStart (s : State) (q : AdmQ) (j : Job) (before : List Job) : Nat :=
  let t0 := q.ceilBeat (q.ofPos (max s.beat.pos.toNat j.block.start.toNat)) * q.den
  let late := fun (o : Job) => s.mgmt.reloads.any (fun r => j.holds r.unit && o.holds r.unit)
  (before.filter (fun o => j.shares o)).foldl (fun t o =>
    max t (o.plan.worstEnd * q.den + (if late o then q.reloadTime else 0))) t0

/-- A die of the job still has a spare tile. -/
def spareLeft (s : State) (j : Job) : Bool := (List.range 4).any (fun d => j.usesDie d && decide (0 < s.sparesLeft d))

/-- The plan of a job and the worst finishes in beats by DL_INDEX (R46). -/
def planJob (s : State) (j : Job) : Plan × SMap Nat :=
  let q := s.admQ j
  let segs := s.segmentsOf j
  let t0 := s.planStart q j s.jobs
  let (t, fin) := q.run segs t0 []
  let a := if s.spareLeft j then q.allowance segs else 0
  let w := q.ceilBeat (t + a)
  let ns := if s.spareLeft j then
      q.takeover * 1000 + segs.foldl (fun m g => max m
        ((g.cycles * (65536 + g.premap * q.r) * 1000000000 / max 1 (65536 * (q.fadm * 5000))) + g.fixed + g.ext + 1)) 0
    else 0
  (⟨q.fadm, q.r, ns, false, w, (q.ends segs t0).map q.ceilBeat⟩, mset (fin.map (fun c => (c.1, q.ceilBeat c.2))) 1 w)

/-! ### DEADLINE_AT_RISK (R51) -/

/-- The shortfall of the calculation of R46 repeated from the current segment with the conditions of now: of the deadline
of lowest DL_INDEX that no longer holds, or 0. A refresh whose segments are all past is not reckoned again. -/
def riskShortfall (s : State) (j : Job) : Nat :=
  let q := s.admQ j
  let all := s.segmentsOf j
  let segs := all.drop j.segment
  let t0 := s.planStart q j (if j.st = .admitted then s.jobs.takeWhile (fun o => o.handle != j.handle) else [])
  let (t, fin) := q.run segs t0 []
  let a := if s.spareLeft j && !j.plan.aUsed then q.allowance all else 0
  let w := q.ceilBeat (t + a)
  let fins := mset (fin.map (fun c => (c.1, q.ceilBeat c.2))) 1 w
  let past := fun (x : Nat) => x != 1 && all.any (fun g => g.dl == x) && !(segs.any (fun g => g.dl == x))
  ((jobDeadlines j).findSome? (fun x =>
    let f := mget fins x.1 w
    if past x.1 ∨ f * 65536 ≤ x.2 then none else some (shortfall f x.2))).getD 0

/-- DEADLINE_AT_RISK for a job (R50, R51). -/
def atRisk (h : W32) (s : State) : State :=
  match s.findJob h with
  | some j => s.jobEvent h 0x1209 0 (s.riskShortfall j)
  | none => s

/-- DEADLINE_AT_RISK for each admitted job with a deadline (R51). -/
def atRiskAll (s : State) : State :=
  s.jobs.foldl (fun st j => if hasDeadline j then st.atRisk j.handle else st) s

/-- A segment of the job has ended: the next is current; one that ended later than the plan's worst case puts the
deadline at risk (R51). DEDUCED (log 8): the completed replay marks of R452 are what tells the module its segments. -/
def segmentEnd (h : W32) (s : State) : State :=
  match s.findJob h with
  | none => s
  | some j =>
    let late := match j.plan.ends[j.segment]? with
      | some e => decide (e * 65536 < s.beat.pos.toNat) | none => false
    let s := s.mapJob h (fun x => { x with segment := x.segment + 1 })
    if late && hasDeadline j then s.atRisk h else s

end State
end Sys2Proof.Machine
end

