-- ==== Sys2Proof/Machine/Sha256.lean ====
section
/-! DEFINITION. SHA-256, which the manual names for image digests, block index tables, keys and measurements (R89,
R274, R484, R494). Its constants are the standard's own. -/

namespace Sys2Proof.Machine
namespace Sha

def kA : List W32 := [0x428A2F98, 0x71374491, 0xB5C0FBCF, 0xE9B5DBA5, 0x3956C25B, 0x59F111F1, 0x923F82A4, 0xAB1C5ED5,
   0xD807AA98, 0x12835B01, 0x243185BE, 0x550C7DC3, 0x72BE5D74, 0x80DEB1FE, 0x9BDC06A7, 0xC19BF174,
   0xE49B69C1, 0xEFBE4786, 0x0FC19DC6, 0x240CA1CC, 0x2DE92C6F, 0x4A7484AA, 0x5CB0A9DC, 0x76F988DA,
   0x983E5152, 0xA831C66D, 0xB00327C8, 0xBF597FC7, 0xC6E00BF3, 0xD5A79147, 0x06CA6351, 0x14292967]
def kB : List W32 := [0x27B70A85, 0x2E1B2138, 0x4D2C6DFC, 0x53380D13, 0x650A7354, 0x766A0ABB, 0x81C2C92E, 0x92722C85,
   0xA2BFE8A1, 0xA81A664B, 0xC24B8B70, 0xC76C51A3, 0xD192E819, 0xD6990624, 0xF40E3585, 0x106AA070,
   0x19A4C116, 0x1E376C08, 0x2748774C, 0x34B0BCB5, 0x391C0CB3, 0x4ED8AA4A, 0x5B9CCA4F, 0x682E6FF3,
   0x748F82EE, 0x78A5636F, 0x84C87814, 0x8CC70208, 0x90BEFFFA, 0xA4506CEB, 0xBEF9A3F7, 0xC67178F2]
def rounds : List W32 := kA ++ kB

/-- The eight words of the chaining value, a to h. -/
abbrev Chain := List W32

def start : Chain := [0x6A09E667, 0xBB67AE85, 0x3C6EF372, 0xA54FF53A, 0x510E527F, 0x9B05688C, 0x1F83D9AB, 0x5BE0CD19]

def rotr (x : W32) (n : Nat) : W32 := (x >>> n) ||| (x <<< (32 - n))

/-- The next word of the schedule from the sixteen before it, newest first. -/
def nextWord (w : List W32) : W32 :=
  let a := w.getD 14 0
  let b := w.getD 1 0
  w.getD 15 0 + (rotr a 7 ^^^ rotr a 18 ^^^ (a >>> 3)) + w.getD 6 0 + (rotr b 17 ^^^ rotr b 19 ^^^ (b >>> 10))

/-- Extend the schedule by `n` words, newest first. -/
def extend (n : Nat) (w : List W32) : List W32 :=
  match n with
  | 0 => w
  | k + 1 => extend k (nextWord w :: w)

def oneRound (c : Chain) (kw : W32) : Chain :=
  match c with
  | [a, b, x, d, e, f, g, h] =>
    let t1 := h + (rotr e 6 ^^^ rotr e 11 ^^^ rotr e 25) + ((e &&& f) ^^^ (~~~e &&& g)) + kw
    let t2 := (rotr a 2 ^^^ rotr a 13 ^^^ rotr a 22) + ((a &&& b) ^^^ (a &&& x) ^^^ (b &&& x))
    [t1 + t2, a, b, x, d + t1, e, f, g]
  | c => c

/-- One block of 16 words. -/
def block (c : Chain) (w : List W32) : Chain :=
  let ws := (extend 48 w.reverse).reverse
  let r := (List.zip rounds ws).foldl (fun s x => oneRound s (x.1 + x.2)) c
  (List.zip c r).map (fun x => x.1 + x.2)

def beWord (bs : List Byte) : W32 := BitVec.ofNat 32 (leNat bs.reverse)

/-- Words of a padded message, in blocks of sixteen. -/
def blocks (fuel : Nat) (bs : List Byte) (c : Chain) : Chain :=
  match fuel with
  | 0 => c
  | f + 1 =>
    if bs.isEmpty then c
    else blocks f (bs.drop 64) (block c ((List.range 16).map (fun i => beWord ((bs.drop (4 * i)).take 4))))

def pad (bs : List Byte) : List Byte :=
  bs ++ [0x80] ++ List.replicate ((119 - bs.length % 64) % 64) 0 ++ (leBytes 8 (8 * bs.length)).reverse

def words (bs : List Byte) : Chain :=
  let p := pad bs
  blocks (p.length / 64 + 1) p start

/-- The digest as a number whose most significant byte is the first. -/
def digest (bs : List Byte) : BitVec 256 :=
  BitVec.ofNat 256 ((words bs).foldl (fun v w => v * 2 ^ 32 + w.toNat) 0)

/-- The digest's bytes in order. -/
def bytes (bs : List Byte) : List Byte := (words bs).flatMap (fun w => (leBytes 4 w.toNat).reverse)

end Sha
end Sys2Proof.Machine
end

