-- ==== Sys2Proof/Machine/Num.lean ====
section
/-! DEFINITION. Numbers (spec/04_number_formats.md): exact dyadic values, the element formats of R103, the
conversions of R116 and R117, FP32 arithmetic within the bounds of R127, and stochastic rounding
(R124, R126). -/

namespace Sys2Proof.Num

/-- An exact value `m · 2^e`. -/
structure Dy where
  m : Int
  e : Int
deriving DecidableEq, Repr

def Dy.zero : Dy := ⟨0, 0⟩
def Dy.ofInt (i : Int) : Dy := ⟨i, 0⟩
/-- The mantissa over a smaller exponent. -/
def Dy.at (a : Dy) (e : Int) : Int := a.m * (2 ^ (a.e - e).toNat : Nat)
def Dy.add (a b : Dy) : Dy := let e := min a.e b.e; ⟨a.at e + b.at e, e⟩
def Dy.neg (a : Dy) : Dy := ⟨-a.m, a.e⟩
def Dy.sub (a b : Dy) : Dy := a.add b.neg
def Dy.mul (a b : Dy) : Dy := ⟨a.m * b.m, a.e + b.e⟩
def Dy.abs (a : Dy) : Dy := ⟨a.m.natAbs, a.e⟩
def Dy.le (a b : Dy) : Bool := let e := min a.e b.e; decide (a.at e ≤ b.at e)
def Dy.lt (a b : Dy) : Bool := let e := min a.e b.e; decide (a.at e < b.at e)
def Dy.isZero (a : Dy) : Bool := a.m == 0
def Dy.scale (a : Dy) (k : Int) : Dy := ⟨a.m, a.e + k⟩
/-- floor(log2 |a|), for a ≠ 0. -/
def Dy.log2 (a : Dy) : Int := (Nat.log2 a.m.natAbs : Int) + a.e

/-- A value of a floating-point format: NaN, an infinity, or a finite value with its sign. -/
inductive FVal where
  | nan
  | inf (neg : Bool)
  | fin (neg : Bool) (mag : Nat) (e : Int)
deriving DecidableEq, Repr

def FVal.zero : FVal := .fin false 0 0
def FVal.dy : FVal → Dy
  | .fin neg m e => ⟨if neg then -(m : Int) else m, e⟩
  | _ => Dy.zero
def FVal.isNan : FVal → Bool | .nan => true | _ => false
def FVal.isFin : FVal → Bool | .fin _ _ _ => true | _ => false
def FVal.neg? : FVal → Bool | .inf n => n | .fin n _ _ => n | .nan => false
def FVal.negate : FVal → FVal
  | .nan => .nan
  | .inf n => .inf (!n)
  | .fin n m e => .fin (!n) m e
def FVal.ofDy (d : Dy) : FVal := .fin (decide (d.m < 0)) d.m.natAbs d.e

/-- How a format codes its largest exponent (R103). -/
inductive Specials where
  | ieee | e4m3 | finite
deriving DecidableEq, Repr

/-- A floating-point element format (R103). -/
structure FF where
  eb : Nat
  mb : Nat
  bias : Nat
  sp : Specials
deriving DecidableEq, Repr

def fp32 : FF := ⟨8, 23, 127, .ieee⟩
def bf16 : FF := ⟨8, 7, 127, .ieee⟩
def fp16 : FF := ⟨5, 10, 15, .ieee⟩
def e5m2 : FF := ⟨5, 2, 15, .ieee⟩
def e4m3 : FF := ⟨4, 3, 7, .e4m3⟩
def e3m2 : FF := ⟨3, 2, 3, .finite⟩
def e2m3 : FF := ⟨2, 3, 1, .finite⟩
def e2m1 : FF := ⟨2, 1, 1, .finite⟩

def FF.width (f : FF) : Nat := 1 + f.eb + f.mb
def FF.emax (f : FF) : Nat := 2 ^ f.eb - 1
/-- The largest finite code without its sign (R103). -/
def FF.maxCode (f : FF) : Nat :=
  match f.sp with
  | .ieee => f.emax * 2 ^ f.mb - 1
  | .e4m3 => f.emax * 2 ^ f.mb + (2 ^ f.mb - 2)
  | .finite => f.emax * 2 ^ f.mb + (2 ^ f.mb - 1)

/-- The value of a code (R103). -/
def FF.decode (f : FF) (c : Nat) : FVal :=
  let neg := c / 2 ^ (f.eb + f.mb) % 2 == 1
  let E := c / 2 ^ f.mb % 2 ^ f.eb
  let M := c % 2 ^ f.mb
  let fin : FVal :=
    if E = 0 then .fin neg M (1 - (f.bias : Int) - f.mb)
    else .fin neg (2 ^ f.mb + M) ((E : Int) - f.bias - f.mb)
  match f.sp with
  | .ieee => if E = f.emax then (if M = 0 then .inf neg else .nan) else fin
  | .e4m3 => if E = f.emax ∧ M = 2 ^ f.mb - 1 then .nan else fin
  | .finite => fin

/-- The largest finite value. -/
def FF.maxDy (f : FF) : Dy := (f.decode f.maxCode).dy
def FF.signed (f : FF) (neg : Bool) (code : Nat) : Nat := if neg then code + 2 ^ (f.eb + f.mb) else code
/-- The canonical NaN of the format (R104). -/
def FF.nanCode (f : FF) : Nat :=
  match f.sp with
  | .ieee => f.emax * 2 ^ f.mb + 2 ^ (f.mb - 1)
  | .e4m3 => f.emax * 2 ^ f.mb + (2 ^ f.mb - 1)
  | .finite => 0
def FF.infCode (f : FF) (neg : Bool) : Nat := f.signed neg (f.emax * 2 ^ f.mb)

/-- A magnitude cut to the format's grid at its own binade: the code of the neighbour toward zero, whether
it is exact, and the top 16 bits of the discarded fraction (R124). -/
def FF.cut (f : FF) (mag : Nat) (e : Int) : Nat × Bool × Nat :=
  if mag = 0 then (0, true, 0) else
  let E := (Nat.log2 mag : Int) + e
  let Ec := max E (1 - (f.bias : Int))
  let q := Ec - f.mb
  let k := if e ≥ q then mag * 2 ^ (e - q).toNat else mag / 2 ^ (q - e).toNat
  let exact := decide (e ≥ q) || mag % 2 ^ (q - e).toNat == 0
  let frac := if e ≥ q then 0 else (mag % 2 ^ (q - e).toNat) * 65536 / 2 ^ (q - e).toNat
  let code := if Ec = E ∧ k ≥ 2 ^ f.mb then (Ec + f.bias).toNat * 2 ^ f.mb + (k - 2 ^ f.mb) else k
  (code, exact, frac)

/-- How a conversion rounds an inexact value: to the neighbour the bit names (faithful, R116), or
stochastically with a draw (R124). -/
inductive Round where
  | faithful (up : Bool)
  | stochastic (r : Nat)
deriving DecidableEq, Repr

/-- What a conversion counts (R117). -/
inductive Counted where
  | nothing | saturated | nan
deriving DecidableEq, Repr

/-- Conversion of a value to a floating-point format outside MX, with what it counts: the rows of R117 in
order. -/
def FF.convert (f : FF) (r : Round) (v : FVal) : Nat × Counted :=
  match v with
  | .nan => (f.nanCode, .nan)
  | .inf neg =>
    match f.sp with
    | .ieee => (f.infCode neg, .nothing)
    | .e4m3 => (f.nanCode, .nan)
    | .finite => (f.signed neg f.maxCode, .saturated)
  | .fin neg mag e =>
    if f.maxDy.lt ⟨mag, e⟩ then (f.signed neg f.maxCode, .saturated)
    else
      let (code, exact, frac) := f.cut mag e
      let up := match r with | .faithful b => b | .stochastic d => decide (d < frac)
      (f.signed neg (if exact || !up then code else code + 1), .nothing)

/-- Conversion to a two's complement integer of `w` bits (R117, R121). -/
def toInt (w : Nat) (r : Round) (v : FVal) : BitVec w × Counted :=
  let hi : Int := 2 ^ (w - 1) - 1
  let lo : Int := -(2 ^ (w - 1))
  match v with
  | .nan => (0, .nan)
  | .inf neg => (BitVec.ofInt w (if neg then lo else hi), .saturated)
  | .fin neg mag e =>
    let k : Nat := if e ≥ 0 then mag * 2 ^ e.toNat else mag / 2 ^ (-e).toNat
    let exact := decide (e ≥ 0) || mag % 2 ^ (-e).toNat == 0
    let frac := if e ≥ 0 then 0 else (mag % 2 ^ (-e).toNat) * 65536 / 2 ^ (-e).toNat
    let up := match r with | .faithful b => b | .stochastic d => decide (d < frac)
    let k' : Int := if exact || !up then k else k + 1
    let i : Int := if neg then -k' else k'
    let x : Dy := ⟨if neg then -(mag : Int) else mag, e⟩
    if Dy.lt ⟨hi, 0⟩ x then (BitVec.ofInt w hi, .saturated)
    else if x.lt ⟨lo, 0⟩ then (BitVec.ofInt w lo, .saturated)
    else (BitVec.ofInt w i, .nothing)

/-! ### FP32 arithmetic (R119, R120, R127) -/

/-- An FP32 code as arithmetic reads it: a subnormal counts as zero of its sign (R120). -/
def rd (b : BitVec 32) : FVal :=
  match fp32.decode b.toNat with
  | .fin n m e => if m < 2 ^ 23 then .fin n 0 0 else .fin n m e
  | v => v

/-- An FP32 code with its subnormals honoured, as conversions and the matrix engine read it (R120). -/
def rdFull (b : BitVec 32) : FVal := fp32.decode b.toNat

def nan32 : BitVec 32 := 0x7FC00000
def inf32 (neg : Bool) : BitVec 32 := BitVec.ofNat 32 (fp32.infCode neg)
def zero32 (neg : Bool) : BitVec 32 := BitVec.ofNat 32 (fp32.signed neg 0)
def one32 : BitVec 32 := 0x3F800000

/-- 2^-126, below which arithmetic results are flushed (R120). -/
def minNormal : Dy := ⟨1, -126⟩

/-- An exact finite result as an FP32 result of arithmetic: one of its two neighbours, flushed below
2^-126 (R120), and infinite beyond the largest finite value where the rounding passes it (R119). -/
def result (up : Bool) (signOfZero : Bool) (x : Dy) : BitVec 32 :=
  if x.isZero then zero32 signOfZero
  else
    let neg := decide (x.m < 0)
    if x.abs.lt minNormal then zero32 neg
    else if fp32.maxDy.lt x.abs then
      if Dy.le ⟨1, 128⟩ x.abs || up then inf32 neg else BitVec.ofNat 32 (fp32.signed neg fp32.maxCode)
    else
      let (code, exact, _) := fp32.cut x.m.natAbs x.e
      BitVec.ofNat 32 (fp32.signed neg (if exact || !up then code else code + 1))

/-- One unit in the last place of a finite value of FP32's normal range. -/
def ulp (x : Dy) : Dy := if x.isZero then ⟨1, -149⟩ else ⟨1, max (x.log2 - 23) (-149)⟩

/-- An exact value's nearer FP32 neighbour; beyond the largest finite value, what `result` gives. -/
def nearest (tok idx : Nat) (x : Dy) : BitVec 32 :=
  let z := Config.freeBit tok (idx + 1)
  let a := result false z x
  let b := result true z x
  match fp32.decode a.toNat, fp32.decode b.toNat with
  | .fin n m e, .fin n' m' e' =>
    if (x.sub (FVal.fin n m e).dy).abs.le (x.sub (FVal.fin n' m' e').dy).abs then a else b
  | _, _ => result (Config.freeBit tok idx) z x

/-- The value of a free word where it lies within `bound` of the exact result, and otherwise the exact
result rounded to nearest: what an operation gives whose error the manual only bounds (R123, R127). A bound of zero
leaves the exact result alone, where FP32 holds it. -/
def within (tok idx : Nat) (exact bound : Dy) : BitVec 32 :=
  let c := Config.freeWord tok idx
  match fp32.decode c.toNat with
  | .fin n m e =>
    let d : Dy := ⟨if n then -(m : Int) else m, e⟩
    if (d.sub exact).abs.le bound && (!(d.abs.lt minNormal) || d.isZero) then c
    else nearest tok idx exact
  | _ => nearest tok idx exact

/-- A sum whose order is open may pass the largest finite value on its way (R119): where its positive terms alone can,
+Inf is a result too, where its negative terms can, −Inf, and where both can, their sum NaN. -/
def orOverflow (tok idx : Nat) (pos neg bound : Dy) (v : BitVec 32) : BitVec 32 :=
  let up := fp32.maxDy.lt (pos.add bound)
  let down := fp32.maxDy.lt (neg.add bound)
  match Config.freeNat tok idx % 4 with
  | 1 => if up then inf32 false else v
  | 2 => if down then inf32 true else v
  | 3 => if up && down then nan32 else v
  | _ => v

def isNan32 (b : BitVec 32) : Bool := (fp32.decode b.toNat).isNan
def isFin32 (b : BitVec 32) : Bool := (fp32.decode b.toNat).isFin

/-- Addition in FP32. The sign of an exact zero sum of unlike signs is open. -/
def add (tok idx : Nat) (a b : BitVec 32) : BitVec 32 :=
  match rd a, rd b with
  | .nan, _ => nan32
  | _, .nan => nan32
  | .inf n, .inf m => if n = m then inf32 n else nan32
  | .inf n, _ => inf32 n
  | _, .inf m => inf32 m
  | x, y =>
    let z := if x.neg? = y.neg? then x.neg? else Config.freeBit tok (idx + 1)
    result (Config.freeBit tok idx) z (x.dy.add y.dy)

def negate (b : BitVec 32) : BitVec 32 := if isNan32 b then nan32 else b ^^^ 0x80000000
def sub (tok idx : Nat) (a b : BitVec 32) : BitVec 32 := add tok idx a (negate b)

def mul (tok idx : Nat) (a b : BitVec 32) : BitVec 32 :=
  match rd a, rd b with
  | .nan, _ => nan32
  | _, .nan => nan32
  | .inf n, .inf m => inf32 (n != m)
  | .inf n, y => if y.dy.isZero then nan32 else inf32 (n != y.neg?)
  | x, .inf m => if x.dy.isZero then nan32 else inf32 (m != x.neg?)
  | x, y => result (Config.freeBit tok idx) (x.neg? != y.neg?) (x.dy.mul y.dy)

/-- Fused multiply-add, rounded once (R127). -/
def fma (tok idx : Nat) (a b c : BitVec 32) : BitVec 32 :=
  match rd a, rd b, rd c with
  | .fin n m e, .fin n' m' e', .fin n'' m'' e'' =>
    let p := (FVal.fin n m e).dy.mul (FVal.fin n' m' e').dy
    let z := if (n != n') = n'' then n'' else Config.freeBit tok (idx + 1)
    result (Config.freeBit tok idx) z (p.add (FVal.fin n'' m'' e'').dy)
  | _, _, _ =>
    -- a product of finite values counts as finite here: only the special values decide
    let p := mul tok idx a b
    if isFin32 a && isFin32 b then (if isNan32 c then nan32 else c) else add tok idx p c

/-- a < b for values that are not NaN, with the zeros equal (R222). -/
def ltF (a b : FVal) : Bool :=
  match a, b with
  | .nan, _ => false
  | _, .nan => false
  | .inf n, .inf m => n && !m
  | .inf n, _ => n
  | _, .inf m => !m
  | x, y => x.dy.lt y.dy
def eqF (a b : FVal) : Bool :=
  match a, b with
  | .nan, _ => false
  | _, .nan => false
  | .inf n, .inf m => n == m
  | .inf _, _ => false
  | _, .inf _ => false
  | x, y => (x.dy.sub y.dy).isZero

/-- A value as an FP32 result that arithmetic passes through unchanged, subnormals flushed (R120). -/
def pass (b : BitVec 32) : BitVec 32 :=
  match rd b with
  | .nan => nan32
  | .fin n m _ => if m = 0 then zero32 n else b
  | _ => b

/-- MAX (R222): NaN if either is NaN; max(+0, −0) = +0. -/
def maxV (a b : BitVec 32) : BitVec 32 :=
  let x := rd a; let y := rd b
  if x.isNan || y.isNan then nan32
  else if eqF x y then (if x.neg? then pass b else pass a)
  else if ltF x y then pass b else pass a
/-- MIN (R222). -/
def minV (a b : BitVec 32) : BitVec 32 :=
  let x := rd a; let y := rd b
  if x.isNan || y.isNan then nan32
  else if eqF x y then (if x.neg? then pass a else pass b)
  else if ltF x y then pass a else pass b

/-- Quotient of magnitudes to `bits` fraction bits past the leading one, cut toward zero, with a sticky
last bit. -/
def quotDy (num den : Nat) : Dy :=
  let k := 64 + Nat.log2 den + 1
  let q := num * 2 ^ k / den
  let sticky := if num * 2 ^ k % den = 0 then 0 else 1
  ⟨(2 * q + sticky : Nat), -(k : Int) - 1⟩

/-- Division in FP32 within 1 ulp, as the divide units give it (the bounds of R127 and R128). -/
def div (tok idx : Nat) (a b : BitVec 32) : BitVec 32 :=
  match rd a, rd b with
  | .nan, _ => nan32
  | _, .nan => nan32
  | .inf _, .inf _ => nan32
  | .inf n, y => inf32 (n != y.neg?)
  | x, .inf m => zero32 (x.neg? != m)
  | .fin n m e, .fin n' m' e' =>
    if m' = 0 then (if m = 0 then nan32 else inf32 (n != n'))
    else
      let q := quotDy m m'
      let x : Dy := ⟨if n != n' then -q.m else q.m, q.e + e - e'⟩
      within tok idx x (ulp x)

/-- 1 ÷ x (R128): 1 ulp; ±0 gives ±Inf, ±Inf gives ±0, |x| > 2^126 gives ±0. -/
def rcp (tok idx : Nat) (a : BitVec 32) : BitVec 32 :=
  match rd a with
  | .nan => nan32
  | .inf n => zero32 n
  | .fin n m e =>
    if m = 0 then inf32 n
    else if Dy.lt ⟨1, 126⟩ ⟨m, e⟩ then zero32 n
    else div tok idx one32 a

/-- The square root of a magnitude, cut toward zero with a sticky last bit. -/
def sqrtDy (m : Nat) (e : Int) : Dy :=
  let (m, e) := if e % 2 = 0 then (m, e) else (2 * m, e - 1)
  let r := Nat.sqrt (m * 2 ^ 128)
  let sticky := if r * r = m * 2 ^ 128 then 0 else 1
  ⟨(2 * r + sticky : Nat), e / 2 - 65⟩

/-- 1 ÷ sqrt(x) (R128): 2 ulp; +0 gives +Inf, −0 gives −Inf, x < 0 NaN, +Inf gives +0. -/
def rsqrt (tok idx : Nat) (a : BitVec 32) : BitVec 32 :=
  match rd a with
  | .nan => nan32
  | .inf n => if n then nan32 else zero32 false
  | .fin n m e =>
    if m = 0 then inf32 n
    else if n then nan32
    else
      let s := sqrtDy m e
      let q := quotDy 1 s.m.natAbs
      let x : Dy := ⟨q.m, q.e - s.e⟩
      within tok idx x ((ulp x).scale 1)

/-- A square root of the solver's and update unit's square-root units, within 2 ulp. -/
def sqrt (tok idx : Nat) (a : BitVec 32) : BitVec 32 :=
  match rd a with
  | .nan => nan32
  | .inf n => if n then nan32 else a
  | .fin n m e =>
    if m = 0 then zero32 n
    else if n then nan32
    else let x := sqrtDy m e; within tok idx x ((ulp x).scale 1)

/-! ### exp, log and tanh (R128)

The exact value is taken to a fixed point of 160 fraction bits, far below the bounds of R128, and the result
is any FP32 value within the bound of it. -/

/-- 2^160: one in the fixed point. -/
def fxOne : Int := 2 ^ 160
/-- ln 2 in the fixed point. -/
def fxLn2 : Int := 1013035739299659071135698605846798551586536899366
def fxMul (a b : Int) : Int := a * b / fxOne
def fxOf (d : Dy) : Int := if 0 ≤ d.e + 160 then d.m * (2 ^ (d.e + 160).toNat : Nat) else d.m / (2 ^ (-(d.e + 160)).toNat : Nat)

/-- Terms of exp's series from the i-th on: the sum of r^i / i! with `t` the term reached. -/
def expSeries : Nat → Nat → Int → Int → Int
  | 0, _, _, _ => 0
  | fuel + 1, i, t, r => t + expSeries fuel (i + 1) (fxMul t r / ((i : Int) + 1)) r

/-- exp of a value, as an exact-to-far-below-the-bound dyadic. -/
def expDy (x : Dy) : Dy :=
  let f := fxOf x
  let k := f / fxLn2
  ⟨expSeries 48 0 fxOne (f - k * fxLn2), k - 160⟩

/-- The sum of t^(2i+1) / (2i+1). -/
def atanhSeries : Nat → Nat → Int → Int → Int
  | 0, _, _, _ => 0
  | fuel + 1, i, t, t2 => t / (2 * (i : Int) + 1) + atanhSeries fuel (i + 1) (fxMul t t2) t2

/-- log of a positive magnitude. -/
def logDy (m : Nat) (e : Int) : Dy :=
  let k := (Nat.log2 m : Int)
  let y := fxOf ⟨m, -k⟩
  let t := (y - fxOne) * fxOne / (y + fxOne)
  ⟨2 * atanhSeries 60 0 t (fxMul t t) + (k + e) * fxLn2, -160⟩

/-- tanh of a positive magnitude below 9.1. -/
def tanhDy (m : Nat) (e : Int) : Dy :=
  let x : Dy := ⟨m, e⟩
  if x.lt ⟨1, -40⟩ then x
  else
    let y := fxOf (expDy ⟨2 * m, e⟩)
    ⟨(y - fxOne) * fxOne / (y + fxOne), -160⟩

/-- exp(x): 2 ulp, and the special cases of R128. -/
def exp (tok idx : Nat) (a : BitVec 32) : BitVec 32 :=
  match rd a with
  | .nan => nan32
  | .inf n => if n then zero32 false else inf32 false
  | .fin n m e =>
    let x : Dy := ⟨if n then -(m : Int) else m, e⟩
    if m = 0 then one32
    else if Dy.lt ⟨8872, 0⟩ (x.mul ⟨100, 0⟩) then inf32 false
    else if x.lt ⟨-88, 0⟩ then zero32 false
    else
      let y := expDy x
      if y.lt minNormal then zero32 false else within tok idx y ((ulp y).scale 1)

/-- log(x): 2 ulp, or 2^-34 absolute if larger. -/
def log (tok idx : Nat) (a : BitVec 32) : BitVec 32 :=
  match rd a with
  | .nan => nan32
  | .inf n => if n then nan32 else inf32 false
  | .fin n m e =>
    if m = 0 then inf32 true
    else if n then nan32
    else
      let y := logDy m e
      let b := (ulp y).scale 1
      within tok idx y (if b.lt ⟨1, -34⟩ then ⟨1, -34⟩ else b)

/-- tanh(x): 3 ulp; ±1 exactly from 9.1 on. -/
def tanh (tok idx : Nat) (a : BitVec 32) : BitVec 32 :=
  match rd a with
  | .nan => nan32
  | .inf n => if n then negate one32 else one32
  | .fin n m e =>
    if Dy.le ⟨91, 0⟩ (Dy.mul ⟨m, e⟩ ⟨10, 0⟩) then (if n then negate one32 else one32)
    else if m = 0 then zero32 n
    else
      let y := tanhDy m e
      let y := if n then y.neg else y
      within tok idx y ((ulp y).mul ⟨3, 0⟩)

/-! ### Sums of products (R119, R127) -/

/-- The special value a sum of products has, before any rounding (R119): NaN from NaN, Inf × 0 or Inf − Inf;
an infinity from an infinite term; otherwise none. -/
def special : List (FVal × FVal) → Option FVal
  | [] => none
  | (a, b) :: rest =>
    let here : Option FVal :=
      if a.isNan || b.isNan then some .nan
      else if !a.isFin || !b.isFin then
        if (a.isFin && a.dy.isZero) || (b.isFin && b.dy.isZero) then some .nan
        else some (.inf (a.neg? != b.neg?))
      else none
    match here, special rest with
    | none, r => r
    | h, none => h
    | some .nan, _ => some .nan
    | _, some .nan => some .nan
    | some (.inf n), some (.inf m) => if n = m then some (.inf n) else some .nan
    | h, _ => h

/-- The sums of the positive products, and of the magnitudes of the negative ones. -/
def sumParts : List (FVal × FVal) → Dy × Dy
  | [] => (Dy.zero, Dy.zero)
  | (a, b) :: rest =>
    let x := a.dy.mul b.dy
    let (p, n) := sumParts rest
    if x.m < 0 then (p, n.add x.abs) else (p.add x, n)

/-- A finite value or its sign's part of it. -/
def partOf (neg : Bool) (x : Dy) : Dy := if decide (x.m < 0) == neg then x.abs else Dy.zero

/-- A sum of products in FP32 within `c` units of u = 2^-24 times Σ|a·b|, plus `flush` · 2^-126 (R127). -/
def dot (tok idx : Nat) (c flush : Nat) (terms : List (FVal × FVal)) : BitVec 32 :=
  match special terms with
  | some .nan => nan32
  | some (.inf n) => inf32 n
  | _ =>
    let (p, n) := sumParts terms
    let bound := ((p.add n).mul ⟨c, -24⟩).add ⟨flush, -126⟩
    orOverflow tok idx p n bound (within tok idx (p.sub n) bound)

/-- A sum of products each rounded to FP32 before it enters the tree (R225): one that overflows is infinite there. -/
def reduceDot (tok idx c : Nat) (terms : List (FVal × FVal)) : BitVec 32 :=
  let prod := fun (i : Nat) (t : FVal × FVal) =>
    match special [t] with
    | some v => v
    | none =>
      let x := t.1.dy.mul t.2.dy
      if fp32.maxDy.lt x.abs then fp32.decode (result (Config.freeBit tok (2 ^ 40 + idx * 2 ^ 16 + i)) false x).toNat else FVal.ofDy x
  dot tok idx c 0 ((List.zip (List.range terms.length) terms).map (fun x => (prod x.1 x.2, .fin false 1 0)))

/-- A partial result added to a running FP32 sum: the row of R127 for the sum of two partial results. -/
def accum (tok idx : Nat) (d v : BitVec 32) : BitVec 32 :=
  match rd d, rd v with
  | .fin n m e, .fin n' m' e' =>
    let x := (FVal.fin n m e).dy
    let y := (FVal.fin n' m' e').dy
    within tok idx (x.add y) ((x.abs.add y.abs).mul ⟨1, -24⟩)
  | _, _ => add tok idx d v

/-- The coefficient of the dot-product rows of R127. -/
def dotCoef (wide : Bool) (n : Nat) : Nat := (if wide then 9 else 8) + (n + 127) / 128

/-! ### Stochastic rounding's generator (R126) -/

def mulHiLo (a b : BitVec 32) : BitVec 32 × BitVec 32 :=
  let p := a.toNat * b.toNat
  (BitVec.ofNat 32 (p / 2 ^ 32), BitVec.ofNat 32 p)

/-- `n` rounds of Philox4x32 (R126 names Philox4x32-10; its constants are the generator's own). -/
def philox : Nat → BitVec 32 × BitVec 32 → BitVec 32 × BitVec 32 × BitVec 32 × BitVec 32 →
    BitVec 32 × BitVec 32 × BitVec 32 × BitVec 32
  | 0, _, c => c
  | n + 1, (k0, k1), (c0, c1, c2, c3) =>
    let (h0, l0) := mulHiLo 0xD2511F53 c0
    let (h1, l1) := mulHiLo 0xCD9E8D57 c2
    philox n (k0 + 0x9E3779B9, k1 + 0xBB67AE85) (h1 ^^^ c1 ^^^ k0, l1, h0 ^^^ c3 ^^^ k1, l0)

/-- The 16-bit draw for element `i` (R126). -/
def draw (seed : BitVec 64) (domain : Nat) (stream : BitVec 32) (gen : Nat) (i : Nat) : Nat :=
  let j := i / 8
  let l := i % 8
  let c0 := BitVec.ofNat 32 j
  let c1 := BitVec.ofNat 32 (gen % 65536 * 65536 + j / 2 ^ 32 % 2 ^ 13)
  let (w0, w1, w2, w3) :=
    philox 10 (BitVec.ofNat 32 seed.toNat, BitVec.ofNat 32 (seed.toNat / 2 ^ 32))
      (c0, c1, stream, BitVec.ofNat 32 domain)
  let w := if l / 2 = 0 then w0 else if l / 2 = 1 then w1 else if l / 2 = 2 then w2 else w3
  w.toNat / 2 ^ (16 * (l % 2)) % 65536

end Sys2Proof.Num
end

