-- ==== Sys2Proof/Machine/Formats.lean ====
section
/-! DEFINITION. Stored formats (R101 to R117): element layouts, MX blocks, per-tensor scales, INT8 and INT32, the
M8 moments, and conversion of rows with what it counts. -/

namespace Sys2Proof.Machine
open Sys2Proof.Num

/-! ### Format codes (R101) -/

/-- Bits of one element, without its share of a scale. -/
def fmtBits (c : Nat) : Nat :=
  match c with
  | 0x00 => 32 | 0x01 => 16 | 0x02 => 16 | 0x03 => 8 | 0x04 => 8 | 0x05 => 8 | 0x06 => 8 | 0x07 => 6
  | 0x08 => 6 | 0x09 => 4 | 0x0A => 8 | 0x0B => 8 | 0x0C => 32 | 0x0D => 8 | 0x0E => 8 | 0x0F => 64 | _ => 0

def fmtMx (c : Nat) : Bool := decide (5 ≤ c) && decide (c ≤ 0xA)
def fmtTensor (c : Nat) : Bool := c == 3 || c == 4
/-- The Path column reads Yes. -/
def fmtPath (c : Nat) : Bool := decide (c ≤ 0xC)
def fmtDefined (c : Nat) : Bool := decide (c ≤ 0xF)

/-- The floating-point layout of an element, where it has one. -/
def fmtFloat (c : Nat) : Option FF :=
  match c with
  | 0x00 => some fp32 | 0x01 => some bf16 | 0x02 => some fp16 | 0x03 => some e4m3 | 0x04 => some e5m2
  | 0x05 => some e4m3 | 0x06 => some e5m2 | 0x07 => some e2m3 | 0x08 => some e3m2 | 0x09 => some e2m1 | _ => none

/-- emax of an MX element format (R109). -/
def mxEmax (c : Nat) : Int :=
  match c with
  | 0x05 => 8 | 0x06 => 15 | 0x07 => 2 | 0x08 => 4 | 0x09 => 2 | _ => 0

/-- Bytes that `n` elements take, packed (R108). -/
def rowBytes (c n : Nat) : Nat := (n * fmtBits c + 7) / 8
def blocksOf (n : Nat) : Nat := (n + 31) / 32

/-- Code of element `i` of a packed row: its bits counted from bit 0 of the row's first byte (R108). -/
def elemCode (c : Nat) (row : List Byte) (i : Nat) : Nat :=
  let b := fmtBits c
  let first := i * b / 8
  leNat ((row.drop first).take ((b + 14) / 8)) / 2 ^ (i * b % 8) % 2 ^ b

/-- Pack codes of `b` bits into bytes, element 0 lowest. -/
def packCodes (b : Nat) (codes : List Nat) : List Byte :=
  if b = 4 then
    (List.range ((codes.length + 1) / 2)).map (fun i => BitVec.ofNat 8 (codes.getD (2 * i) 0 + codes.getD (2 * i + 1) 0 * 16))
  else if b = 6 then
    (List.range ((codes.length + 3) / 4)).flatMap (fun i =>
      leBytes 3 (codes.getD (4 * i) 0 + codes.getD (4 * i + 1) 0 * 64 + codes.getD (4 * i + 2) 0 * 4096 + codes.getD (4 * i + 3) 0 * 262144))
  else codes.flatMap (fun c => leBytes (b / 8) c)

/-- A two's complement code as a value. -/
def intVal (w code : Nat) : FVal := FVal.ofDy (Dy.ofInt (BitVec.ofNat w code).toInt)

def scaleVal (v : FVal) (k : Int) : FVal :=
  match v with | .fin n m e => .fin n m (e + k) | x => x

/-- The product of an element with a per-tensor scale (R110). -/
def mulVal (a b : FVal) : FVal :=
  match a, b with
  | .nan, _ => .nan
  | _, .nan => .nan
  | .inf n, y => .inf (n != y.neg?)
  | x, .inf n => .inf (n != x.neg?)
  | .fin n m e, .fin n' m' e' => .fin (n != n') (m * m') (e + e')

/-- Value of one element code: `scale` is the E8M0 byte of its block, or the FP32 scale of its tensor. -/
def decodeElem (c code scale : Nat) : FVal :=
  if fmtMx c ∧ scale = 0xFF then .nan
  else
    match fmtFloat c with
    | some f =>
      if fmtMx c then scaleVal (f.decode code) ((scale : Int) - 127)
      else if fmtTensor c then mulVal (f.decode code) (fp32.decode scale)
      else f.decode code
    | none =>
      if c = 0xA then scaleVal (intVal 8 code) ((scale : Int) - 127 - 6)
      else if c = 0xB then intVal 8 code
      else intVal 32 code

/-- Values of a row of `n` elements. -/
def decodeRow (c : Nat) (row scales : List Byte) (tensor n : Nat) : List FVal :=
  (List.range n).map (fun i =>
    decodeElem c (elemCode c row i) (if fmtMx c then (scales.getD (i / 32) 0).toNat else tensor))

/-! ### Encoding -/

/-- What a conversion produces: element bytes, scale bytes and the counted events. -/
structure Conv where
  bytes : List Byte
  scales : List Byte
  sat : Nat
  nan : Nat
deriving DecidableEq, Repr

def satOf : Counted → Nat | .saturated => 1 | _ => 0
def nanOf : Counted → Nat | .nan => 1 | _ => 0

/-- x ÷ s for a positive scale, cut with a sticky bit (R110). -/
def divVal (x : FVal) (s : FVal) : FVal :=
  match x, s with
  | .fin n m e, .fin _ m' e' =>
    let q := quotDy m m'
    .fin n q.m.natAbs (q.e + e - e')
  | y, _ => y

/-- The rounding of element `i`: the draw where SR applies (R124), else a faithful choice (R116). -/
def roundOf (sr : Option (Nat → Nat)) (tok i : Nat) : Round :=
  match sr with
  | some draw => .stochastic (draw i)
  | none => .faithful (Config.freeBit tok i)

/-- One element outside MX (R116, R117, R121). -/
def encodeElem (c tensor : Nat) (r : Round) (faith : Round) (v : FVal) : Nat × Counted :=
  match fmtFloat c with
  | some f => f.convert (if c = 0 then faith else r) (if fmtTensor c then divVal v (fp32.decode tensor) else v)
  | none =>
    if c = 0xB then let (x, k) := toInt 8 faith v; (x.toNat, k)
    else let (x, k) := toInt 32 faith v; (x.toNat, k)

/-- An MXINT8 code of v ÷ X: a multiple of 2^-6, in −127 to 127 (R105). -/
def mxIntCode (r : Round) (v : FVal) : Nat :=
  let (q, _) := toInt 16 r (scaleVal v 6)
  let i : Int := if q.toInt > 127 then 127 else if q.toInt < -127 then -127 else q.toInt
  (BitVec.ofInt 8 i).toNat

def maxDy : List FVal → Dy
  | [] => Dy.zero
  | v :: r => let m := maxDy r; if m.lt v.dy.abs then v.dy.abs else m

/-- One block of an MX destination (R109, R117 rows 2 and 6): scale byte, codes and whether it is NaN. -/
def encodeBlock (c : Nat) (round : Nat → Round) (vs : List FVal) : Nat × List Nat × Bool :=
  if vs.any (fun v => !v.isFin) then (0xFF, vs.map (fun _ => 0), true)
  else
    let a := maxDy vs
    if a.isZero then (0, vs.map (fun _ => 0), false)
    else
      let x := min 127 (max (-127) (a.log2 - mxEmax c))
      let codes := (List.range vs.length).map (fun i =>
        let v := scaleVal (vs.getD i .zero) (-x)
        match fmtFloat c with
        | some f => (f.convert (round i) v).1
        | none => mxIntCode (round i) v)
      ((x + 127).toNat, codes, false)

def chunks32 (vs : List FVal) : List (List FVal) :=
  (List.range (blocksOf vs.length)).map (fun b =>
    (List.range 32).map (fun i => vs.getD (32 * b + i) .zero))

/-- Encode a row; `first` is the element index of its first element in the destination (R126). DESIGN CHOICE (log 28): an
element that reaches its format's largest value because the MX scale exponent is held at 127 counts no saturation. -/
def encodeRow (c tensor : Nat) (sr : Option (Nat → Nat)) (tok first : Nat) (vs : List FVal) : Conv :=
  if fmtMx c then
    let blocks := chunks32 vs
    let enc := (List.range blocks.length).map (fun b =>
      encodeBlock c (fun i => roundOf sr tok (first + 32 * b + i)) (blocks.getD b []))
    ⟨packCodes (fmtBits c) (enc.flatMap (fun e => e.2.1)), enc.map (fun e => BitVec.ofNat 8 e.1),
      0, (enc.filter (fun e => e.2.2)).length⟩
  else
    let enc := (List.range vs.length).map (fun i =>
      encodeElem c tensor (roundOf sr tok (first + i)) (.faithful (Config.freeBit tok (first + i))) (vs.getD i .zero))
    ⟨packCodes (fmtBits c) (enc.map (fun e => e.1)), [], (enc.map (fun e => satOf e.2)).sum, (enc.map (fun e => nanOf e.2)).sum⟩

/-- A row of MXFP6 as MXFP8 E4M3 (R102): every element exact, every block's scale kept; a NaN scale marks its block
(R117 row 2). -/
def widenRow (cin : Nat) (row scales : List Byte) (n : Nat) : Conv :=
  let sc := (List.range (blocksOf n)).map (fun b => scales.getD b 0)
  let code := fun i => match fmtFloat cin with
    | some f => if n ≤ i ∨ sc.getD (i / 32) 0 = 0xFF then 0 else (e4m3.convert (.faithful false) (f.decode (elemCode cin row i))).1
    | none => 0
  ⟨(List.range (32 * blocksOf n)).map (fun i => BitVec.ofNat 8 (code i)), sc, 0, (sc.filter (fun b => b == 0xFF)).length⟩

/-- Convert a row of `n` elements between stored formats (R102, R109, R116, R117). -/
def convertRow (cin cout : Nat) (row scales : List Byte) (tin tout : Nat) (sr : Option (Nat → Nat)) (tok first n : Nat) : Conv :=
  if (cin = 7 ∨ cin = 8) ∧ cout = 5 then widenRow cin row scales n
  else encodeRow cout tout sr tok first (decodeRow cin row scales tin n)

/-- Values as FP32 words, as a receiver widens them (R115): exact where FP32 holds them. -/
def toF32 (tok idx : Nat) (v : FVal) : BitVec 32 := BitVec.ofNat 32 (fp32.convert (.faithful (Config.freeBit tok idx)) v).1

/-- A per-tensor scale must be a positive normal number (R110). -/
def tensorScaleOk (w : Nat) : Bool := decide (0x00800000 ≤ w) && decide (w < 0x7F800000)

/-! ### M8 (R112 to R114) -/

/-- The smallest BF16 code not less than a magnitude, or none beyond the largest. -/
def bf16Up (a : Dy) : Option Nat :=
  if bf16.maxDy.lt a then none
  else
    let (code, exact, _) := bf16.cut a.m.natAbs a.e
    some (if exact then code else code + 1)

/-- num ÷ den rounded to the nearest integer, ties to even. -/
def roundEven (num den : Nat) : Nat :=
  let q := num / den
  let r := num % den
  if 2 * r < den then q else if den < 2 * r then q + 1 else if q % 2 = 0 then q else q + 1

/-- Ratio of two dyadic magnitudes as a pair of naturals. -/
def ratio (a b : Dy) : Nat × Nat :=
  let e := min a.e b.e
  ((a.at e).natAbs, (b.at e).natAbs)

/-- Scale and codes of an M8 block; `second` selects the companded second moment (R113). -/
def m8Encode (second : Bool) (vs : List FVal) : Nat × List Nat × Bool :=
  let a := if second then
      vs.foldl (fun (m : Dy) v => if m.lt v.dy then v.dy else m) Dy.zero
    else maxDy vs
  if vs.any (fun v => !v.isFin) then (0x7FC0, vs.map (fun _ => 0), true)
  else if a.lt minNormal then (0, vs.map (fun _ => 0), false)
  else
    match bf16Up a with
    | none => (0x7FC0, vs.map (fun _ => 0), true)
    | some sc =>
      let s := (bf16.decode sc).dy
      (sc, vs.map (fun v =>
        let x := v.dy
        if second then
          if x.m ≤ 0 then 0
          else
            let (n, d) := ratio x s
            let u := Nat.sqrt (65025 * n / d)
            let l := 4 * 65025 * n
            let h := (4 * u * u + 4 * u + 1) * d
            if l < h then u else if h < l then u + 1 else if u % 2 = 0 then u else u + 1
        else
          let (n, d) := ratio x.abs s
          let q := min 127 (roundEven (127 * n) d)
          if x.m < 0 then (BitVec.ofInt 8 (-(q : Int))).toNat else q), false)

/-- The value that an M8 code decodes to, as a quotient cut with a sticky bit (R113). -/
def m8Decode (second : Bool) (scale code : Nat) : FVal :=
  match bf16.decode scale with
  | .fin _ m e =>
    if m = 0 then .zero
    else if second then
      let q := quotDy (code * code * m) 65025
      .fin false q.m.natAbs (q.e + e)
    else
      let i : Int := max (-127) (BitVec.ofNat 8 code).toInt
      let q := quotDy (i.natAbs * m) 127
      .fin (decide (i < 0)) q.m.natAbs (q.e + e)
  | _ => .nan

end Sys2Proof.Machine
end

