-- ==== Sys2Proof/Machine/Beat.lean ====
section
/-! DEFINITION. The beat (spec/02_beat_and_deadlines.md, R27 to R37, R54 to R57): edges from the cable and
from markers, frames, locking, holdover, loss, relock and RESYNC. -/

namespace Sys2Proof.Machine
namespace State

def setBeat (f : Beat → Beat) (s : State) : State := { s with beat := f s.beat }
def beatCount (s : State) : Nat := s.beat.pos.toNat / 65536
def beatSrc (s : State) : Nat := s.field Regs.beatCfg 1 0

/-- The position with a new count and phase. -/
def setPos (count phase : Nat) (s : State) : State :=
  s.setBeat (fun b => { b with pos := BitVec.ofNat 64 (count * 65536 + phase) })

/-- A job is admitted or an entry is in the beat schedule (R34). -/
def beatInUse (s : State) : Bool := !s.jobs.isEmpty || !s.sched.isEmpty

/-- Values of BEAT.CFG and BEAT.DELAY that wait for an edge take effect. -/
def applyBeatCfg (s : State) : State :=
  let s := match s.beat.cfgNew with | some v => s.setRegNat Regs.beatCfg v.toNat | none => s
  let s := match s.beat.delayNew with | some v => s.setRegNat Regs.beatDelay v.toNat | none => s
  s.setBeat (fun b => { b with cfgNew := none, delayNew := none })

/-- Mean of the intervals counted, in 1/16 ns (R57). -/
def meanInterval (s : State) : Nat := s.beat.intervals.sum / max 1 s.beat.intervals.length

/-- BEAT.INTERVAL as it reads (R57). DEDUCED (log 84): in HOLDOVER and LOST the last mean measured stands, also
across a change of source, until the new source has shown an interval. -/
def intervalValue (s : State) : Nat :=
  if s.beat.mode = 4 then 16000000000 / max 1 s.nominalHz
  else if (s.beat.mode = 2 ∨ s.beat.mode = 3) ∧ s.beat.intervals = [] then s.regNat Regs.beatInterval
  else s.meanInterval

/-- BEAT.STATUS as it reads (R56). -/
def beatStatusValue (s : State) : Nat :=
  s.beat.mode.toNat + s.beat.activeSrc.toNat * 8 + s.beat.hops.toNat * 128
    + s.field Regs.beatStatus 12 10 * 1024

def setStatus (i : Nat) (s : State) : State := s.setField Regs.beatStatus i i 1

/-- An edge: the flight recorder keeps it (R467), and a beat marker leaves on every trained group port (R32). DEDUCED
(log 84): a port counts as trained in UP and in PARKED, not in SWAP, whose flits wait, nor in HELLO. -/
def sendMarkers (s : State) : State :=
  let s := s.recordEdge
  if s.flag Regs.beatCfg 6 && (s.beat.mode == 1 || s.beat.mode == 4) then
    let hops := if s.beat.activeSrc = 1 ∨ s.beat.mode = 4 then 0 else s.beat.hops.toNat + 1
    (List.range 7).foldl (fun (st : State) p =>
      if (st.link p).st = .up ∨ (st.link p).st = .parked then st.sendCtl p 4 (st.beatCount + hops * 2 ^ 48) else st) s
  else s

/-- The source count is found behind by more than 64 beats (R36). -/
def countConflict (s : State) : State :=
  ((((s.setBeat (fun b => { b with mode := 3, conflict := true, holding := false, jumpNext := false })).setStatus 10).setStatus 11).moduleEvent
    0x1303 0 0).atRiskAll

/-- The source's count becomes known, or is compared again: `c` is the count of the edge now (R34, R36). -/
def compareCount (c : Nat) (s : State) : State :=
  let n := s.beatCount
  let s := s.setBeat (fun b => { b with srcCount := some c })
  let locked := fun (b : Beat) => { b with mode := 1, unconfirmed := false, missed := 0, holding := false, jumpNext := false }
  if s.beat.conflict then s
  else if s.beat.mode = 0 && !s.beatInUse then (s.setPos c 0).setBeat locked
  else if c = n then s.setBeat locked
  else if n < c then s.setBeat (fun b => { b with jumpNext := true, holding := false, unconfirmed := false })
  else if n ≤ c + 64 then (s.setPos n 65535).setBeat (fun b => { locked b with holding := true })
  else s.countConflict

/-- Entries whose position a jump has passed fire late (R36). -/
def markPassed (old new : Nat) (s : State) : State :=
  { s with sched := s.sched.map (fun c =>
      if old * 65536 < c.2.position.toNat ∧ c.2.position.toNat < new * 65536 then (c.1, { c.2 with late := true }) else c) }

/-- A beat is counted: every source is one beat older (R33). -/
def ageSources (s : State) : State :=
  s.setBeat (fun b => { b with cableAge := b.cableAge + 1, markers := b.markers.map (fun m => { m with age := m.age + 1 }) })

/-- An edge of the source in use (R27, R35, R36): the interval is counted, waiting settings take effect, and the
count advances, jumps or holds as the state says. `known` is the source's count at this edge, where it shows one. -/
def sourceEdge (interval : Nat) (known : Option Nat) (s : State) : State :=
  let s := s.applyBeatCfg.ageSources
  let s := s.setBeat (fun b => { b with
    intervals := if b.sawEdge then (interval :: b.intervals).take 16 else b.intervals
    sawEdge := true, srcCount := known.orElse (fun _ => b.srcCount.map (· + 1)), missed := 0
    cableSince := 0, markers := b.markers.map (fun m => { m with since := 0 }) })
  let s := if s.beat.intervals.isEmpty then s else s.setRegNat Regs.beatInterval s.meanInterval
  let n := s.beatCount
  let c := s.beat.srcCount.getD 0
  if s.beat.conflict then s
  else if s.beat.jumpNext ∧ n < c then
    ((s.markPassed n c).setPos c 0).setBeat (fun b => { b with mode := 1, jumpNext := false, unconfirmed := false })
  else if s.beat.mode = 0 then s
  else if s.beat.holding then
    if s.beat.srcCount.isSome ∧ c < n then s else s.setBeat (fun b => { b with holding := false })
  else if s.beat.unconfirmed ∨ s.beat.mode = 3 then s
  else (s.setPos (n + 1) 0).setBeat (fun b => { b with mode := 1, jumpNext := false })

/-- A change of source starts the measurement of the new one (R27, R57). -/
def changeSource (active hops : Nat) (s : State) : State :=
  s.setBeat (fun b => { b with
    activeSrc := BitVec.ofNat 4 active, hops := BitVec.ofNat 3 hops, intervals := [], sawEdge := false
    srcCount := none, jumpNext := false, holding := false })

/-- AUTO takes a source whose edge of this beat the source before it has already counted (R33): nothing advances. -/
def takeQuietly (active hops count : Nat) (s : State) : State :=
  (s.changeSource active hops).setBeat (fun b => { b with sawEdge := true, srcCount := some count })

/-- The source in use has gone 4 beats without a valid edge (R33). DEDUCED (log 7): in SEARCH, where no beat is
counted, the edges of the source that would take over count the beats. -/
def sourceDead (since : Nat) (s : State) : Bool :=
  s.beat.activeSrc == 0 || decide (4 ≤ s.beat.missed) || (s.beat.mode == 0 && decide (4 ≤ since))

/-- The cable carries valid frames: the last frame that was due was valid, and pulses still arrive (R33). -/
def cableLive (s : State) : Bool := s.beat.lastFrame.isSome && decide (s.beat.cableAge < 4)

/-! ### The cable (R30, R31, R34) -/

/-- The value of a pulse: a width of 0.4 to 0.6 µs is 0, of 1.4 to 1.6 µs is 1, any other is invalid. -/
def pulseBit (width : Nat) : Option Bool :=
  if 400 ≤ width ∧ width ≤ 600 then some false
  else if 1400 ≤ width ∧ width ≤ 1600 then some true else none

/-- The 64 bits received, the first of them least significant. -/
def frameValue (bits : List Bool) : Nat := bits.foldl (fun v b => 2 * v + (if b then 1 else 0)) 0

/-- A bit joins the receiver. Answers the count of the beat now where a frame has just completed: whether
it is the second of two consecutive valid frames whose counts differ by 64. -/
def receiveBit (b : Bool) (s : State) : Option (Nat × Bool) × State :=
  let bs := (b :: s.beat.bits).take 64
  let v := frameValue bs
  let sync := bs.length == 64 && v % 65536 == 0xB38F
  let due := match s.beat.lastFrame with | some (_, k) => k + 1 == 64 | none => true
  let s := s.setBeat (fun x => { x with bits := bs, lastFrame := x.lastFrame.map (fun f => (f.1, f.2 + 1)) })
  if due && sync then
    let count := v / 65536
    let second := match s.beat.lastFrame with | some (c, _) => c + 64 == count | none => false
    (some (count + 63, second), s.setBeat (fun x => { x with lastFrame := some (count, 0) }))
  else if due && s.beat.lastFrame.isSome then
    (none, (s.setBeat (fun x => { x with lastFrame := none })).setStatus 12)
  else (none, s)

/-- A frame, the second of two, shows the count of this beat, which agrees with the module's: its edge is counted
already, or is the next (R33). -/
def frameAgrees (frame : Option (Nat × Bool)) (s : State) : Bool :=
  match frame with
  | some (c, true) => s.beat.mode != 0 && (c == s.beatCount || c == s.beatCount + 1)
  | _ => false

/-- Whether the cable serves now: by setting, or under AUTO as the source in use, while it carries valid frames and
the source in use is dead, or with two frames that agree with the count (R33). -/
def cableServes (frame : Option (Nat × Bool)) (s : State) : Bool :=
  if s.beatSrc = 1 then true
  else if s.beatSrc = 0 then
    s.beat.activeSrc == 1 || (s.cableLive && s.sourceDead s.beat.cableSince) || s.frameAgrees frame
  else false

/-- A pulse on the beat input. In Off the receiver is without supply (R37). -/
def beatPulseEff (width interval : Nat) (s : State) : State :=
  if s.power.off then s
  else
    let s := if s.flag Regs.beatCfg 5 then s.out (.beatOut width) else s
    match pulseBit width with
    | none => (s.setStatus 12).setBeat (fun b => { b with bits := [], lastFrame := none })
    | some v =>
      let (frame, s) := s.receiveBit v
      let s := s.setBeat (fun b => { b with cableSince := b.cableSince + 1 })
      let serves := s.cableServes frame
      let young := fun (s : State) => s.setBeat (fun b => { b with cableAge := 0 })
      if !serves then young s
      else if s.beat.activeSrc ≠ 1 ∧ s.beatSrc = 0 ∧ !(s.sourceDead s.beat.cableSince) ∧ frame = some (s.beatCount, true) then
        young (s.takeQuietly 1 0 s.beatCount)
      else
        let s := if s.beat.activeSrc = 1 then s else s.changeSource 1 0
        let s := young (s.sourceEdge interval none)
        let s := match frame with
          | some (c, true) => s.compareCount c
          | _ => s
        s.sendMarkers

/-! ### Markers (R32 to R34, R36) -/

def markerRun (s : State) (p : Nat) : MarkerRun :=
  (s.beat.markers.find? (fun m => m.port == p)).getD ⟨p, 0, 7, 0, 0, 0⟩

/-- A better port than `p` still sends markers: of fewer hops, or of as many and of a lower number (R33). -/
def betterPort (p hops : Nat) (s : State) : Bool :=
  s.beat.markers.any (fun m =>
    m.port != p && s.beat.activeSrc.toNat != m.port + 2 && decide (m.run ≠ 0) && decide (m.age < 4)
      && (decide (m.hops < hops) || (m.hops == hops && decide (m.port < p))))

/-- The source of fewer hops has delivered 128 consecutive edges, and its count agrees with the module's (R33). -/
def markerAgrees (hops : Nat) (r : MarkerRun) (s : State) : Bool :=
  s.beat.mode != 0 && s.beat.activeSrc != 1 && decide (hops < s.beat.hops.toNat) && decide (128 ≤ r.run)
    && (r.count == s.beatCount || r.count == s.beatCount + 1)

def markerServes (p hops : Nat) (r : MarkerRun) (s : State) : Bool :=
  if s.beatSrc = 2 then s.field Regs.beatCfg 4 2 == p
  else if s.beatSrc = 0 then
    s.beat.activeSrc.toNat == p + 2
      || (s.sourceDead r.since && !s.cableLive && !s.betterPort p hops)
      || s.markerAgrees hops r
  else false

/-- The value of a sound BEAT_MARKER flit: a hop count of 7 is ignored. -/
def beatMarkerEff (p value interval : Nat) (s : State) : State :=
  let count := bits value 47 0
  let hops := bits value 50 48
  if hops = 7 then s
  else
    let old := s.markerRun p
    let r : MarkerRun := ⟨p, count, hops, if old.run ≠ 0 ∧ count = old.count + 1 then old.run + 1 else 1, 0, old.since + 1⟩
    let keep := fun (r : MarkerRun) (s : State) => s.setBeat (fun b => { b with markers := r :: b.markers.filter (fun m => m.port != p) })
    let cur := s.beat.activeSrc.toNat == p + 2
    if !s.markerServes p hops r then keep r s
    else if !cur ∧ s.beatSrc = 0 ∧ !(s.sourceDead r.since) ∧ count = s.beatCount then
      keep { r with since := 0 } (s.takeQuietly (p + 2) hops count)
    else
      let s := if cur then s.setBeat (fun b => { b with hops := BitVec.ofNat 3 hops }) else s.changeSource (p + 2) hops
      let s := keep { r with since := 0 } (s.sourceEdge interval (if 128 ≤ r.run then some count else none))
      let s := if 128 ≤ r.run ∧ (s.beat.mode = 0 ∨ s.beat.unconfirmed ∨ s.beatCount ≠ count) then s.compareCount count else s
      s.sendMarkers

/-! ### The local oscillator, holdover and loss (R28, R35) -/

/-- A beat of the local oscillator. In HOLDOVER and LOST it stands for a missing edge (R35); where the source's count
is known, that count runs on past each edge that is certainly missing. -/
def localBeatEff (s : State) : State :=
  if s.power.off then s
  else if s.beat.mode = 4 then ((s.applyBeatCfg).setPos (s.beatCount + 1) 0).sendMarkers
  else if s.beat.mode = 0 ∧ s.beatSrc = 3 then s.setBeat (fun b => { b with mode := 4, activeSrc := 9 })
  else if s.beat.mode = 2 ∨ s.beat.mode = 3 then
    ((s.applyBeatCfg.ageSources).setPos (s.beatCount + 1) 0).setBeat (fun b => { b with
      missed := b.missed + 1, holding := false
      srcCount := if b.missed = 0 then b.srcCount else b.srcCount.map (· + 1) })
  else s

/-- An eighth of a beat after the expected edge: HOLDOVER, where the position advances (R28, R35). DEDUCED (log 84): a
hold of R36 ends there, and the count is compared again once the source's is known. -/
def holdoverEntryEff (s : State) : State :=
  if s.beat.mode = 1 ∧ !s.power.off then
    (s.ageSources.setPos (s.beatCount + 1) 8192).setBeat (fun b => { b with
      mode := 2, missed := b.missed + 1, holding := false, srcCount := b.srcCount.map (· + 1) })
  else s

def beatLostEff (s : State) : State :=
  if s.beat.mode = 2 ∧ 64 ≤ s.beat.missed ∧ !s.power.off then
    ((((s.setBeat (fun b => { b with mode := 3, unconfirmed := true, srcCount := none, jumpNext := false })).setStatus 10).moduleEvent
      0x1301 0 0)).atRiskAll
  else s

/-! ### BEAT.CFG and RESYNC (R34, R36, R54, R55) -/

/-- A write of BEAT.CFG. One that changes SRC or GPORT changes the source at once (R34); any other waits for
the next edge. DEDUCED (log 84): in LOST on a count conflict the state stays LOST, which only RESYNC ends (R36). -/
def beatCfgWriteEff (v : Nat) (s : State) : State :=
  let v := v &&& 0x1FFFF7F
  let old := s.regNat Regs.beatCfg
  if bits v 4 0 = bits old 4 0 then s.setBeat (fun b => { b with cfgNew := some (BitVec.ofNat 32 v) })
  else
    let s := (s.setRegNat Regs.beatCfg v).setBeat (fun b => { b with cfgNew := none })
    let s := (s.changeSource 0 0).setBeat (fun b => { b with bits := [], lastFrame := none, markers := [], cableSince := 0 })
    if s.beat.conflict then s
    else if bits v 1 0 = 3 then s.setBeat (fun b => { b with mode := 4, activeSrc := 9, unconfirmed := false, missed := 0 })
    else if s.beatInUse then s.setBeat (fun b => { b with mode := 2, unconfirmed := true, missed := 0 })
    else (s.setPos 0 0).setBeat (fun b => { b with mode := 0, unconfirmed := true, missed := 0 })

/-- The image of the job holds a WAIT_BEAT (R78, R89). -/
def usesBeat (j : Job) : Bool := bit j.image.flags 1

/-- RESYNC: every job with an entry in the schedule, or whose lists wait on the beat (R78), is quenched; the
schedule is cleared and the beat returns to SEARCH. DEDUCED (log 84): an Accord context whose ACCORD_COMMIT entry
is cleared stays PENDING, with its writes staged, until ROLLBACK ends it. -/
def resyncEff (s : State) : State :=
  let hs := (s.jobs.filter (fun j => usesBeat j || s.sched.any (fun c => c.2.owner == j.handle))).map (fun j => j.handle)
  let s := hs.foldl (fun st h => st.quenchJob h 0x1401) s
  let s := { s with sched := [] }
  (s.setPos 0 0).setBeat (fun b => { b with
    mode := 0, conflict := false, holding := false, jumpNext := false, unconfirmed := true, missed := 0
    srcCount := none, bits := [], lastFrame := none, markers := [] })

end State

def execBeatPulse (widthNs : W16) (interval : BitVec 48) (s : State) : Host.Outcome State Fault Refusal :=
  .next (s.beatPulseEff widthNs.toNat interval.toNat)

def execLocalBeat (s : State) : Host.Outcome State Fault Refusal := .next s.localBeatEff

def execHoldoverEntry (s : State) : Host.Outcome State Fault Refusal := .next s.holdoverEntryEff

def execBeatLost (s : State) : Host.Outcome State Fault Refusal := .next s.beatLostEff

end Sys2Proof.Machine
end

