-- ==== Sys2Proof/Machine/Sched.lean ====
section
/-! DEFINITION. The beat schedule (R40 to R44): installing entries, reading one with its guard, and the order
in which due entries fire. The kinds' own actions stand in the files of their chapters. -/

namespace Sys2Proof.Machine

/-- Entries of a table: 1,024 on a die, 256 in the management domain (table 4). -/
def tableSize (table : Nat) : Nat := if table = 4 then 256 else 1024

def SchedEntry.make (kind flags : Nat) (position : W64) (target owner : W32) (late : Bool) : SchedEntry :=
  let h := BitVec.ofNat 32 (kind + flags % 256 * 256)
  ⟨h, ~~~h, position, ~~~position, target, ~~~target, owner, late⟩

def SchedEntry.kind (e : SchedEntry) : Nat := e.header.toNat % 256
def SchedEntry.flags (e : SchedEntry) : Nat := e.header.toNat / 256 % 256
/-- The three guard pairs hold (R40). -/
def SchedEntry.guarded (e : SchedEntry) : Bool :=
  e.nheader == ~~~e.header && e.nposition == ~~~e.position && e.ntarget == ~~~e.target

namespace State

/-- The lowest free index of a table, if one is free. -/
def freeEntry (s : State) (table : Nat) : Option Nat :=
  (List.range (tableSize table)).find? (fun i => (mfind s.sched (table * 1024 + i)).isNone)

/-- Install an entry; none where the table is full. An entry whose position is past is late (R43). -/
def installEntry (table : Nat) (e : SchedEntry) (s : State) : Option State :=
  match s.freeEntry table with
  | none => none
  | some i =>
    let e := { e with late := decide (e.position.toNat < s.beat.pos.toNat) }
    some { s with sched := mset s.sched (table * 1024 + i) e }

/-- Install a list of entries, each in its table, or none of them (R44). -/
def installAll (l : List (Nat × SchedEntry)) (s : State) : Option State :=
  match l with
  | [] => some s
  | (t, e) :: r =>
    match s.installEntry t e with
    | none => none
    | some s' => s'.installAll r

/-- The position of the entry is reached (R42). -/
def isDue (s : State) (e : SchedEntry) : Bool :=
  s.beat.mode != 0 && decide (e.position.toNat ≤ s.beat.pos.toNat)

/-- An entry of the same position stands before this one in the order of R41. -/
def blocked (s : State) (table i : Nat) (e : SchedEntry) : Bool :=
  s.sched.any (fun c =>
    c.1 != table * 1024 + i && c.2.guarded && c.2.position == e.position
      && (decide (c.2.kind < e.kind) || (c.2.kind == e.kind && c.1 / 1024 == table && decide (c.1 % 1024 < i))))

/-- Steps of the solver engines and actions of the network interfaces run in Run and Idle, and those in progress while
an entry is under way (R283, R434). -/
def stepsRun (s : State) : Bool := s.power.st == 0 || s.power.st == 1 || s.power.st == 4

/-! ### Wakes (R436, R437) -/

/-- PWR.WAKE_EN lets a source act; the WAKE_L pin has no bit. -/
def wakeEnabled (s : State) (src : Nat) : Bool := if 1 ≤ src ∧ src ≤ 5 then s.flag Regs.pwrWakeEn (src - 1) else true

/-- The table of R436: the source acts in Idle (1), Sleep (2), Deep sleep (3). -/
def wakeActs (src st : Nat) : Bool :=
  if st = 1 then src != 5 else if st = 2 then true else if st = 3 then src != 1 && src != 5 else false

/-- A wake source acts: exit starts from a low-power state; a wake that arrives while an entry is in progress is
kept until it completes. -/
def wakeBy (src : Nat) (s : State) : State :=
  if s.power.off ∨ s.power.held ∨ (s.power.leak ∧ src ≠ 6) ∨ !s.wakeEnabled src then s
  else if s.power.st = 4 then
    if wakeActs src s.power.target.toNat ∨ (s.power.target = 4 ∧ src = 6) then
      { s with power := { s.power with latched := some (s.power.latched.getD src) } } else s
  else if wakeActs src s.power.st.toNat then
    { s with power := { s.power with st := 5, target := 0, origin := s.power.st, lastWake := src, pgFails := 0 } }
  else s

/-- An entry leaves its table. -/
def dropEntry (table i : Nat) (s : State) : State := { s with sched := mdel s.sched (table * 1024 + i) }

/-- A due entry fires: it is removed, a late one is counted (R43), and the quiet timer of its job restarts (R462). -/
def fired (table i : Nat) (e : SchedEntry) (s : State) : State :=
  let s := s.dropEntry table i
  let s := if e.late then s.countLate (if table = 4 then 3 else table) e.owner else s
  s.quietRestart (fun j => j.handle == e.owner)

/-- Read an entry that falls due and, where its guard, kind and order hold, remove it and act. A guard
mismatch discards it (R40). Entries other than WAKE fire in Run (R42), and are a wake source in a low-power
state (R436). -/
def fireEntry (table i kind : Nat) (act : SchedEntry → State → State) (s : State) : State :=
  match mfind s.sched (table * 1024 + i) with
  | none => s
  | some e =>
    if !e.guarded then (s.dropEntry table i).logGuard (if table = 4 then 0x700 else 0x500 + table) e.owner 4 i
    else if e.kind = kind ∧ s.isDue e ∧ (kind = 1 ∨ s.power.st = 0) ∧ !s.blocked table i e then act e (s.fired table i e)
    else if s.isDue e ∧ s.power.st ≠ 0 then s.wakeBy 4
    else s

/-- A job's deadline passes (R52). -/
def deadlineJobAct (e : SchedEntry) (s : State) : State :=
  match s.findJob e.target with
  | none => s
  | some j =>
    if j.st == .completing then s
    else
      let s := s.jobEvent j.handle 0x120A 0 0
      if bit j.block.flags.toNat 2 then s.quenchJob j.handle 0x120A else s

end State

def execDeadlineJob (d : Die) (i : Fin 1024) (s : State) : Host.Outcome State Fault Refusal :=
  .next (s.fireEntry d.val i.val 5 State.deadlineJobAct)

end Sys2Proof.Machine
end

