-- ==== Sys2Proof/Machine/NiBase.lean ====
section
/-! DEFINITION. The order of occurrences (R322, R324), counters and firing (R320, R331), and when a job is complete
(R65). -/

namespace Sys2Proof.Machine

namespace State

def occBefore (a b : Nat × Nat) : Bool := decide (a.1 < b.1) || (a.1 == b.1 && decide (a.2 < b.2))

/-- The head of an NI's sequence for a job: the first occurrence in the order of R322 after the one started
last. -/
def headOcc (s : State) (j : Job) (d : Nat) : Option (Nat × Nat) :=
  let last := mfind s.ni.heads (j.handle.toNat * 4 + d)
  let cands := (List.range j.image.keyCount).filterMap (fun k =>
    let r := s.keyRec j k
    if r.takesPart d then
      let round := match last with
        | none => r.first
        | some (r0, k0) => max r.first (if k0 < k then r0 else r0 + 1)
      if round < r.first + r.rounds then some (round, k) else none
    else none)
  match cands with
  | [] => none
  | c :: cs => some (cs.foldl (fun m x => if occBefore x m then x else m) c)

/-- Every collective of the job has completed (R65, R327). -/
def collectivesDone (s : State) (j : Job) : Bool :=
  (List.range 4).all (fun d => (s.headOcc j d).isNone)
    && !(s.ni.occs.any (fun o => o.job == j.handle && !(o.doneFired && o.armed.all (fun a => a.fired.isNone || a.complete))))

/-- The job is complete (R65): every named thread DONE, every collective complete, and every block it started
has its journal at DONE. -/
def jobFinished (s : State) (j : Job) : Bool :=
  j.named.all (fun k => (s.thread k).st == .done) && s.collectivesDone j
    && !(s.upd.opened.any (fun o => o.job == j.handle && o.started.any (fun b => !o.done.contains b)))

/-- When the last completion condition of a running job holds it waits only for its zeroing (R65, R96). -/
def checkComplete (h : W32) (s : State) : State :=
  match s.findJob h with
  | some j => if j.st == .running && s.jobFinished j then s.mapJob h (fun j => { j with st := .completing }) else s
  | none => s

/-! ### Counters (R320, R331) -/

/-- The records of an occurrence that a counter value now satisfies are marked fired, in index order. -/
def fireRecords (o : Occ) (off : Option Nat) (s : State) : Occ × Nat :=
  o.armed.foldl (fun (acc : Occ × Nat) a =>
    let r := s.trigRec a.recAt
    let named := match off with | some x => r.ctr == x | none => true
    let v := s.rdNat (sharedAddr o.die r.ctr) 4
    if !o.stopped && a.fired.isNone && named && decide (r.thresh ≤ v) then
      ({ acc.1 with armed := acc.1.armed ++ [{ a with fired := some acc.2 }] }, acc.2 + 1)
    else ({ acc.1 with armed := acc.1.armed ++ [a] }, acc.2)) ({ o with armed := [] }, s.ni.fireSeq)

/-- Every armed record of a die that names the counter is held against its value (RECORD_FIRE). -/
def evalCounter (d off : Nat) (s : State) : State :=
  let (occs, seq) := s.ni.occs.foldl (fun (acc : List Occ × Nat) o =>
    if o.die = d then
      let (o', n) := { s with ni := { s.ni with fireSeq := acc.2 } }.fireRecords o (some off)
      (acc.1 ++ [o'], n)
    else (acc.1 ++ [o], acc.2)) ([], s.ni.fireSeq)
  { s with ni := { s.ni with occs := occs, fireSeq := seq } }

/-- An NI addition to a counter: an atomic addition modulo 2^32, then the triggers that name the counter. -/
def counterAdd (d off v : Nat) (s : State) : State :=
  let a := sharedAddr d off
  (s.wrNat a 4 ((s.rdNat a 4 + v) % 2 ^ 32)).evalCounter d off

/-- A guard mismatch met by an NI (R321, R328, R380). -/
def niGuard (d : Nat) (h : W32) (struct index record : Nat) (key : W32) (s : State) : State :=
  ((s.recordFault (Regs.niFault d) (0x8010 + record % 4096 * 2 ^ 16 + key.toNat * 2 ^ 32)).logGuard (0x300 + d) h struct index).quenchJob
    h 0x8010

/-- A fault of an NI: the FAULT register of its die keeps the first, and the job is quenched (R343, R345). -/
def niHalt (d : Nat) (h : W32) (code : W16) (index : Nat) (key : W32) (s : State) : State :=
  ((s.recordFault (Regs.niFault d) (code.toNat + index % 4096 * 2 ^ 16 + key.toNat * 2 ^ 32)).log code (0x300 + d) h
    (key.zeroExtend 64)).quenchJob h code

/-- An arrival, ADD, JOIN, GONE or DONE addition to a counter of die `d` (R320): within the job's storage (R135), not subject to
ownership, and held while the counter's bank becomes ON (R145, R147). A counter that is no aligned word of the store raises
NI_BAD_RECORD (DEDUCED from R328, log 42). -/
def addCounter (x : CtrAdd) (s : State) : State :=
  match s.findJob x.job with
  | none => s
  | some j =>
    if 0x8000000 ≤ x.off then s.niHalt x.die x.job 0x3102 x.index x.key
    else if x.off % 4 ≠ 0 then s.niHalt x.die x.job 0x4401 x.index x.key
    else
      let a := sharedAddr x.die x.off
      match s.access j ⟨4, x.die⟩ true false a 4 with
      | .bad c => (s.accessFault c a ⟨4, x.die⟩).niHalt x.die x.job c x.index x.key
      | .wait => ({ s with ni := { s.ni with adds := s.ni.adds ++ [x] } }).wakeFor a
      | .ok => s.counterAdd x.die x.off x.value

end State
end Sys2Proof.Machine
end

