-- ==== Sys2Proof/Machine/Trace.lean ====
section
/-! DEFINITION. Sillage records (R510 to R512): what a sample, a traced command and a MARK write into the
ring. -/

namespace Sys2Proof.Machine
namespace State

def silSize (s : State) : Nat := 2 ^ s.field Regs.silCfg 4 0

/-- Whether an extent of `n` bytes at the ring's or buffer's address obeys the placement rules of R511. -/
def placementOk (s : State) (dest tag a n : Nat) : Bool :=
  if dest = 0 then s.regionAcc tag false true a n == .ok
    && (match s.regionOf a n with | some i => s.field (Regs.rgnLo i) 3 1 == 0 | none => false)
  else if dest = 1 ∨ dest = 2 then
    match placeOf a with
    | .host p o => p + 1 == dest && (s.port p).up && !(s.port p).departed && decide (o + n ≤ 2 ^ 44)
    | _ => false
  else false

/-- The data-bearing fields of a record are redacted where it lies in the window of a port that does not own
the job (R516). -/
def redacts (s : State) (dest : Nat) (h : W32) : Bool :=
  if dest = 0 then false else
  match s.findJob h with
  | some j => !s.ownsPort (dest - 1) j.port
  | none => false

/-- Sillage writes to stacked memory travel as class 3 writes and appear in its channel's counters (R511). -/
def silCount (dest a : Nat) (s : State) : State :=
  match placeOf a with
  | .stack st o => if dest = 0 then s.bump (Regs.obsChannel st (channelOf o) 2) 1 else s
  | _ => s

/-- The bytes of a Sillage record (R510). -/
def silBytes (s : State) (type thread unit : Nat) (st : TSt) (cmd : Nat) (h : W32) (value seq : Nat) : List Byte :=
  leBytes 1 type ++ leBytes 1 thread ++ leBytes 2 unit ++ leBytes 1 st.code ++ leBytes 1 st.reason ++ leBytes 2 0
    ++ leBytes 4 cmd ++ leBytes 4 h.toNat ++ leBytes 8 s.beat.pos.toNat ++ leBytes 4 value ++ leBytes 4 seq

/-- Put one record into the ring, with the record number of its die; a write that fails its check stops Sillage
and raises nothing (R511). -/
def silPut (die : Nat) (mk : Nat → List Byte) (s : State) : State :=
  let wr := s.regNat Regs.silWr
  let a := s.regNat Regs.silBase + 32 * (wr % s.silSize)
  let seq := mget s.obs.silSeq die 0
  if s.placementOk (s.field Regs.silCfg 6 5) (s.field Regs.silCfg 31 16) a 32 then
    let s := ((s.save a (mk (seq % 2 ^ 32))).setRegNat Regs.silWr ((wr + 1) % 2 ^ 32)).silCount (s.field Regs.silCfg 6 5) a
    { s with obs := { s.obs with silSeq := mset s.obs.silSeq die (seq + 1) } }
  else (s.setField Regs.silCtrl 0 0 0).setField Regs.silCtrl 1 1 1

def silFull (s : State) : Bool := (s.regNat Regs.silWr + 2 ^ 32 - s.regNat Regs.silRd) % 2 ^ 32 == s.silSize

/-- Write a record while Sillage runs: dropped and counted while the ring is full; once space returns an
OVERFLOW record carries the count first (R511). -/
def silRecord (die type thread unit : Nat) (st : TSt) (cmd : Nat) (h : W32) (value : Nat) (s : State) : State :=
  if !s.flag Regs.silCtrl 0 then s
  else if s.silFull then
    let s := s.setRegNat Regs.silDrop ((s.regNat Regs.silDrop + 1) % 2 ^ 32)
    { s with obs := { s.obs with silDropped := s.obs.silDropped + 1 } }
  else
    let s := if s.obs.silDropped = 0 then s else
      let n := s.obs.silDropped
      let s := s.silPut die (fun q => s.silBytes 5 0 0 .ready 0 0 n q)
      { s with obs := { s.obs with silDropped := 0 } }
    if s.silFull then
      let s := s.setRegNat Regs.silDrop ((s.regNat Regs.silDrop + 1) % 2 ^ 32)
      { s with obs := { s.obs with silDropped := 1 } }
    else
      let v := if s.redacts (s.field Regs.silCfg 6 5) h then 0 else value
      s.silPut die (fun q => s.silBytes type thread unit st cmd h v q)

/-- A record of a thread at its current command. -/
def silThread (k type value : Nat) (s : State) : State :=
  let t := s.thread k
  s.silRecord (keyDie k) type (keyIndex k) (keyUnit k) t.st (t.pc / 32) t.job value

/-- The units that Sillage samples (R510): tiles, solver engines and update units by their UNIT codes. -/
def silUnits (s : State) (tilesOnly : Bool) : List Nat :=
  if !s.flag Regs.silCtrl 0 then [] else
  (List.range 256).filter (fun t => s.flag (Regs.silTiles (t / 64)) (t % 64))
    ++ (if tilesOnly then [] else
      (if s.flag Regs.silCtrl 2 then (List.range 16).map (fun e => 0x100 + e) else [])
        ++ (if s.flag Regs.silCtrl 3 then (List.range 8).map (fun u => 0x200 + u) else []))

/-- Clocks stop: the units that were being sampled pause, and each owes a GAP record (R512). -/
def pauseUnits (tilesOnly : Bool) (s : State) : State :=
  { s with obs := { s.obs with paused := (s.obs.paused ++ s.silUnits tilesOnly).eraseDups } }

end State
end Sys2Proof.Machine
end

