-- ==== Sys2Proof/Machine/Thread.lean ====
section
/-! DEFINITION. Threads and the common commands (spec/03_command_lists.md, R60 to R83): the checks of a fetched
command, the list caches, loops, waits, signals and marks. -/

namespace Sys2Proof.Machine

/-- OPCODEs that an ENGINE defines (R73, R84 and the command tables of the engines' chapters). -/
def opDefined (eng op : Nat) : Bool :=
  match eng with
  | 0 => decide (op ≤ 0x0C)
  | 1 | 2 | 5 => decide (0x20 ≤ op) && decide (op ≤ 0x24)
  | 3 => op == 0x20 || op == 0x38 || op == 0x39
  | 4 => decide (0x20 ≤ op) && decide (op ≤ 0x22)
  | _ => false

/-- The OPCODE fetched: the row's, or one that ENGINE does not define. -/
def fetchedOp (op : Nat) (h : CmdHead) : Nat :=
  match h.badOp with
  | some o => if opDefined h.engine.toNat o.toNat then op else o.toNat
  | none => op

/-- The HEADER word of a fetched command (R67). -/
def headerWord (op : Nat) (h : CmdHead) : W32 :=
  BitVec.ofNat 32 (fetchedOp op h + h.engine.toNat * 2 ^ 8 + h.rsv11.toNat * 2 ^ 11 + h.seq.toNat * 2 ^ 12
    + (if h.trace then 2 ^ 16 else 0) + h.rsvHi.toNat * 2 ^ 17)

/-- The first check of R68 that a fetched command fails: guard, ENGINE and OPCODE, SEQ against the command's
byte offset in the image, then reserved fields and the ranges of the body. -/
def headCode (op eng : Nat) (t : ThreadId) (h : CmdHead) (pc : Nat) (fieldsOk : Bool) : Option W16 :=
  if h.nhdr ≠ ~~~(headerWord op h) then some 0x8010
  else if h.engine.toNat ≠ eng ∨ (eng ≠ 0 ∧ eng ≠ t.engine) ∨ fetchedOp op h ≠ op then some 0x1110
  else if h.seq.toNat ≠ pc / 32 % 16 then some 0x1112
  else if h.rsv11 ≠ 0 ∨ h.rsvHi ≠ 0 ∨ h.bodyRsv ∨ !fieldsOk then some 0x1113
  else none

/-- List cache that serves a thread: the tile's, the solver engine's or the update unit's (R60). -/
def listCache (k : Nat) : Nat := if k < 7168 then k / 28 else if k < 7200 then 256 + (k - 7168) / 2 else 272 + (k - 7200) / 4
def listCapacity (c : Nat) : Nat := if c < 256 then 256 else 64

/-- Close the loops whose body ends at `pc` (R80): another iteration with the stride added, or the exit with
the base restored. -/
def closeLoops (loops : List LoopRec) (pc : Nat) (bases : List (BitVec 48)) :
    List LoopRec × Nat × List (BitVec 48) :=
  match loops with
  | [] => ([], pc, bases)
  | l :: r =>
    if pc = l.first + 32 * l.body then
      if 1 < l.remaining then
        let b := (bases.getD (l.baseSel - 1) 0) + l.stride.signExtend 48
        ({ l with remaining := l.remaining - 1 } :: r, l.first, if l.baseSel = 0 then bases else bases.set (l.baseSel - 1) b)
      else closeLoops r pc (if l.baseSel = 0 then bases else bases.set (l.baseSel - 1) l.saved)
    else (l :: r, pc, bases)

def stepThread (n : Nat) (t : Thread) : Thread :=
  let (loops, pc, bases) := closeLoops t.loops (t.pc + 32 * n) t.bases
  { t with loops := loops, pc := pc, bases := bases }

/-- Lines that the loops of a thread pin: bodies of at most 8 lines, inner loops first (R72). -/
def pinnedLines (base : Nat) (loops : List LoopRec) : List Nat :=
  loops.foldl (fun acc l =>
    let first := (base + l.first) / 256
    let n := (base + l.first + 32 * l.body - 1) / 256 + 1 - first
    let all := (acc ++ (List.range n).map (fun i => first + i)).eraseDups
    if n ≤ 8 ∧ all.length ≤ 8 then all else acc) []

namespace State

/-- Line of the program image, as its module address ÷ 256, that a thread's next command lies in. -/
def listLine (s : State) (k : Nat) : Nat :=
  let t := s.thread k
  match s.findJob t.job with
  | some j => (j.image.base + t.pc) / 256
  | none => 0

/-- A line enters a list cache; past the capacity the least recently used line that is not pinned leaves
(R71, R72). -/
def fillLine (c line : Nat) (s : State) : State :=
  let ls := line :: (mget s.store.listLines c []).filter (fun x => x != line)
  let pins := (s.store.pinned.filter (fun x => listCache x.1 == c)).foldl (fun acc x => acc ++ x.2) []
  let ls := if ls.length ≤ listCapacity c then ls else
    match ls.reverse.find? (fun x => x != line && !pins.contains x) with
    | some v => ls.filter (fun x => x != v)
    | none => ls
  { s with store := { s.store with listLines := mset s.store.listLines c ls } }

/-- The thread behind the command at its pc, as the list itself shows: past a LINK, into a LOOP, past the last command
of a loop body; none at END (R71). A SKIP_IF_FLAG is read as not taken. -/
def pathNext (s : State) (base : Nat) (t : Thread) : Option Thread :=
  let a := base + t.pc
  let n := fun o k => s.rdNat (a + o) k
  if bits (n 0 4) 10 8 ≠ 0 then some (stepThread 1 t)
  else match n 0 1 with
    | 0x01 => none
    | 0x0B => some { t with pc := n 8 4, loops := [] }
    | 0x0A => some (stepThread 1 { t with loops := ⟨t.pc + 32, n 12 2, n 8 4, n 8 4, 0, 0, 0⟩ :: t.loops })
    | _ => some (stepThread 1 t)

/-- The first three lines on a thread's path: its current line and the 2 fetched ahead, following LINK and loop targets
(R71). -/
def pathLines (fuel : Nat) (s : State) (base bytes : Nat) (t : Thread) (acc : List Nat) : List Nat :=
  match fuel with
  | 0 => acc
  | f + 1 =>
    let line := (base + t.pc) / 256
    if bytes < t.pc + 32 ∨ (3 ≤ acc.length ∧ !acc.contains line) then acc
    else
      let acc := if acc.contains line then acc else acc ++ [line]
      match s.pathNext base t with
      | some u => s.pathLines f base bytes u acc
      | none => acc

def aheadLines (s : State) (k : Nat) : List Nat :=
  let t := s.thread k
  match s.findJob t.job with
  | some j => s.pathLines 40 j.image.base j.image.bytes t []
  | none => []

/-- Class 1 reads go out for the lines on a thread's path that its list cache lacks (R71, R158). -/
def fetchLines (k : Nat) (s : State) : State :=
  let c := listCache k
  (s.aheadLines k).foldl (fun st line =>
    if (mget st.store.listLines c []).contains line
        || !(st.reqsOut (fun r => r.thread == listRequester c && r.addr == line * 256)).isEmpty then st
    else st.traffic (listRequester c) (s.thread k).job 1 false (line * 256) 256) s

/-- The lines that the thread's loops pin (R72). -/
def pinLines (k : Nat) (s : State) : State :=
  let base := match s.findJob (s.thread k).job with | some j => j.image.base | none => 0
  { s with store := { s.store with pinned := mset s.store.pinned k (pinnedLines base (s.thread k).loops) } }

/-- A thread goes on with its next command: READY where the line is in its list cache, else WAIT_LIST (R62). -/
def fetchNext (k : Nat) (s : State) : State :=
  let c := listCache k
  let line := s.listLine k
  let s := s.pinLines k
  if (mget s.store.listLines c []).contains line then
    ((s.fillLine c line).mapThread k (fun t => { t with st := .ready })).fetchLines k
  else (s.mapThread k (fun t => { t with st := .waitList })).fetchLines k

/-- The thread has commands that are not complete: a transfer under way, requests outstanding or not issued, an OS
drain or a fused step, a solver operation, or update blocks under way (R64, R73, R77). -/
def busy (s : State) (k : Nat) : Bool :=
  let t := s.thread k
  decide (t.outstanding ≠ 0) || !t.unissued.isEmpty || t.copy.isSome
    || (match mfind s.matrix.osDrain (k / 28) with | some d => d.thread == k | none => false)
    || s.matrix.fused.any (fun f => f.thread == k)
    || (decide (7168 ≤ k) && decide (k < 7200) &&
        (match mfind s.solver.engines ((k - 7168) / 2) with
          | some e => (match e.op with | some o => o.thread == (k - 7168) % 2 | none => false)
          | none => false))
    || s.upd.inflight.any (fun x => x.1 == k)

/-- A transfer thread cannot issue: its transfer is under way, 16 requests are outstanding, or one waits to be
accepted (R87, R163). -/
def stalled (s : State) (k : Nat) : Bool :=
  let t := s.thread k
  t.copy.isSome || !t.unissued.isEmpty || decide (16 ≤ t.outstanding)
    || s.stk.waiting.any (fun c => c.2.any (fun r => r.thread == k))

/-- A thread that waits for its own earlier commands, or for its requests, goes on once they are complete; a transfer
thread goes on once it can issue. -/
def wakeIdle (k : Nat) (s : State) : State :=
  let t := s.thread k
  if t.markAt.isNone ∧ ((t.st = .waitOrder ∧ !s.busy k)
      ∨ (t.st = .waitData ∧ !(if keyEngine k = 3 then s.stalled k else s.busy k))) then
    s.fetchNext k else s

/-- A record of a thread at a command behind its pc. -/
def silAt (k type pc : Nat) (s : State) : State :=
  let t := s.thread k
  s.silRecord (keyDie k) type (keyIndex k) (keyUnit k) t.st (pc / 32) t.job 0

/-- `n` commands on. -/
def advance (k n : Nat) (s : State) : State := (s.mapThread k (stepThread n)).fetchNext k

/-- Complete the command at the thread's pc: its ISSUE and COMPLETE records where TRACE is 1 (R67), then `n`
commands on. -/
def finish (t : ThreadId) (h : CmdHead) (n : Nat) (s : State) : State :=
  (if h.trace then (s.silThread t.key 2 0).silThread t.key 3 0 else s).advance t.key n

/-- The same for a command whose results land later: its COMPLETE record comes then (R67). -/
def finishIssue (t : ThreadId) (h : CmdHead) (n : Nat) (s : State) : State :=
  (if h.trace then s.silThread t.key 2 0 else s).advance t.key n

/-- The end of a command whose conversions counted `nan` NaNs: NUMERIC_TRAP halts its thread at it (R118). -/
def finishNan (t : ThreadId) (h : CmdHead) (job : W32) (nan : Nat) (later : Bool) (s : State) : State :=
  if s.traps job nan then s.trapCheck t job nan else if later then s.finishIssue t h 1 else s.finish t h 1

/-- A WAIT or WAIT_BEAT starts to wait: its ISSUE record, and what its end needs (R67). -/
def beginWait (t : ThreadId) (h : CmdHead) (f : Thread → Thread) (s : State) : State :=
  (if h.trace then s.silThread t.key 2 0 else s).mapThread t.key (fun x => f { x with traced := h.trace })

/-- It ends: its COMPLETE record, then the next command. -/
def endWait (k n : Nat) (s : State) : State :=
  let s := if (s.thread k).traced then s.silThread k 3 0 else s
  (s.mapThread k (fun x => { x with traced := false })).advance k n

/-- Threads start commands in Run, tile threads only while no SUPPLY_WARN hold stops their clocks (R424, R434). -/
def issues (s : State) (t : ThreadId) : Bool :=
  s.power.st == 0 && (match t with | .tile _ _ => !s.power.warn | _ => true)

/-! ### What the part's circuits show while a command runs (R140, R148) -/

def upsetTile (a : Nat) : Option Nat :=
  match placeOf a with | .scratch t _ => some t | .tbuf t _ => some t | _ => none

/-- An upset before the command acts. Answers a code where it stops the command, and whether the command runs. -/
def beforeUpset (t : ThreadId) (h : W32) (x : Option W16 × Bool × State) (u : Upset) : Option W16 × Bool × State :=
  let (code, runs, s) := x
  match u with
  | .word a double =>
    let w := plainAddr a.toNat / 8 * 8
    match placeOf w with
    | .scratch _ _ | .tbuf _ _ | .shared _ _ | .staging _ _ =>
      if double then (code, runs, { s with store := { s.store with poison := w :: s.store.poison.filter (fun y => y != w) } })
      else (code, runs, s.onchipCorrected (upsetTile w) t.die h)
    | _ => x
  | .line a =>
    match t with
    | .tile n _ =>
      match (mget s.store.dcache n.val []).find? (fun l => l.addr == a.toNat / 64 * 64) with
      | some l =>
        if l.dirty = 0 then
          (code, runs, (s.setCache n.val ((mget s.store.dcache n.val []).filter (fun y => y.addr != l.addr))).onchipCorrected (some n.val) t.die h)
        else (some 0x3112, runs, s)
      | none => x
    | _ => x
  | .listLine =>
    let c := listCache t.key
    let line := s.listLine t.key
    let tile := match t with | .tile n _ => some n.val | _ => none
    (code, false, { s with store := { s.store with
      listLines := mset s.store.listLines c ((mget s.store.listLines c []).filter (fun y => y != line)) } }.onchipCorrected tile t.die h)
  | .collide a writes other _ =>
    if windowOf a.toNat ≠ 0 ∨ !(writes || other) then x
    else (code, runs, s.count 0x3105 t.die h 1)

/-- A command's access that collides: a read of the word returns undefined data while the other access writes; of two
writes exactly one lands, and which is a free bit (R140). The word itself keeps what the other access left. -/
def collided (f : State → State) (u : Upset) (s : State) : State :=
  match u with
  | .collide a writes other _ =>
    let w := plainAddr a.toNat / 8 * 8
    if windowOf a.toNat ≠ 0 ∨ !other ∨ (bankOf (placeOf w)).isNone then f s
    else
      let old := s.rd w 8
      if writes then
        let u := f s.tick
        if Config.freeBit s.freeCtr 0 then u else u.wr w old
      else
        let free := (List.range 8).map (Config.freeByte s.freeCtr)
        let u := f ((s.wr w free).tick)
        if u.rd w 8 = free then u.wr w old else u
  | _ => f s

/-- An access of the command received BUSY: it was the later one (R140). -/
def busyUpset (h : CmdHead) : Bool :=
  h.upsets.any (fun u => match u with | .collide a w o later => later && (w || o) && windowOf a.toNat == 0 | _ => false)

/-- Run a command under its upsets. -/
def underUpsets (t : ThreadId) (j : W32) (us : List Upset) (f : State → State) (s : State) : State :=
  match us.foldl (beforeUpset t j) (none, true, s) with
  | (some c, _, s) => s.haltThread t c
  | (none, false, s) => s.fetchNext t.key
  | (none, true, s) => us.foldl (fun (g : State → State) u => fun x => x.collided g u) f s

/-- Issue a command: a READY thread of a running job checks it under R68 and runs it, or halts. -/
def issue (t : ThreadId) (op eng : Nat) (h : CmdHead) (fieldsOk : Bool) (f : Thread → Job → State → State)
    (s : State) : State :=
  let th := s.thread t.key
  if th.st ≠ .ready then s
  else
    match s.findJob th.job with
    | none => s
    | some j =>
      if j.st ≠ .running ∨ !s.issues t then s
      else
        match headCode op eng t h th.pc fieldsOk with
        | some c => s.haltThread t c
        | none => s.underUpsets t j.handle h.upsets (f th j)

/-- The thread waits in a state until an event frees it; the command is issued again then. -/
def hold (t : ThreadId) (st : TSt) (s : State) : State := s.mapThread t.key (fun x => { x with st := st })

/-! ### NOP, FENCE, ACQUIRE, RELEASE (R73, R83) -/

def nopEff (t : ThreadId) (h : CmdHead) (s : State) : State :=
  s.issue t 0x00 0 h true (fun _ _ s => s.finish t h 1)

def fenceEff (t : ThreadId) (h : CmdHead) (s : State) : State :=
  s.issue t 0x09 0 h true (fun _ _ s => if s.busy t.key then s.hold t .waitOrder else s.finish t h 1)

/-- A range command on the data cache: the whole cache for LENGTH 0, else a range of the job's storage. RELEASE
completes when every write is acknowledged (R83). Solver engines and update units take it as FENCE. -/
def rangeEff (t : ThreadId) (op : Nat) (h : CmdHead) (addr : W64) (len : Nat)
    (act : Nat → Nat → Nat → State → State) (s : State) : State :=
  s.issue t op 0 h (bits addr.toNat 63 52 == 0) (fun th j s =>
    match resolveAddr t th.bases addr with
    | none => s.haltThread t 0x1113
    | some a =>
      match t with
      | .tile tile _ =>
        if op = 0x08 ∧ s.busy t.key then s.hold t .waitOrder
        else
          match if len = 0 then Acc.ok else s.jobPlace j (placeOf a) with
          | .bad c => s.haltAccess t c a
          | _ =>
            let s := act tile.val a len s
            if op = 0x08 ∧ s.busy t.key then s.hold t .waitOrder else s.finish t h 1
      | _ => if s.busy t.key then s.hold t .waitOrder else s.finish t h 1)

def acquireEff (t : ThreadId) (h : CmdHead) (addr : W64) (len : Nat) (s : State) : State :=
  s.rangeEff t 0x07 h addr len (fun tile a n s => s.cacheInvalidate t.key tile a n)

def releaseEff (t : ThreadId) (h : CmdHead) (addr : W64) (len : Nat) (s : State) : State :=
  s.rangeEff t 0x08 h addr len (fun tile a n s => s.cacheClean t.key tile a n)

/-! ### Flag words (R73 to R76, R79) -/

/-- The condition of a COND byte on the bits under MASK (R73). -/
def condHolds (cond : BitVec 8) (mask w : W32) : Bool :=
  match bits cond.toNat 1 0 with
  | 0 => w &&& mask == mask
  | 1 => w &&& mask != 0
  | 2 => w &&& mask == 0
  | _ => w &&& mask != mask

/-- The lowest set bit of a word. -/
def lowestBit (w : W32) : W32 := w &&& (0 - w)

/-- What CONSUME leaves of the word (R74). -/
def consumed (cond : BitVec 8) (mask w : W32) : W32 :=
  if !bit cond.toNat 2 then w
  else if bits cond.toNat 1 0 = 0 then w &&& ~~~mask
  else w &&& ~~~(lowestBit (w &&& mask))

/-- The flag word must lie in the thread's own scratchpad or in its own die's shared store, aligned (R74). -/
def flagPlaceOk (t : ThreadId) (a : Nat) : Bool :=
  a % 4 == 0 && (match placeOf a, t with
    | .scratch x _, .tile n _ => x == n.val
    | .shared d _, _ => d == t.die
    | _, _ => false)

def flagWord (s : State) (a : Nat) : W32 := BitVec.ofNat 32 (s.rdNat (plainAddr a) 4)

/-- A word in the tile's data cache that the tile writes without its cache: its lines leave, written back (R143). -/
def dropOwn (t : ThreadId) (a : Nat) (s : State) : State :=
  match t with
  | .tile tile _ => if cacheable a then s.cacheInvalidate t.key tile.val a 4 else s
  | _ => s

/-- A WAIT is satisfied: consume, and go on (R74). Under ACQ the whole data cache is acquired first; on a solver or
update thread that ACQUIRE is a FENCE, which holds the next command (R83). -/
def waitDone (t : ThreadId) (h : Option CmdHead) (w : WaitRec) (s : State) : State :=
  let v := s.flagWord w.addr
  let s := if bit w.cond.toNat 2 then (s.dropOwn t w.addr).wrNat (plainAddr w.addr) 4 (consumed w.cond w.mask v).toNat else s
  let acq := bit w.cond.toNat 4
  let s := match t with
    | .tile tile _ => if acq then s.cacheInvalidate t.key tile.val 0 0 else s
    | _ => s
  let s := { s with store := { s.store with watch := s.store.watch.map (fun (c : Nat × List Nat) => (c.1, c.2.filter (fun k => k != t.key))) } }
  let s := s.mapThread t.key (fun x => { x with wait := none })
  let s := match h with
    | some h => s.finish t h 1
    | none => s.endWait t.key 1
  if acq && (t.engine = 4 || t.engine = 5) && s.busy t.key then s.hold t .waitOrder else s

/-- A waiter takes an entry of its bank's watch table while one of the 16 is free (R75). -/
def watchWord (k a : Nat) (s : State) : State :=
  match placeOf a with
  | .shared d o =>
    let b := 4096 + d * 64 + o / 0x200000
    let l := mget s.store.watch b []
    if l.length < 16 ∧ !l.contains k then { s with store := { s.store with watch := mset s.store.watch b (l ++ [k]) } } else s
  | _ => s

/-- The waiter is told of a satisfying write: a scratchpad word always, a shared-store word by its entry. -/
def isWatched (s : State) (k a : Nat) : Bool :=
  match placeOf a with
  | .shared d o => (mget s.store.watch (4096 + d * 64 + o / 0x200000) []).contains k
  | _ => true

def waitEff (t : ThreadId) (h : CmdHead) (addr : W64) (mask : W32) (cond : BitVec 8) (limit : Nat) (s : State) : State :=
  s.issue t 0x02 0 h (bits addr.toNat 63 52 == 0 && bits cond.toNat 7 5 == 0) (fun th j s =>
    match resolveAddr t th.bases addr with
    | none => s.haltThread t 0x1113
    | some a =>
      if !flagPlaceOk t a ∨ (bit cond.toNat 2 ∧ 2 ≤ bits cond.toNat 1 0) then s.haltThread t 0x1113
      else
        match s.pieceAcc j (whoOf t) false false a 4 with
        | .bad c => s.haltAccess t c a
        | .wait => (s.wakeFor a).hold t .waitData
        | .ok =>
          let w : WaitRec := ⟨a, mask, cond, if limit = 0 then none else some (s.beat.pos.toNat + limit * 65536)⟩
          if condHolds cond mask (s.flagWord a) then s.waitDone t (some h) w
          else
            (s.beginWait t h (fun x => { x with
              wait := some w, st := if bit cond.toNat 3 then .waitExt else .waitEvent })).watchWord t.key a)

/-- A write to the word is complete and the waiter's condition holds (WAIT_WAKE), or a waiter without a watch
entry re-reads its word (WATCH_POLL): R75. -/
def wakeEff (polled : Bool) (t : ThreadId) (s : State) : State :=
  let th := s.thread t.key
  match th.wait with
  | none => s
  | some w =>
    if (th.st = .waitEvent ∨ th.st = .waitExt) ∧ s.isWatched t.key w.addr ≠ polled
        ∧ condHolds w.cond w.mask (s.flagWord w.addr) then s.waitDone t none w
    else s

def eventLimitEff (t : ThreadId) (s : State) : State :=
  let th := s.thread t.key
  match th.wait with
  | none => s
  | some w =>
    match w.limit with
    | none => s
    | some p =>
      if (th.st = .waitEvent ∨ th.st = .waitExt) ∧ p ≤ s.beat.pos.toNat
          ∧ !condHolds w.cond w.mask (s.flagWord w.addr) then s.haltThread t 0x1120
      else s

def skipEff (t : ThreadId) (h : CmdHead) (addr : W64) (mask : W32) (cond count : BitVec 8) (s : State) : State :=
  s.issue t 0x05 0 h (bits addr.toNat 63 52 == 0 && bits cond.toNat 7 2 == 0 && count != 0) (fun th j s =>
    if s.busy t.key then s.hold t .waitOrder
    else
      match resolveAddr t th.bases addr with
      | none => s.haltThread t 0x1113
      | some a =>
        if !flagPlaceOk t a then s.haltThread t 0x1113
        else
          match s.pieceAcc j (whoOf t) false false a 4 with
          | .bad c => s.haltAccess t c a
          | .wait => (s.wakeFor a).hold t .waitData
          | .ok => s.finish t h (if condHolds cond mask (s.flagWord a) then 1 + count.toNat else 1))

/-! ### SIGNAL (R77) -/

/-- Where a SIGNAL may act: an aligned word on chip that is not a tile buffer; a counter lies in a shared
store. -/
def signalPlaceOk (mode a : Nat) : Bool :=
  a % 4 == 0 && (match placeOf a with
    | .scratch _ _ => mode != 2
    | .staging _ _ => mode != 2
    | .shared _ _ => true
    | .badChip => true
    | _ => false)

def signalAct (a mode value : Nat) (s : State) : State :=
  if mode = 2 then
    match placeOf a with
    | .shared d o => s.counterAdd d o value
    | _ => s
  else
    let w := BitVec.ofNat 32 (s.loadNat (plainAddr a) 4)
    let v := BitVec.ofNat 32 value
    s.save (plainAddr a) (leBytes 4 (if mode = 0 then w ||| v else w &&& ~~~v).toNat)

def signalEff (t : ThreadId) (h : CmdHead) (addr : W64) (value : W32) (mode : BitVec 8) (s : State) : State :=
  s.issue t 0x03 0 h (bits addr.toNat 63 52 == 0 && decide (mode.toNat ≤ 2)) (fun th j s =>
    match resolveAddr t th.bases addr with
    | none => s.haltThread t 0x1113
    | some a =>
      if !signalPlaceOk mode.toNat a then s.haltThread t 0x1113
      else if s.busy t.key then s.hold t .waitOrder
      else
        match s.pieceAcc j (whoOf t) true false a 4 with
        | .bad c => s.haltAccess t c a
        | .wait => (s.wakeFor a).hold t .waitData
        | .ok =>
          let s := match t with | .tile tile _ => s.cacheClean t.key tile.val 0 0 | _ => s
          if s.busy t.key then s.hold t .waitOrder
          else ((s.dropOwn t a).signalAct a mode.toNat value.toNat).finish t h 1)

/-! ### WAIT_BEAT (R38, R78) -/

/-- The position that a short field names against the current count (R38). -/
def shortTarget (pos short : Nat) : Nat :=
  let c := pos / 65536
  let d := (short + 65536 - c % 65536) % 65536
  if 1 ≤ d ∧ d ≤ 32767 then (c + d) * 65536 else pos

def beatTargetOf (pos position form : Nat) : Nat :=
  if form = 0 then position else if form = 1 then shortTarget pos (position % 65536) else pos + position * 65536

def waitBeatEff (t : ThreadId) (h : CmdHead) (position : W64) (form : BitVec 8) (s : State) : State :=
  let ok := decide (form.toNat ≤ 2)
    && !(form == 1 && bits position.toNat 63 16 != 0) && !(form == 2 && bits position.toNat 63 32 != 0)
  s.issue t 0x04 0 h ok (fun _ _ s =>
    let target := beatTargetOf s.beat.pos.toNat position.toNat form.toNat
    if target ≤ s.beat.pos.toNat then s.finish t h 1
    else s.beginWait t h (fun x => { x with st := .waitBeat, beatTarget := some target }))

/-- The target of a WAIT_BEAT is reached; a UU_OPEN that waited for its NOT_BEFORE (R358) runs again. -/
def waitBeatEndEff (t : ThreadId) (s : State) : State :=
  let th := s.thread t.key
  match th.beatTarget with
  | none => s
  | some p =>
    if th.st = .waitBeat ∧ p ≤ s.beat.pos.toNat then
      let s := s.quietRestart (fun j => j.handle == th.job)
      if s.upd.waitBeat.contains t.key then
        ({ s with upd := { s.upd with waitBeat := s.upd.waitBeat.filter (fun k => k != t.key) } }.mapThread t.key
          (fun x => { x with beatTarget := none })).fetchNext t.key
      else (s.mapThread t.key (fun x => { x with beatTarget := none })).endWait t.key 1
    else s

/-! ### LOOP and LINK (R80, R81) -/

def loopEff (t : ThreadId) (h : CmdHead) (count : W32) (body : W16) (baseSel : BitVec 8) (stride : W32) (s : State) : State :=
  let th := s.thread t.key
  let ok := count != 0 && decide (1 ≤ body.toNat) && decide (body.toNat ≤ 4095) && decide (baseSel.toNat ≤ 13)
    && decide (th.loops.length < 4)
  s.issue t 0x0A 0 h ok (fun th _ s =>
    let l : LoopRec := ⟨th.pc + 32, body.toNat, count.toNat, count.toNat, baseSel.toNat, stride, th.bases.getD (baseSel.toNat - 1) 0⟩
    (s.mapThread t.key (fun x => { x with loops := l :: x.loops })).finish t h 1)

def linkEff (t : ThreadId) (h : CmdHead) (addr : W64) (s : State) : State :=
  let size := match s.findJob (s.thread t.key).job with | some j => j.image.bytes | none => 0
  s.issue t 0x0B 0 h (addr.toNat % 32 == 0 && decide (addr.toNat < size) && bits addr.toNat 63 30 == 0) (fun _ _ s =>
    let s := if h.trace then (s.silThread t.key 2 0).silThread t.key 3 0 else s
    (s.mapThread t.key (fun x => { x with pc := addr.toNat, loops := [] })).fetchNext t.key)

/-! ### MARK (R73, R452, R453) -/

/-- Every Enfleurage set of the job's tiles is EMPTY and no occurrence of it is started (R453). -/
def markClean (s : State) (j : Job) : Bool :=
  !(s.ni.occs.any (fun o => o.job == j.handle)) && s.enf.all (fun c => !(j.block.tiles.contains (c.1 / 2)) || c.2.st == .empty)

/-- The ROWCNT words of the job's tiles, by register offset (R452). -/
def rowCounts (s : State) (j : Job) : SMap W64 :=
  j.block.tiles.foldl (fun acc t => acc ++ (List.range 64).map (fun n => (Regs.enfCtx t n 1, s.reg (Regs.enfCtx t n 1)))) []

/-- The last thread reaches a replay mark: the records of R452 are kept, a segment has ended (R45, R51), and every
waiting thread goes on. -/
def completeMark (j : Job) (idx : Nat) (s : State) : State :=
  let pts := j.named.filterMap (fun k =>
    let t := s.thread k
    if t.markAt = some idx then
      let n := stepThread 1 t
      some (k, (n.pc, n.bases, n.loops))
    else none)
  let s := if s.markClean j then
      s.mapJob j.handle (fun x => { x with replay := some ⟨idx, pts, s.rowCounts j⟩ }) else s
  pts.foldl (fun st p => (st.mapThread p.1 (fun t => { t with markAt := none })).endWait p.1 1) (s.segmentEnd j.handle)

def markEff (t : ThreadId) (h : CmdHead) (value : W32) (s : State) : State :=
  s.issue t 0x0C 0 h true (fun _ j s =>
    if !bit value.toNat 31 then (s.silThread t.key 4 value.toNat).finish t h 1
    else if s.busy t.key then s.hold t .waitOrder
    else
      let s := s.silThread t.key 4 value.toNat
      let idx := value.toNat % 2 ^ 31
      if j.named.any (fun k => match (s.thread k).markAt with | some i => i != idx | none => false) then s.haltThread t 0x8024
      else
        let s := s.beginWait t h (fun x => { x with st := .waitOrder, markAt := some idx })
        if j.named.all (fun k => (s.thread k).markAt == some idx || (s.thread k).st == .done) then s.completeMark j idx else s)

/-- A thread that becomes DONE may be the last that a replay mark waits for (R452). -/
def markBarrier (j : Job) (s : State) : State :=
  match (j.named.filterMap (fun k => (s.thread k).markAt)).head? with
  | none => s
  | some idx =>
    if j.named.all (fun k => (s.thread k).markAt == some idx || (s.thread k).st == .done) then s.completeMark j idx else s

/-- END (R73): the thread is DONE once its earlier commands are complete. DEDUCED (log 85): until then it is in
WAIT_DATA, the state of R62 for what has not returned. -/
def endEff (t : ThreadId) (h : CmdHead) (s : State) : State :=
  s.issue t 0x01 0 h true (fun th j s =>
    if s.matrix.chain.any (fun c => c.2.thread == t.key) then s.haltThread t 0x1133
    else if s.busy t.key then s.hold t .waitData
    else
      let s := if h.trace then (s.silThread t.key 2 0).silThread t.key 3 0 else s
      let s := s.mapThread t.key (fun x => { x with st := .done, loops := [], unissued := [] })
      (s.markBarrier j).checkComplete th.job)

/-! ### LIST_FILL (R71) -/

/-- A line on the thread's path, whose read is done, reaches the list cache; the threads of that cache that wait for it
become READY. -/
def listFillEff (t : ThreadId) (line : Nat) (s : State) : State :=
  let th := s.thread t.key
  match s.findJob th.job with
  | none => s
  | some j =>
    let c := listCache t.key
    let a := j.image.base + line * 256
    if th.st = .free ∨ th.st = .done ∨ th.st = .halted ∨ !j.live ∨ !(s.aheadLines t.key).contains (a / 256)
        ∨ !(s.reqsOut (fun r => r.thread == listRequester c && r.addr == a)).isEmpty then s
    else
      match (s.channelAcc a 256).andThen (if s.poisonStack a 256 then .bad 0x3211 else .ok) with
      | .bad c => if th.st = .waitList ∧ s.listLine t.key = a / 256 then (s.stackFault c a).haltThread t c else s
      | _ =>
        let s := s.fillLine c (a / 256)
        s.threads.foldl (fun st x =>
          if x.2.st = .waitList ∧ listCache x.1 = c ∧ st.listLine x.1 = a / 256 then
            st.mapThread x.1 (fun y => { y with st := .ready }) else st) s

end State

def execNop (t : ThreadId) (h : CmdHead) (s : State) : Host.Outcome State Fault Refusal := .next (s.nopEff t h)
def execEnd (t : ThreadId) (h : CmdHead) (s : State) : Host.Outcome State Fault Refusal := .next (s.endEff t h)
def execWait (t : ThreadId) (h : CmdHead) (addr : W64) (mask : W32) (cond : BitVec 8) (limit : W16) (s : State) :
    Host.Outcome State Fault Refusal := .next (s.waitEff t h addr mask cond limit.toNat)
def execWaitWake (t : ThreadId) (s : State) : Host.Outcome State Fault Refusal := .next (s.wakeEff false t)
def execWatchPoll (t : ThreadId) (s : State) : Host.Outcome State Fault Refusal := .next (s.wakeEff true t)
def execEventLimit (t : ThreadId) (s : State) : Host.Outcome State Fault Refusal := .next (s.eventLimitEff t)
def execSignal (t : ThreadId) (h : CmdHead) (addr : W64) (value : W32) (mode : BitVec 8) (s : State) :
    Host.Outcome State Fault Refusal := .next (s.signalEff t h addr value mode)
def execWaitBeat (t : ThreadId) (h : CmdHead) (position : W64) (form : BitVec 8) (s : State) :
    Host.Outcome State Fault Refusal := .next (s.waitBeatEff t h position form)
def execWaitBeatEnd (t : ThreadId) (s : State) : Host.Outcome State Fault Refusal := .next (s.waitBeatEndEff t)
def execSkipIfFlag (t : ThreadId) (h : CmdHead) (addr : W64) (mask : W32) (cond count : BitVec 8) (s : State) :
    Host.Outcome State Fault Refusal := .next (s.skipEff t h addr mask cond count)
def execAcquire (t : ThreadId) (h : CmdHead) (addr : W64) (length : W32) (s : State) :
    Host.Outcome State Fault Refusal := .next (s.acquireEff t h addr length.toNat)
def execRelease (t : ThreadId) (h : CmdHead) (addr : W64) (length : W32) (s : State) :
    Host.Outcome State Fault Refusal := .next (s.releaseEff t h addr length.toNat)
def execFence (t : ThreadId) (h : CmdHead) (s : State) : Host.Outcome State Fault Refusal := .next (s.fenceEff t h)
def execLoop (t : ThreadId) (h : CmdHead) (count : W32) (body : W16) (baseSel : BitVec 8) (stride : W32) (s : State) :
    Host.Outcome State Fault Refusal := .next (s.loopEff t h count body baseSel stride)
def execLink (t : ThreadId) (h : CmdHead) (addr : W64) (s : State) : Host.Outcome State Fault Refusal :=
  .next (s.linkEff t h addr)
def execMark (t : ThreadId) (h : CmdHead) (value : W32) (s : State) : Host.Outcome State Fault Refusal :=
  .next (s.markEff t h value)
def execListFill (t : ThreadId) (line : BitVec 22) (s : State) : Host.Outcome State Fault Refusal :=
  .next (s.listFillEff t line.toNat)

end Sys2Proof.Machine
end

