-- ==== Sys2Proof/Machine/EnfBase.lean ====
section
/-! DEFINITION. Enfleurage as the matrix engine meets it (spec/09_enfleurage.md): contexts and their checks (R236),
sampling (R238), sets (R243), capture and statistic steps (R239, R240), drains (R246) and the registers that
act when written (R237). -/

namespace Sys2Proof.Machine
open Sys2Proof.Num

/-- A context as a command reads it at issue (R252), for one side: 0 input, 1 output. -/
structure EnfCtx where
  n : Nat
  side : Nat
  valid : Bool
  b : Nat
  p : Nat
  q : Nat
  k : Nat
  phase : Nat
  layer : Nat
  first : Nat
  cap : Nat
  rowcnt : Nat
  fact : Nat
  hdr : Nat
  alpha : W32
  beta : W32
deriving DecidableEq, Repr

def EnfCtx.nb (c : EnfCtx) : Nat := c.b / 128
/-- Tile index of R244. -/
def EnfCtx.idx (c : EnfCtx) : Nat := c.p * c.nb - c.p * (c.p - 1) / 2 + (c.q - c.p)
def EnfCtx.capBytes (c : EnfCtx) (m : Nat) : Nat := if c.p = c.q then 256 * m else 512 * m
/-- Rows of a command that a context samples (R238). -/
def EnfCtx.sampled (c : EnfCtx) (m : Nat) : List Nat :=
  (List.range m).filter (fun i => (c.rowcnt + i) / c.b % c.k == c.phase)

def spansMeet (a n b m : Nat) : Bool := decide (a < b + m) && decide (b < a + n)

namespace State

def enfContext (s : State) (tile n side : Nat) : EnfCtx :=
  let a := s.regNat (Regs.enfCtx tile n 0)
  let c := s.regNat (Regs.enfCtx tile n 2)
  let d := s.regNat (Regs.enfCtx tile n 3)
  ⟨n, side, bit a 0, 256 * 2 ^ bits a 2 1, bits a 7 4, bits a 11 8, bits a 17 12 + 1, bits a 23 18, bits a 31 24,
    bits a 39 32, bits a 51 40, s.field (Regs.enfCtx tile n 1) 31 0, bits c 26 0, bits c 58 32,
    BitVec.ofNat 32 (bits d 31 0), BitVec.ofNat 32 (bits d 63 32)⟩

/-- The contexts that an ENF byte names (R235). -/
def enfNamed (s : State) (tile enf : Nat) : List EnfCtx :=
  let c := enf / 4
  match enf % 4 with
  | 0 => []
  | 1 => [s.enfContext tile c 0]
  | 2 => [s.enfContext tile c 1]
  | _ => [s.enfContext tile c 0, s.enfContext tile (c + 1) 1]

/-- A span of the die's shared store lies wholly in banks that the job owns. -/
def ownsSpan (j : Job) (d off n : Nat) : Bool :=
  decide (off + n ≤ 0x8000000) &&
    (List.range ((off + n - 1) / 0x200000 + 1 - off / 0x200000)).all (fun i => j.ownsBank d (off / 0x200000 + i))

/-- The checks of R236 on one context of a command with contraction K, M rows and D at this span. -/
def enfCtxOk (j : Job) (d k m dOff dLen : Nat) (c : EnfCtx) : Bool :=
  c.valid && decide (c.p ≤ c.q) && decide (c.q < c.nb) && decide (c.phase < c.k)
    && decide ((c.first + c.q + 1) * 128 ≤ k) && c.fact % 64 == 0 && c.hdr % 64 == 0
    && ownsSpan j d c.fact (c.nb * (c.nb + 1) / 2 * 0x10000) && ownsSpan j d c.hdr 512
    && decide (c.cap * 64 + c.capBytes m ≤ 0x40000) && !spansMeet (c.cap * 64) (c.capBytes m) dOff dLen
    && (match fp32.decode c.alpha.toNat with | .fin neg x _ => !neg || x == 0 | _ => false)
    && (match fp32.decode c.beta.toNat with
        | .fin neg x e => (!neg || x == 0) && Dy.le ⟨x, e⟩ ⟨1, 0⟩
        | _ => false)

/-- R235 and R236 for a whole command: `fa` is A's format. -/
def enfOk (s : State) (j : Job) (tile enf k m dOff dLen fa : Nat) : Bool :=
  let cs := s.enfNamed tile enf
  if fa == 0 || fa == 0xB || fa == 0xA then enf == 0
  else (enf % 4 == 0) ||
    (!(enf % 4 == 3 && 62 < enf / 4)
      && cs.all (enfCtxOk j (tile / 64) k m dOff dLen)
      && (match cs with
          | [a, b] => !spansMeet (a.cap * 64) (a.capBytes m) (b.cap * 64) (b.capBytes m)
          | _ => true))

/-- The enable of a context's side (R248). -/
def enfEnabled (s : State) (tile : Nat) (c : EnfCtx) : Bool :=
  s.flag (Regs.layerEn tile (c.layer / 16)) (2 * (c.layer % 16) + c.side)

/-- The contexts that feed a command (R243). -/
def enfFeeds (s : State) (tile enf m : Nat) : List EnfCtx :=
  (s.enfNamed tile enf).filter (fun c => s.enfEnabled tile c && !(c.sampled m).isEmpty)

def enfDest (tile : Nat) (c : EnfCtx) : Nat := sharedAddr (tile / 64) (c.fact + c.idx * 0x10000)
def enfEpochOf (s : State) (tile : Nat) : Nat := s.field (Regs.enfEpoch tile) 15 0

/-- The set that is accumulating for a destination. -/
def setFor (s : State) (tile dest epoch : Nat) (h : W32) : Option Nat :=
  [0, 1].find? (fun i => match mfind s.enf (tile * 2 + i) with
    | some e => e.st == .accumulating && e.dest == dest && e.epoch == epoch && e.job == h
    | none => false)

def setEnf (tile i : Nat) (e : EnfSet) (s : State) : State := { s with enf := mset s.enf (tile * 2 + i) e }

/-- The set of a tile is EMPTY, draining, or accumulating for a destination that no feeding context has. -/
def setEmpty (s : State) (tile i : Nat) : Bool := (mfind s.enf (tile * 2 + i)).isNone
def setDrains (s : State) (tile i : Nat) : Bool :=
  match mfind s.enf (tile * 2 + i) with | some e => e.st == .draining | none => false
def setOther (s : State) (tile : Nat) (feeds : List EnfCtx) (i : Nat) : Bool :=
  match mfind s.enf (tile * 2 + i) with
  | some e => e.st == .accumulating && !(feeds.any (fun x => enfDest tile x == e.dest && s.enfEpochOf tile == e.epoch))
  | none => false

/-- The drain of a set starts, behind those that have started (R246). -/
def drainSet (tile i : Nat) (s : State) : State :=
  { s with
    enf := s.enf.map (fun x => if x.1 = tile * 2 + i then (x.1, { x.2 with st := .draining, order := s.matrix.drainSeq }) else x)
    matrix := { s.matrix with drainSeq := s.matrix.drainSeq + 1 } }

/-- No drain of an earlier arrival goes to the same stat tile: drains to one tile are whole, in order (R246). -/
def drainFirst (s : State) (e : EnfSet) : Bool :=
  s.enf.all (fun x => !(x.2.st == .draining && x.2.dest == e.dest && decide (x.2.order < e.order)))

/-- Feeding contexts that no set is accumulating for take an EMPTY one. -/
def takeSets (tile : Nat) (h : W32) (need : List EnfCtx) (s : State) : State :=
  need.foldl (fun st c =>
    match [0, 1].find? (fun i => st.setEmpty tile i) with
    | some i => st.setEnf tile i ⟨.accumulating, h, enfDest tile c, sharedAddr (tile / 64) c.hdr, c.idx, st.enfEpochOf tile, c.alpha,
        c.beta, 0, List.replicate 16384 0, 0⟩
    | none => st) s

/-- The contexts without those whose destination an earlier one has. -/
def firstOfDest (tile : Nat) (cs : List EnfCtx) : List EnfCtx :=
  cs.foldl (fun acc c => if acc.any (fun x => enfDest tile x == enfDest tile c) then acc else acc ++ [c]) []

/-- Assign sets to the feeding contexts (R243). A set of a destination that the command does not feed drains only
where too few sets are EMPTY or draining; which of two drains is open. Answers false where the command must wait. -/
def assignSets (tile : Nat) (h : W32) (feeds : List EnfCtx) (s : State) : State × Bool :=
  let need := (firstOfDest tile feeds).filter (fun c => (s.setFor tile (enfDest tile c) (s.enfEpochOf tile) h).isNone)
  let empty := ([0, 1].filter (fun i => s.setEmpty tile i)).length
  let coming := ([0, 1].filter (fun i => s.setDrains tile i)).length
  if need.length ≤ empty then (s.takeSets tile h need, true)
  else
    let order := if Config.freeBit s.freeCtr 0 then [1, 0] else [0, 1]
    let out := (order.filter (fun i => s.setOther tile feeds i)).take (need.length - empty - coming)
    (out.foldl (fun st i => st.drainSet tile i) s.tick, false)

/-- ROWCNT of every context that a command names moves on by M (R238). -/
def enfAdvance (tile m : Nat) (cs : List EnfCtx) (s : State) : State :=
  cs.foldl (fun st c => st.setRegNat (Regs.enfCtx tile c.n 1) ((c.rowcnt + m) % 2 ^ 32)) s

/-- Capture and statistic step of one context (R239, R240): `slice i k` gives the 128 elements of slice k of row i,
and `scale2` the factor s² of a per-tensor operand. Answers the NaNs that the capture of an 8-bit or MX operand counts
(R115). -/
def enfStep (tile m fa : Nat) (h : W32) (slice : Nat → Nat → List FVal) (scale2 : FVal) (c : EnfCtx) (s : State) : State × Nat :=
  let ff := if fa = 2 then fp16 else bf16
  let rows := c.sampled m
  let tok := s.freeCtr
  let enc := fun (sl : Nat) => rows.map (fun i => (slice (c.first + sl) i).map (fun v => ff.convert (.faithful (Config.freeBit tok i)) v))
  let put := fun (st : State) (part : Nat) (cap : List (List (Nat × Counted))) =>
    (List.range cap.length).foldl (fun st j =>
      st.save (tbufAddr tile (c.cap * 64 + part * 256 * m + 256 * j)) ((cap.getD j []).flatMap (fun x => leBytes 2 x.1))) st
  let cp := enc c.p
  let cq := enc c.q
  let s := put s 0 cp
  let s := if c.p = c.q then s else put s 1 cq
  let all := if c.p = c.q then cp else cp ++ cq
  let sat := (all.flatten.filter (fun x => x.2 == .saturated)).length
  let counts := fmtMx fa || fmtTensor fa
  let nan := if counts then (all.flatten.filter (fun x => x.2 == .nan)).length else 0
  let s := s.countNumeric (tile / 64) h (if counts then sat else 0) nan 0 0
  let vals := fun (cap : List (List (Nat × Counted))) => cap.map (fun r => r.map (fun x => ff.decode x.1))
  let vp := vals cp
  let vq := vals cq
  match s.setFor tile (enfDest tile c) (s.enfEpochOf tile) h with
  | none => (s, nan)
  | some i =>
    match mfind s.enf (tile * 2 + i) with
    | none => (s, nan)
    | some e =>
      let sums := (List.range 16384).map (fun x =>
        let a := x / 128
        let b := x % 128
        let terms := (List.range rows.length).map (fun r =>
          (mulVal ((vp.getD r []).getD a .zero) scale2, (vq.getD r []).getD b .zero))
        let v := dot tok (4 * x) (dotCoef false rows.length) rows.length terms
        if e.rows = 0 then v else accum tok (4 * x + 2) (e.sums.getD x 0) v)
      ((s.setEnf tile i { e with sums := sums, rows := e.rows + rows.length }).tick, nan)

/-! ### Drains (R246, R251) -/

/-- What the accesses of a drain meet (R246): the stat tile, read and written, then the header. A set whose job is gone meets
nothing. -/
def drainAcc (s : State) (tile : Nat) (e : EnfSet) : Acc :=
  let w : Who := ⟨1, tile⟩
  match s.findJob e.job with
  | some j => (s.access j w true false e.dest 65536).andThen ((s.access j w false false e.dest 65536).andThen
      (s.access j w true false e.hdr 512))
  | none => .ok

/-- The element that a drain leaves where the tile held `old` (R246); `fresh` in a new epoch. -/
def drainValue (tok x : Nat) (fresh : Bool) (e : EnfSet) (old : W32) : W32 :=
  let zero := match fp32.decode e.beta.toNat with | .fin _ 0 _ => true | _ => false
  let v := mul tok (6 * x) e.alpha (e.sums.getD x 0)
  if fresh then (if zero then v else accum tok (6 * x + 4) (mul tok (6 * x + 2) e.beta old) v)
  else accum tok (6 * x + 4) old v

/-- A drain lands: the decay rule on the stat tile and its header, then the set is EMPTY. One that meets a memory code
leaves unspecified values in the stat tile (R251). -/
def drainLandEff (tile i : Nat) (s : State) : State :=
  match mfind s.enf (tile * 2 + i) with
  | none => s
  | some e =>
    if e.st ≠ .draining ∨ !s.drainFirst e then s
    else
      let w : Who := ⟨1, tile⟩
      match s.drainAcc tile e with
      | .wait => s
      | acc =>
        let s := match acc with
          | .bad c =>
            let s := match s.findJob e.job with
              | some j => if s.access j w true false e.dest 65536 = Acc.ok then s.wrFree e.dest 65536 else s
              | none => s
            ((s.accessFault c e.dest w).recordFault (Regs.meFault tile) (c.toNat + 0xF * 2 ^ 18)).quenchJob e.job c
          | _ =>
            let tok := s.freeCtr
            let fresh := s.rdNat (e.hdr + 2 * e.idx) 2 != e.epoch
            let vals := (List.range 16384).map (fun x =>
              drainValue tok x fresh e (BitVec.ofNat 32 (s.rdNat (e.dest + 4 * x) 4)))
            let bad := vals.any (fun (v : W32) => !isFin32 v)
            let s := s.wr e.dest (vals.flatMap (fun (v : W32) => leBytes 4 v.toNat))
            let s := if fresh then s.wrNat (e.hdr + 2 * e.idx) 2 e.epoch else s
            let s := if e.idx = 0 then
                s.wrNat (e.hdr + 272) 8 (if fresh then e.rows else s.rdNat (e.hdr + 272) 8 + e.rows) else s
            let s := s.wrNat (e.hdr + 280) 4 (s.rdNat (e.hdr + 280) 4 + 1)
            let s := (s.clearPoison e.dest 65536).tick
            if bad then s.count 0x2202 (tile / 64) e.job 1 else s
        let s := { s with enf := mdel s.enf (tile * 2 + i) }
        let s := { s with
          matrix := { s.matrix with flushing := s.matrix.flushing.map (fun (c : Nat × Nat) =>
            if c.1 / 28 = tile then (c.1, setBits c.2 i i 0) else c) }
          jobs := s.jobs.map (fun (j : Job) => if j.block.tiles.contains tile then { j with replay := none } else j) }
        [0, 1, 2, 3].foldl (fun st n =>
          if (st.thread (tile * 28 + n)).st = .waitUnit then st.fetchNext (tile * 28 + n) else st) s

/-- Every ACCUMULATING set of a tile starts to drain; which of two starts first is open. -/
def startDrains (tile : Nat) (s : State) : State :=
  (if Config.freeBit s.freeCtr 0 then [1, 0] else [0, 1]).foldl (fun st i =>
    match mfind st.enf (tile * 2 + i) with
    | some e => if e.st = .accumulating then st.drainSet tile i else st
    | none => st) s.tick

/-- A write of ENF.EPOCH (R237): ROWCNT of every context of the tile becomes 0. -/
def enfEpochEff (tile v : Nat) (s : State) : State :=
  let s := s.setRegNat (Regs.enfEpoch tile) (v % 65536)
  (List.range 64).foldl (fun st n => st.setRegNat (Regs.enfCtx tile n 1) 0) s

/-- ENF.SET_STATUS as it reads (R253). -/
def setStatusValue (s : State) (tile : Nat) : Nat :=
  ([0, 1].map (fun i => (match mfind s.enf (tile * 2 + i) with
    | some e => (match e.st with | .empty => 0 | .accumulating => 1 | .draining => 2)
    | none => 0) * 4 ^ i)).sum

end State

def execEnfDrainLand (t : Tile) (set : Fin 2) (s : State) : Host.Outcome State Fault Refusal :=
  .next (s.drainLandEff t.val set.val)

end Sys2Proof.Machine
end

