-- ==== Sys2Proof/Machine/Matrix.lean ====
section
/-! DEFINITION. The matrix engine (spec/07_matrix_engine.md): operand slots (R188), the checks of a product
(R186 to R195), products (R184, R187, R196 to R203), fused backward commands (R204, R205), the array grant (R194)
and ENF_FLUSH (R247). -/

namespace Sys2Proof.Machine
open Sys2Proof.Num

/-! ### Classes, layouts and the nominal cycle count -/

/-- Kind of an operand format in the table of R186. -/
inductive OpKind where
  | fp4 | fp8 | int8 | half | wide | none
deriving DecidableEq, Repr

def opKind (f : Nat) : OpKind :=
  if f = 9 then .fp4 else if 3 ≤ f ∧ f ≤ 6 then .fp8 else if f = 0xA ∨ f = 0xB then .int8
  else if f = 1 ∨ f = 2 then .half else if f = 0 then .wide else .none

/-- The class that runs a pair: 0 FP4, 1 8-bit, 2 16-bit, 3 FP32 wide (R186). -/
def pairClass (a b : Nat) : Option Nat :=
  match opKind a, opKind b with
  | .fp4, .fp4 => some 0
  | .fp4, .fp8 | .fp8, .fp4 | .fp8, .fp8 | .int8, .int8 => some 1
  | .half, .half | .half, .fp8 | .fp8, .half | .half, .fp4 | .fp4, .half => some 2
  | .wide, .wide => some 3
  | _, _ => none

/-- The body of a product as its command carries it (R192, R204). -/
structure Prod where
  m : Nat
  n : Nat
  k : Nat
  os : Bool
  sparse : Bool
  zskip : Bool
  omask : Bool
  fill : Nat
  dst : Nat
  cont : Bool
  enf : Nat
  zbit : Nat
  obit : Nat
deriving DecidableEq, Repr

def prodOf (b : MmaBody) : Prod :=
  let mo := b.mode.toNat
  let ds := b.dstop.toNat
  ⟨b.m.toNat, b.n.toNat, b.k.toNat, bit mo 0, bit mo 1, bit mo 2, bit mo 3, bits mo 5 4, bits ds 1 0, bit ds 2,
    b.enf.toNat, b.zbit.toNat, b.obit.toNat⟩

/-- The field ranges of R193, R198 and R235 for MX_MMA. -/
def mmaFieldsOk (b : MmaBody) : Bool :=
  let p := prodOf b
  bits b.mode.toNat 7 6 == 0 && p.fill != 3 && bits b.dstop.toNat 7 3 == 0 && p.dst != 3
    && decide (1 ≤ p.m) && decide (1 ≤ p.n) && decide (p.n ≤ 128) && decide (1 ≤ p.k) && decide (p.k < 2 ^ 24)
    && (if p.os then decide (p.m ≤ 128) && !p.sparse && p.enf == 0
        else decide (p.m ≤ 512) && decide (p.dst ≤ 1) && !p.cont)
    && (!p.sparse || p.k % 4 == 0)

/-- The field ranges of the fused commands (R204). -/
def fusedFieldsOk (b : MmaBody) (flags : BitVec 8) (sigma : W32) : Bool :=
  let p := prodOf b
  mmaFieldsOk b && !p.os && p.dst == 0 && decide (p.m ≤ 128) && bits flags.toNat 7 1 == 0 && isFin32 sigma

/-- Contraction columns of a WS pass, and columns of its stationary block (R184). -/
def kBlock (sparse : Bool) : Nat := if sparse then 256 else 128
def nBlock (cls : Nat) : Nat := if cls = 3 then 8 else 128

def ceilDiv (a b : Nat) : Nat := (a + b - 1) / b

/-- Load time of a stationary block (R195): from scratchpad, shared store, or through the transposing buffer. -/
def loadTime (cls : Nat) (sparse shared trans : Bool) : Nat :=
  let direct := if sparse then [48, 80, 144, 16].getD cls 16 else [32, 64, 128, 16].getD cls 16
  let far := if sparse then [192, 320, 576, 64].getD cls 64 else [128, 256, 512, 64].getD cls 64
  max (if shared then far else direct) (if trans then 128 else 0)

/-- Cycles that `k` operand lines of `bits` bits take over the shared-store port (R195). -/
def portTime (k lineBits : Nat) : Nat := ceilDiv (k * lineBits) 512

/-- The nominal count of R195 with its FILL given, and the statistic steps at their longest (R241). -/
def nominalCount (p : Prod) (cls fa fb : Nat) (aShared bShared bTrans : Bool) (fill : Nat) : Nat :=
  let stats := (if p.enf % 4 = 0 then 0 else if p.enf % 4 = 3 then 2 else 1) * (24 + 2 * p.m)
  let stream := fun (x : Nat) => if cls = 0 then ceilDiv x 2 else if cls = 2 then 2 * x else x
  if p.os then
    let t := stream p.k
    let t := if aShared then max t (portTime p.k (p.m * fmtBits fa)) else t
    let t := if bShared then max t (portTime p.k (p.n * fmtBits fb)) else t
    fill + t + stats
  else
    let t := stream p.m
    let t := if aShared then max t (portTime p.m (kBlock p.sparse * fmtBits fa)) else t
    fill + max t (loadTime cls p.sparse bShared bTrans) * (ceilDiv p.k (kBlock p.sparse) * ceilDiv p.n (nBlock cls)) + stats

/-- The count that admission checks, for the most favourable case the fields allow (R193, R241). -/
def admissionCount (p : Prod) : Nat := nominalCount p 0 9 9 false false false 0

/-- One operand of a product as its slot gives it. -/
structure Span where
  slot : Nat
  addr : Nat
  pitch : Nat
  rows : Nat
  bytes : Nat
  write : Bool
  /-- Ownership binds the slot (R190). -/
  owned : Bool
deriving DecidableEq, Repr

def Span.length (x : Span) : Nat := (x.rows - 1) * x.pitch + x.bytes
def Span.accesses (x : Span) : List (Nat × Nat) := (List.range x.rows).map (fun i => (x.addr + i * x.pitch, x.bytes))

/-- Runs of true in a list, by start and length. -/
def runsOf (l : List Bool) : List (Nat × Nat) :=
  (List.range l.length).filterMap (fun i =>
    if l.getD i false && !(i != 0 && l.getD (i - 1) false) then some (i, ((l.drop i).takeWhile (fun b => b)).length) else none)

/-- The accesses of a span's rows, where `need i b` says whether block b of 32 elements of stored row i is read; a block
takes `unit` bytes. -/
def Span.parts (x : Span) (unit blocks : Nat) (need : Nat → Nat → Bool) : List (Nat × Nat) :=
  (List.range x.rows).flatMap (fun i =>
    (runsOf ((List.range blocks).map (need i))).map (fun r =>
      (x.addr + i * x.pitch + unit * r.1, min (unit * r.2) (x.bytes - unit * r.1))))

/-- A place a slot may name (R190): 0 own scratchpad, 1 own die's shared store, 2 own tile buffers, 3 own die's
NI staging, 4 elsewhere. -/
def areaOf (tile a : Nat) : Nat :=
  if windowOf a ≠ 0 then 4 else
  match placeOf a with
  | .scratch t _ => if t = tile then 0 else 4
  | .shared d _ => if d = tile / 64 then 1 else 4
  | .tbuf t _ => if t = tile then 2 else 4
  | .staging d _ => if d = tile / 64 then 3 else 4
  | _ => 4

/-- The whole span lies in one of the allowed places. -/
def Span.placed (tile : Nat) (allow : List Nat) (x : Span) : Bool :=
  allow.contains (areaOf tile x.addr) && areaOf tile x.addr == areaOf tile (x.addr + x.length - 1)

/-- Alignment of R189: 64 bytes, or 8 for the maps; PITCH holds a stored row. -/
def Span.aligned (x : Span) : Bool :=
  let g := if x.slot = 6 ∨ x.slot = 7 then 8 else 64
  x.addr % g == 0 && x.pitch % g == 0 && decide (x.bytes ≤ x.pitch)

/-- Stored shape of an operand: rows and elements of a row, `major` counting the dimension that ORIENT 0 stores
as rows. -/
def storedShape (orient : Bool) (major minor : Nat) : Nat × Nat := if orient then (minor, major) else (major, minor)

def paddedBytes (f n : Nat) : Nat := rowBytes f (if fmtMx f then blocksOf n * 32 else n)

def OpndSlot.orient (o : OpndSlot) : Bool := bit o.flags 0

/-- The slots of a product by the checks that R189 and R190 give each, with the spans they name. -/
structure Spans where
  a : Span
  b : Span
  d : Span
  sa : Span
  sb : Span
  meta' : Span
  zmap : Span
  omap : Span
deriving DecidableEq, Repr

/-- Slots that a product reads or writes (R188, R192, R204), `extra` those of its fused step. -/
def neededSlots (p : Prod) (zs : Bool) (fa fb : Nat) (extra : List Nat) : List Nat :=
  [0, 1] ++ (if p.dst = 2 then [] else [2]) ++ (if fmtMx fa || fmtTensor fa then [3] else [])
    ++ (if fmtMx fb || fmtTensor fb then [4] else []) ++ (if p.sparse then [5] else [])
    ++ (if zs then [6] else []) ++ (if p.omask && p.dst != 2 then [7] else []) ++ extra

def noSlot : OpndSlot := ⟨0, 0, 0, 0⟩

/-- The span that a slot names in a product. -/
def spanOf (p : Prod) (sl : Nat → OpndSlot) (fused : Bool) (slot : Nat) : Span :=
  let o := sl slot
  let fa := (sl 0).format
  let fb := (sl 1).format
  let (ar, ac) := storedShape (sl 0).orient p.m p.k
  let (br, bc) := storedShape (sl 1).orient (if p.sparse then p.k / 2 else p.k) p.n
  let mk := fun rows bytes write owned => Span.mk slot o.addr o.pitch rows bytes write owned
  match slot with
  | 0 => mk ar (paddedBytes fa ac) false true
  | 1 => mk br (paddedBytes fb bc) false true
  | 2 => mk p.m (4 * p.n) true true
  | 3 => if fmtTensor fa then ⟨3, o.addr, o.pitch, 1, 4, false, true⟩ else mk ar (blocksOf ac) false true
  | 4 => if fmtTensor fb then ⟨4, o.addr, o.pitch, 1, 4, false, true⟩ else mk br (blocksOf bc) false true
  | 5 => mk (p.k / 2) 32 false true
  | 6 => mk (ceilDiv p.m 128) (ceilDiv (p.zbit + ceilDiv p.k 32) 64 * 8) false false
  | 7 => mk (ceilDiv p.m 128) (ceilDiv (p.obit + ceilDiv p.n 32) 64 * 8) false false
  | 8 => mk p.m (rowBytes o.format p.n) false true
  | 9 => mk (if fused then 3 else 1) (4 * p.m) false false
  | 10 => mk 1 (4 * p.n) false false
  | _ => mk 1 (4 * p.n) true true

/-- Places that R190 allows a slot. -/
def allowedAreas (p : Prod) (slot : Nat) : List Nat :=
  match slot with
  | 2 => if !p.os then [2] else if p.dst = 1 then [0, 2] else [0, 1, 2, 3]
  | 8 => [0, 1, 2]
  | 11 => [0]
  | _ => [0, 1]

/-- The slot of the first check of R186 to R191 that fails, or none. -/
def operandFault (tile : Nat) (p : Prod) (slots : SMap OpndSlot) (zs : Bool) (extra : List Nat) (fused norm : Bool) :
    Option Nat :=
  let sl := fun i => mget slots i noSlot
  let fa := (sl 0).format
  let fb := (sl 1).format
  let need := neededSlots p zs fa fb extra
  match need.find? (fun i => (mfind slots i).isNone) with
  | some i => some i
  | none =>
    match pairClass fa fb with
    | none => some 0
    | some cls =>
      if p.sparse ∧ (cls = 3 ∨ opKind fa = .int8) then some 1
      else if p.dst ≠ 2 ∧ ((sl 2).format ≠ 0 ∨ (sl 2).orient) then some 2
      else if p.os ∧ cls = 3 ∧ (32 < p.m ∨ 32 < p.n) then some 2
      else if extra.contains 8 ∧ ¬ (sl 8).format ≤ 2 then some 8
      else
        let span := fun i => spanOf p sl (fused && norm) i
        match need.find? (fun i => !(span i).placed tile (allowedAreas p i)) with
        | some i => some i
        | none =>
          let ta := (sl 0).orient != p.os
          let tb := (sl 1).orient
          if ta ∧ tb then some 1
          else if cls = 3 ∧ (ta ∨ tb) then some (if tb then 1 else 0)
          else if p.sparse ∧ tb then some 1
          else
            match need.find? (fun i =>
              if (i = 3 ∧ fmtTensor fa) ∨ (i = 4 ∧ fmtTensor fb) then !((span i).addr % 64 == 0 && (span i).pitch == 0)
              else !(span i).aligned) with
            | some i => some i
            | none =>
              if p.dst ≠ 2 ∧ areaOf tile (sl 2).addr = 2 ∧ (sl 2).pitch ≠ 512 then some 2
              else if fused ∧ (sl 2).addr / 65536 ≠ ((span 2).addr + (span 2).length - 1) / 65536 then some 2
              else none

/-! ### The product -/

/-- A matrix of values as rows. -/
abbrev Mat := List (List FVal)
def Mat.at (x : Mat) (r c : Nat) : FVal := (x.getD r []).getD c .zero

/-- What a product computes with: its operands, masks and factors. -/
structure Data where
  p : Prod
  cls : Nat
  fa : Nat
  fb : Nat
  a : Mat
  aT : Bool
  b : Mat
  bT : Bool
  /-- Position within its group of kept row r, column c (R198). -/
  kept : List (List Nat)
  /-- Map bits by map row. -/
  zmap : List (List Bool)
  omap : List (List Bool)
  scale : Dy
  scaled : Bool
  scaleA : FVal

def Data.elemA (x : Data) (m k : Nat) : FVal := if x.aT then x.a.at k m else x.a.at m k
def Data.elemB (x : Data) (k n : Nat) : FVal := if x.bT then x.b.at n k else x.b.at k n

def mapBit (x : List (List Bool)) (r c : Nat) : Bool := (x.getD r []).getD c false

/-- The work at row m and logical column k is skipped (R201). -/
def Data.skipped (x : Data) (m k : Nat) : Bool :=
  if x.zmap.isEmpty then false
  else if x.p.os then mapBit x.zmap 0 (k / 32)
  else
    let kb := kBlock x.p.sparse
    let first := k / kb * kb / 32
    let count := min (kb / 32) (ceilDiv x.p.k 32 - first)
    (List.range count).all (fun i => mapBit x.zmap (m / 128) (first + i))

def Data.masked (x : Data) (m n : Nat) : Bool := mapBit x.omap (m / 128) (n / 32)

/-- The terms of element (m, n): every contraction step that is not skipped. -/
def Data.terms (x : Data) (m n : Nat) : List (FVal × FVal) :=
  if x.p.sparse then
    (List.range (x.p.k / 2)).filterMap (fun r =>
      let k := 4 * (r / 2) + (x.kept.getD r []).getD n 0
      if x.skipped m k then none else some (x.elemA m k, x.elemB r n))
  else (List.range x.p.k).filterMap (fun k => if x.skipped m k then none else some (x.elemA m k, x.elemB k n))

/-- Integer products add up exactly while every partial sum stays below 2^24 (R127): in whatever order they are added,
where the sums of the positive and of the negative products each do. `p` and `n` are those sums' values, `acc` what the
sum adds to. -/
def intExact (cls fa : Nat) (terms : List (FVal × FVal)) (p n acc : Dy) : Bool :=
  let prod := fun (t : FVal × FVal) => match t with
    | (.fin s m e, .fin s' m' e') => (s != s', m * m', e + e')
    | _ => (false, 2 ^ 24, 0)
  let l := terms.map prod
  let sum : Bool → Nat := fun neg => ((l.filter (fun x => x.1 == neg)).map (fun x => x.2.1)).sum
  let e := l.foldl (fun (e : Int) x => if x.2.1 = 0 then e else min e x.2.2) 1024
  let big := if p.lt n then n else p
  cls == 1 && opKind fa == .int8 && decide (sum false < 2 ^ 24) && decide (sum true < 2 ^ 24)
    && (acc.isZero || (big.add acc.abs).lt ⟨2 ^ 24, e⟩)

/-- Passes of the product. -/
def Data.passes (x : Data) : Nat := ceilDiv x.p.k (if x.p.os then 128 else kBlock x.p.sparse)

/-- An element of the result in FP32: the kept accumulator and the products, times the per-tensor scales where the result
leaves the array, plus the old D where it is added to. Its error is within the dot-product row of R127, whose one
accumulation a pass also takes the accumulator and D as partial results (R185). The two scales multiply as one exact factor,
and in a chain the scales of its last command multiply the whole accumulator (R187; DESIGN CHOICE, log 86). -/
def Data.element (x : Data) (tok idx : Nat) (acc : W32) (old : Option W32) (terms : List (FVal × FVal)) : W32 :=
  let one : FVal := .fin false 1 0
  match special ((rd acc, one) :: terms) with
  | some .nan => nan32
  | some (.inf n) => (match old with | some d => add tok idx d (inf32 n) | none => inf32 n)
  | _ =>
    match (old.map rd).getD .zero with
    | .nan => nan32
    | .inf n => inf32 n
    | d =>
      let f := if x.p.dst = 2 then one.dy else x.scale
      let (p, n) := sumParts terms
      let a := (rd acc).dy
      let d := d.dy
      let exact := (f.mul ((p.sub n).add a)).add d
      let tree := f.mul ((p.add n).mul ⟨dotCoef (x.cls == 3) 0, -24⟩)
      let adds := ((f.mul ((p.add n).add a.abs)).add d.abs).mul ⟨x.passes, -24⟩
      let bound := if intExact x.cls x.fa terms p n (a.abs.add d.abs) then Dy.zero else (tree.add adds).add ⟨x.p.k, -126⟩
      let part := fun (neg : Bool) (y : Dy) => (f.mul (y.add (partOf neg a))).add (partOf neg d)
      orOverflow tok idx (part false p) (part true n) bound (within tok idx exact bound)

/-- A 128-row group works in a WS pass: it is neither skipped nor masked whole (R201, R202). -/
def Data.groupRuns (x : Data) (g pass : Nat) : Bool :=
  !x.skipped (128 * g) (kBlock x.p.sparse * pass)
    && (x.omap.isEmpty || (List.range (ceilDiv x.p.n 32)).any (fun c => !mapBit x.omap g c))

/-- Which passes run: a WS pass unless no row group works in it, an OS pass unless all its steps are skipped (R201,
R202). -/
def Data.passRuns (x : Data) (pass : Nat) : Bool :=
  if x.p.os then
    (List.range (min 128 (x.p.k - 128 * pass))).any (fun i => !x.skipped 0 (128 * pass + i))
  else (List.range (ceilDiv x.p.m 128)).any (fun g => x.groupRuns g pass)

/-- A pass whose work the zero-block map skips whole (R201). -/
def Data.passSkipped (x : Data) (pass : Nat) : Bool :=
  if x.p.os then !x.passRuns pass
  else (List.range (ceilDiv x.p.m 128)).all (fun g => x.skipped (128 * g) (kBlock x.p.sparse * pass))

/-- Blocks of columns that each pass over K takes one stationary block for (R184). -/
def Data.columnBlocks (x : Data) : Nat := if x.p.os then 1 else ceilDiv x.p.n (nBlock x.cls)

/-- 2:4 metadata keeps the order of each group in every pass that runs (R199). -/
def Data.metaOk (x : Data) : Bool :=
  (List.range (x.p.k / 4)).all (fun g =>
    !x.passRuns (4 * g / 256) || (List.range x.p.n).all (fun c =>
      decide ((x.kept.getD (2 * g) []).getD c 0 < (x.kept.getD (2 * g + 1) []).getD c 0)))

def finRow (l : List FVal) : Bool := l.all (fun v => v.isFin)

/-- Elements of a result, among those `lands` picks, that are infinite although their inputs are finite: each counts once
(R119; one count an element is the model's choice, log 86). -/
def overflows (lands : Nat → Bool) (terms : Nat → List (FVal × FVal)) (old vals : List W32) : Nat :=
  ((List.range vals.length).filter (fun i =>
    lands i && (match rd (vals.getD i 0) with | .inf _ => true | _ => false)
      && isFin32 (old.getD i 0) && (terms i).all (fun t => t.1.isFin && t.2.isFin))).length

namespace State

/-- Decoded rows of an operand, MX scales applied and per-tensor scales not (R187). -/
def readMat (s : State) (f : Nat) (x sc : Span) (elems : Nat) : Mat :=
  (List.range x.rows).map (fun i =>
    decodeRow f (s.load (x.addr + i * x.pitch) x.bytes)
      (if fmtMx f then s.load (sc.addr + i * sc.pitch) sc.bytes else []) 0x3F800000 elems)

def readMap (s : State) (x : Span) (first count : Nat) : List (List Bool) :=
  (List.range x.rows).map (fun i =>
    let v := s.loadNat (x.addr + i * x.pitch) x.bytes
    (List.range count).map (fun c => bit v (first + c)))

def tensorWord (s : State) (f : Nat) (x : Span) : FVal := if fmtTensor f then fp32.decode (s.loadNat x.addr 4) else .fin false 1 0

/-- The data that a checked product reads. -/
def prodData (s : State) (p : Prod) (sl : Nat → OpndSlot) (cls : Nat) (zs : Bool) : Data :=
  let fa := (sl 0).format
  let fb := (sl 1).format
  let span := fun i => spanOf p sl false i
  let ta := s.tensorWord fa (span 3)
  let tb := s.tensorWord fb (span 4)
  let rowsB := if p.sparse then p.k / 2 else p.k
  { p := p, cls := cls, fa := fa, fb := fb
    a := s.readMat fa (span 0) (span 3) (storedShape (sl 0).orient p.m p.k).2, aT := (sl 0).orient
    b := s.readMat fb (span 1) (span 4) (storedShape (sl 1).orient rowsB p.n).2, bT := (sl 1).orient
    kept := if p.sparse then (List.range rowsB).map (fun r =>
        let v := s.loadNat ((sl 5).addr + r * (sl 5).pitch) 32
        (List.range 128).map (fun c => bits v (2 * c + 1) (2 * c))) else []
    zmap := if zs then s.readMap (span 6) p.zbit (ceilDiv p.k 32) else []
    omap := if p.omask then s.readMap (span 7) p.obit (ceilDiv p.n 32) else []
    scale := ta.dy.mul tb.dy, scaled := fmtTensor fa || fmtTensor fb, scaleA := ta }

/-- Write M rows of N words from `addr` on, a masked block as FILL says (R202). -/
def putRows (addr pitch m n fill : Nat) (masked : Nat → Nat → Bool) (vals : List W32) (s : State) : State :=
  (List.range m).foldl (fun st i =>
    let a := addr + i * pitch
    let row := (List.range n).flatMap (fun c =>
      if masked i c then
        (if fill = 0 then st.load (a + 4 * c) 4 else leBytes 4 (if fill = 1 then 0 else 0xFF800000))
      else leBytes 4 (vals.getD (i * n + c) 0).toNat)
    st.save a row) s

/-- D is unspecified in the command's rows and columns (R206), where it can be written. -/
def spoilD (tile : Nat) (j : Job) (d : Span) (s : State) : State :=
  d.accesses.foldl (fun st x =>
    if st.access j ⟨1, tile⟩ true true x.1 x.2 = .ok then
      let tok := st.freeCtr
      (st.save x.1 ((List.range x.2).map (Config.freeByte tok))).tick
    else st) s

/-- Access checks of the spans' accesses, in order: the first that fails gives its code and address. -/
def checkSpans (s : State) (tile : Nat) (j : Job) (dst : Nat) (xs : List (Span × List (Nat × Nat))) : Acc × Nat :=
  xs.foldl (fun acc x => x.2.foldl (fun (acc : Acc × Nat) y =>
    match acc.1 with
    | .bad _ => acc
    | _ =>
      let r := if x.1.write && (dst == 1 || x.1.slot == 11) then s.access j ⟨1, tile⟩ false x.1.owned y.1 y.2 else .ok
      match r.andThen (s.access j ⟨1, tile⟩ x.1.write x.1.owned y.1 y.2) with
      | .ok => acc
      | z => (acc.1.andThen z, y.1)) acc) (.ok, 0)

/-- Spans with all their accesses. -/
def wholeSpans (xs : List Span) : List (Span × List (Nat × Nat)) := xs.map (fun x => (x, x.accesses))

/-- The slot whose span has an access at an address; 0xF for none (R209). -/
def slotAt (xs : List (Span × List (Nat × Nat))) (a : Nat) : Nat :=
  match xs.find? (fun x => x.2.any (fun y => y.1 == a)) with
  | some x => x.1.slot
  | none => 0xF

/-- A fault of a matrix command with the slot it names (R206, R209). -/
def haltSlot (t : ThreadId) (code : W16) (slot : Nat) (s : State) : State :=
  (s.engineFault t code slot (s.thread t.key).pc).haltThread t code

/-- The array of a tile is free for the next requester (R194). -/
def releaseArray (tile n : Nat) (s : State) : State :=
  { s with matrix := { s.matrix with
    holder := mdel s.matrix.holder tile, last := mset s.matrix.last tile n, chain := mdel s.matrix.chain tile } }

/-- What a pending OS drain or fused step still writes (R64), and the tile buffers that it holds (R197), as spans. -/
def heldSpans (s : State) (tile : Nat) : List (Nat × Nat) :=
  (match mfind s.matrix.osDrain tile with
    | some d => [(d.addr, (d.m - 1) * d.pitch + 4 * d.n)]
    | none => [])
  ++ (s.matrix.fused.filter (fun f => f.thread / 28 == tile)).flatMap (fun f =>
    (f.addr, (f.m - 1) * 512 + 4 * f.n) :: (match f.gg with | some g => [(g, 4 * f.n)] | none => []))

/-- Spans widened to whole tile buffers where they lie in one. -/
def bufferSpan (x : Nat × Nat) : Nat × Nat :=
  match placeOf x.1 with
  | .tbuf _ _ => (x.1 / 65536 * 65536, (x.1 + x.2 - 1) / 65536 * 65536 + 65536 - x.1 / 65536 * 65536)
  | _ => x

/-- A span meets one that is held: whole tile buffers are held (R197). -/
def meetsHeld (s : State) (tile : Nat) (x : Nat × Nat) : Bool :=
  (s.heldSpans tile).any (fun h =>
    let a := bufferSpan h
    let b := bufferSpan x
    spansMeet a.1 a.2 b.1 b.2)

/-- ME and VE threads of a tile that wait for a unit try again. -/
def wakeUnits (tile : Nat) (s : State) : State :=
  (List.range 12).foldl (fun st n =>
    if (st.thread (tile * 28 + n)).st = .waitUnit then st.fetchNext (tile * 28 + n) else st) s

/-- What a fused command adds to a product: its kind, GG_EN and SIGMA. -/
structure Fused where
  norm : Bool
  gg : Bool
  sigma : W32
deriving DecidableEq, Repr

def fusedSlots (f : Option Fused) : List Nat :=
  match f with
  | none => []
  | some f => [8, 9] ++ (if f.norm then [10] else []) ++ (if f.norm && f.gg then [11] else [])

/-- What a product reads and writes: of A, B and their scales only what a pass that runs, or the tap, reads (R201, R202). A
masked group that the tap samples is read for it (log 86). Maps come first, since they say what is read. -/
def accessed (x : Data) (feeds : List EnfCtx) (spans : List Span) : List (Span × List (Nat × Nat)) :=
  let p := x.p
  let kb := kBlock p.sparse
  let tapped := fun (m k : Nat) => feeds.any (fun c =>
    (k / 128 == c.first + c.p || k / 128 == c.first + c.q) && (c.sampled p.m).contains m)
  let needA := fun (m k : Nat) => if p.os then !x.skipped 0 k else x.groupRuns (m / 128) (k / kb) || (!x.skipped m k && tapped m k)
  let needB := fun (k : Nat) => if p.os then !x.skipped 0 k else x.passRuns (k / kb)
  let rowK := fun (r : Nat) => if p.sparse then 4 * (r / 2) else r
  let blocks := fun (n : Nat) => ceilDiv n 32
  let partsOf := fun (y : Span) =>
    match y.slot with
    | 0 => y.parts (rowBytes x.fa 32) (blocks (if x.aT then p.m else p.k)) (fun i b => if x.aT then needA (32 * b) i else needA i (32 * b))
    | 1 => y.parts (rowBytes x.fb 32) (blocks (if x.bT then p.k else p.n)) (fun i b => if x.bT then needB (32 * b) else needB (rowK i))
    | 3 => if fmtTensor x.fa then y.accesses
      else y.parts 1 (blocks (if x.aT then p.m else p.k)) (fun i b => if x.aT then needA (32 * b) i else needA i (32 * b))
    | 4 => if fmtTensor x.fb then y.accesses
      else y.parts 1 (blocks (if x.bT then p.k else p.n)) (fun i b => if x.bT then needB (32 * b) else needB (rowK i))
    | 5 => y.parts y.bytes 1 (fun i _ => needB (rowK i))
    | _ => y.accesses
  let map := fun (y : Span) => y.slot == 6 || y.slot == 7
  (spans.filter map ++ spans.filter (fun y => !map y)).map (fun y => (y, partsOf y))

/-- The array is let go by a command that ran; who waits for it then may have its first block loaded behind the command's
last pass (R194). -/
def productEnds (tile n : Nat) (s : State) : State :=
  let waits := (List.range 4).filter (fun i => i != n && (s.thread (tile * 28 + i)).st == .waitUnit)
  let s := s.releaseArray tile n
  { s with matrix := { s.matrix with behind := mset s.matrix.behind tile waits } }

/-- A product goes on from the accumulator that is kept, where one is: the same thread, shape and class (R196). -/
def chainFits (s : State) (tile k : Nat) (p : Prod) (fused : Bool) (cls : Nat) : Bool :=
  match mfind s.matrix.chain tile with
  | some c => p.os && p.cont && !fused && c.thread == k && c.m == p.m && c.n == p.n && c.cls == cls
  | none => !p.cont

/-- The accumulator that a product goes on from. -/
def keptAcc (s : State) (tile : Nat) (p : Prod) (i : Nat) : W32 :=
  if p.cont then (match mfind s.matrix.chain tile with | some c => c.acc | none => []).getD i 0 else 0

/-- The product runs: Enfleurage, result, counters, and where the result goes. -/
def runProduct (t : ThreadId) (h : CmdHead) (tile n : Nat) (j : Job) (fused : Option Fused) (x : Data)
    (sl : Nat → OpndSlot) (feeds named : List EnfCtx) (s : State) : State :=
  let p := x.p
  let d := spanOf p sl false 2
  let tok := s.freeCtr
  let die := tile / 64
  let m := p.m
  let nn := p.n
  let pc := (s.thread t.key).pc
  let terms := fun i => x.terms (i / nn) (i % nn)
  let kept := s.keptAcc tile p
  let adds := p.dst == 1 && !p.os
  let old := if adds then (List.range (m * nn)).map (fun i =>
      BitVec.ofNat 32 (s.loadNat (d.addr + i / nn * d.pitch + 4 * (i % nn)) 4)) else []
  let vals := (List.range (m * nn)).map (fun i =>
    x.element tok (16 * i) (kept i) (if adds then some (old.getD i 0) else none) (terms i))
  let s := s.enfAdvance tile m named
  let slice := fun (i sl : Nat) => (List.range 128).map (fun c =>
    let k := 128 * sl + c
    if x.skipped i k then FVal.zero else x.elemA i k)
  let (s, nan) := feeds.foldl (fun (st : State × Nat) c =>
    let r := st.1.enfStep tile m x.fa j.handle slice (mulVal x.scaleA x.scaleA) c
    (r.1, st.2 + r.2)) (s, 0)
  let passes := List.range x.passes
  let k := Regs.obsTile tile 0
  let s := ((s.bump (k 11) ((passes.filter x.passRuns).length * x.columnBlocks)).bump (k 12)
    ((passes.filter x.passSkipped).length * x.columnBlocks)).bump (k 13)
    (if p.dst = 2 then 0 else (x.omap.map (fun r => (r.filter (fun b => b)).length)).sum)
  let s := s.bump (k 14) (feeds.map (fun c => 24 + 2 * (c.sampled m).length)).sum
  let s := s.count 0x2103 die j.handle
    (overflows (fun i => p.dst == 2 || !x.masked (i / nn) (i % nn)) terms (if p.cont then (List.range (m * nn)).map kept else old) vals)
  let s := s.tick
  if p.os then
    let s := s.productEnds tile n
    if p.dst = 2 then
      ({ s with matrix := { s.matrix with
        holder := mset s.matrix.holder tile n, chain := mset s.matrix.chain tile ⟨t.key, m, nn, x.cls, vals⟩ } }).finish t h 1
    else
      let mask := (List.range (ceilDiv nn 32)).map (fun c => x.masked 0 (32 * c))
      ({ s with matrix := { s.matrix with osDrain := mset s.matrix.osDrain tile (⟨t.key, j.handle, d.addr, d.pitch,
        m, nn, p.dst == 1, p.fill, mask, vals, pc, h.trace⟩ : OsDrain) } }).finishIssue t h 1
  else
    let s := s.putRows d.addr d.pitch m nn p.fill (fun i c => x.masked i c) vals
    let s := match fused with
      | none => s
      | some f => { s with matrix := { s.matrix with fused := s.matrix.fused ++
          [(⟨t.key, j.handle, f.norm, m, nn, d.addr, sl 8, sl 9, (sl 10).addr, if f.norm && f.gg then some (sl 11).addr else none,
            f.sigma, pc, h.trace⟩ : FusedStep)] } }
    (s.productEnds tile n).finishNan t h j.handle nan fused.isSome

/-- A product that holds the array: the checks of its slots, of Enfleurage and of its accesses, then the waits of
R196, R197, R242 and R243, then the run. The fill of the transposing buffer is hidden where the thread's last matrix command
took the same operand, A or B, through it (R191). -/
def productEff (t : ThreadId) (h : CmdHead) (tile n : Nat) (th : Thread) (j : Job) (p : Prod) (fused : Option Fused)
    (s : State) : State :=
  let sl := fun i => mget th.slots i noSlot
  let zs := p.zskip && mget s.matrix.zskip tile true
  let extra := fusedSlots fused
  let norm := match fused with | some f => f.norm | none => false
  let fa := (sl 0).format
  let fb := (sl 1).format
  let cls := (pairClass fa fb).getD 0
  if !s.chainFits tile t.key p fused.isSome cls then s.haltSlot t 0x1133 0xF
  else
    match operandFault tile p th.slots zs extra fused.isSome norm with
    | some i => s.haltSlot t 0x1131 i
    | none =>
      let ta := (sl 0).orient != p.os
      let tb := (sl 1).orient
      let tok := s.freeCtr
      let ready := match mfind s.matrix.behind tile with
        | some l => l.contains n || Config.freeBit tok 0
        | none => false
      let pre := !p.os && ready
      let kind := if ta then some 0 else if tb then some 1 else none
      let paid := kind.isSome && mfind s.matrix.turned t.key != kind
      let far := fun i => areaOf tile (sl i).addr == 1
      let lt := loadTime cls p.sparse (far 1) tb
      let fill := if pre && !paid then 0 else 24 + (if p.os || pre then 0 else lt) + (if paid then 128 else 0)
      let s := s.tick
      let named := s.enfNamed tile p.enf
      let d := spanOf p sl false 2
      let dOff := if areaOf tile d.addr = 2 then d.addr % 0x40000 else 0
      let dLen := if areaOf tile d.addr = 2 ∧ p.dst ≠ 2 then d.length else 0
      if 24576 < nominalCount p cls fa fb (far 0) (far 1) tb fill then s.haltSlot t 0x1131 0xF
      else if !s.enfOk j tile p.enf p.k p.m dOff dLen fa then s.haltSlot t 0x2201 0xF
      else
        let x := s.prodData p sl cls zs
        let feeds := s.enfFeeds tile p.enf p.m
        let need := neededSlots p zs fa fb extra
        let spans := need.map (fun i => spanOf p sl (fused.isSome && norm) i)
        let parts := accessed x feeds spans
        let held := (if p.dst = 2 then [] else [(d.addr, d.length)])
          ++ (spans.filter (fun x => x.slot != 2)).map (fun x => (x.addr, x.length))
          ++ feeds.map (fun c => (tbufAddr tile (c.cap * 64), c.capBytes p.m))
        let spoil := fun (s : State) => if p.dst = 2 then s else s.spoilD tile j d
        if held.any (fun x => s.meetsHeld tile x) ∨ (p.os ∧ p.dst ≠ 2 ∧ (mfind s.matrix.osDrain tile).isSome) then s.hold t .waitUnit
        else
          match s.checkSpans tile j p.dst parts with
          | (.wait, _) => (spans.foldl (fun st x => st.wakeFor x.addr) s).hold t .waitData
          | (.bad c, a) => (((spoil s).accessFault c a (whoOf t)).haltSlot t c (slotAt parts a))
          | (.ok, _) =>
            match [(fa, 3), (fb, 4)].find? (fun y => fmtTensor y.1 && !tensorScaleOk (s.loadNat (sl y.2).addr 4)) with
            | some y => s.haltSlot t 0x1113 y.2
            | none =>
              if p.sparse ∧ !x.metaOk then (spoil s).haltSlot t 0x1132 5
              else
                let (s, ready) := s.assignSets tile j.handle feeds
                if !ready then
                  ({ s with matrix := { s.matrix with holder := mdel s.matrix.holder tile, last := mset s.matrix.last tile n } }).hold t .waitUnit
                else
                  let s := { s with matrix := { s.matrix with
                    turned := match kind with | some i => mset s.matrix.turned t.key i | none => mdel s.matrix.turned t.key } }
                  s.runProduct t h tile n j fused x sl feeds named

/-- A matrix command waits in WAIT_UNIT until its thread is granted the array (R194). -/
def withArray (t : ThreadId) (f : Nat → Nat → State → State) (s : State) : State :=
  match t with
  | .tile tile n =>
    if mfind s.matrix.holder tile.val = some n.val then f tile.val n.val s else s.hold t .waitUnit
  | _ => s

def mmaEff (t : ThreadId) (h : CmdHead) (b : MmaBody) (s : State) : State :=
  s.issue t 0x21 1 h (mmaFieldsOk b) (fun th j s =>
    s.withArray t (fun tile n s => s.productEff t h tile n th j (prodOf b) none))

def fusedEff (op : Nat) (norm : Bool) (t : ThreadId) (h : CmdHead) (b : MmaBody) (flags : BitVec 8) (sigma : W32) (s : State) : State :=
  s.issue t op 1 h (fusedFieldsOk b flags sigma) (fun th j s =>
    s.withArray t (fun tile n s => s.productEff t h tile n th j (prodOf b) (some ⟨norm, bit flags.toNat 0, sigma⟩)))

/-- MX_OPND sets a slot without the array (R188). -/
def opndFieldsOk (addr : W64) (slot format flags : BitVec 8) : Bool :=
  bits addr.toNat 63 52 == 0 && decide (slot.toNat ≤ 11) && decide (flags.toNat ≤ 1)
    && (if slot.toNat ≤ 2 ∨ slot = 8 then fmtDefined format.toNat else format == 0)

def opndEff (t : ThreadId) (h : CmdHead) (addr : W64) (slot format flags : BitVec 8) (pitch : Nat) (s : State) : State :=
  s.issue t 0x20 1 h (opndFieldsOk addr slot format flags) (fun th _ s =>
    match resolveAddr t th.bases addr with
    | none => s.haltThread t 0x1113
    | some a =>
      (s.mapThread t.key (fun x => { x with slots := mset x.slots slot.toNat ⟨a, format.toNat, flags.toNat, pitch⟩ })).finish t h 1)

/-- ENF_FLUSH (R247): with the array, every accumulating set starts to drain; the command completes when every
drain of the tile has landed. -/
def flushEff (t : ThreadId) (h : CmdHead) (s : State) : State :=
  s.issue t 0x24 1 h true (fun _ _ s =>
    match mfind s.matrix.flushing t.key with
    | some 0 => ({ s with matrix := { s.matrix with flushing := mdel s.matrix.flushing t.key } }).finish t h 1
    | some _ => s.hold t .waitUnit
    | none => s.withArray t (fun tile n s =>
        if (mfind s.matrix.chain tile).isSome then s.haltSlot t 0x1133 0xF
        else
          let s := (s.startDrains tile).releaseArray tile n
          let s := { s with matrix := { s.matrix with turned := mdel s.matrix.turned t.key } }
          let mask : Nat := ([0, 1].map (fun i => match mfind s.enf (tile * 2 + i) with
            | some e => if e.st == .draining then 2 ^ i else 0 | none => 0)).sum
          if mask = 0 then s.finish t h 1
          else ({ s with matrix := { s.matrix with flushing := mset s.matrix.flushing t.key mask } }).hold t .waitUnit))

/-! ### Grant, drains and vector steps -/

/-- An ME thread waits for the array: its next command is a matrix command that waits in WAIT_UNIT. -/
def wantsArray (s : State) (tile n : Nat) : Bool :=
  (s.thread (tile * 28 + n)).st == .waitUnit
    && (match mfind s.matrix.flushing (tile * 28 + n) with | some _ => false | none => true)

/-- The array is granted to the next requester after the last holder (R194); requester 4 is a borrowed chunk
(R257). -/
def grantEff (tile : Nat) (s : State) : State :=
  if (mfind s.matrix.holder tile).isSome then s
  else
    let last := mget s.matrix.last tile 4
    let next := ((List.range 5).map (fun i => (last + 1 + i) % 5)).find? (fun n =>
      if n = 4 then !(mget s.matrix.borrowed tile []).isEmpty else s.wantsArray tile n)
    match next with
    | none => s
    | some n =>
      let s := { s with matrix := { s.matrix with
        holder := mset s.matrix.holder tile n, zskip := mset s.matrix.zskip tile (s.flag (Regs.meCtrl tile) 0) } }
      if n = 4 then s else s.fetchNext (tile * 28 + n)

/-- The COMPLETE record of a traced command whose results have landed (R67). -/
def traceDone (trace : Bool) (k cmd : Nat) (s : State) : State := if trace then s.silAt k 3 cmd else s

/-- A matrix command of a thread is complete: the thread and the others of its tile that wait go on. -/
def matrixLanded (tile k : Nat) (s : State) : State := (s.wakeUnits tile).wakeIdle k

/-- A drain of an OS command lands in D (R196, R202). -/
def osDrainEff (tile : Nat) (s : State) : State :=
  match mfind s.matrix.osDrain tile with
  | none => s
  | some d =>
    let s0 := { s with matrix := { s.matrix with osDrain := mdel s.matrix.osDrain tile } }
    match s.findJob d.job with
    | none => s0.matrixLanded tile d.thread
    | some j =>
      let span : Span := ⟨2, d.addr, d.pitch, d.m, 4 * d.n, true, true⟩
      match s.checkSpans tile j (if d.accum then 1 else 0) (wholeSpans [span]) with
      | (.wait, _) => (s.wakeFor d.addr)
      | (.bad c, a) => ((((s0.spoilD tile j span).accessFault c a ⟨1, tile⟩).recordFault (Regs.meFault tile)
          (c.toNat + d.thread % 28 * 2 ^ 16 + 2 * 2 ^ 18 + d.cmd / 32 * 2 ^ 32)).haltKey d.thread c).matrixLanded tile d.thread
      | (.ok, _) =>
        let tok := s.freeCtr
        let vals := if d.accum then (List.range (d.m * d.n)).map (fun i =>
            accum tok (4 * i) (BitVec.ofNat 32 (s.loadNat (d.addr + i / d.n * d.pitch + 4 * (i % d.n)) 4)) (d.vals.getD i 0))
          else d.vals
        let s1 := (s0.putRows d.addr d.pitch d.m d.n d.fill (fun _ c => d.masked.getD (c / 32) false) vals).tick
        let s2 := s1.count 0x2103 (tile / 64) d.job ((List.range vals.length).filter (fun i =>
          isFin32 (d.vals.getD i 0) && (match Num.rd (vals.getD i 0) with | .inf _ => true | _ => false)
            && d.accum && isFin32 (BitVec.ofNat 32 (s.loadNat (d.addr + i / d.n * d.pitch + 4 * (i % d.n)) 4)))).length
        (s2.traceDone d.trace d.thread d.cmd).matrixLanded tile d.thread

/-- FP32 value of element (i, j) of X (R204). -/
def fusedX (s : State) (f : FusedStep) (tok i c : Nat) : W32 :=
  let b := fmtBits f.x.format / 8
  toF32 tok 0 (decodeElem f.x.format (s.loadNat (f.x.addr + i * f.x.pitch + c * b) b) 0x3F800000)

/-- The elements of the vector step (R204). -/
def fusedVals (s : State) (f : FusedStep) (tok : Nat) : List W32 :=
  let w := fun a => BitVec.ofNat 32 (s.loadNat a 4)
  (List.range (f.m * f.n)).map (fun x =>
    let i := x / f.n
    let c := x % f.n
    let k := 16 * x
    let p := w (f.addr + i * 512 + 4 * c)
    let v := s.fusedX f tok i c
    if f.norm then
      let al := w (f.rowv.addr + 4 * i)
      let be := w (f.rowv.addr + f.rowv.pitch + 4 * i)
      let ga := w (f.rowv.addr + 2 * f.rowv.pitch + 4 * i)
      let g := w (f.colv + 4 * c)
      sub tok (k + 8) (sub tok (k + 6) (mul tok (k + 2) (mul tok k al g) p) (mul tok (k + 4) be v)) ga
    else
      let de := w (f.rowv.addr + 4 * i)
      mul tok (k + 4) (mul tok (k + 2) f.sigma v) (sub tok k p de))

/-- The elements that it adds to the vector GG at `g`. -/
def fusedGg (s : State) (f : FusedStep) (tok g : Nat) : List W32 :=
  (List.range f.n).map (fun c =>
    let terms := (List.range f.m).map (fun i =>
      (Num.rd (BitVec.ofNat 32 (s.loadNat (f.addr + i * 512 + 4 * c) 4)), Num.rd (s.fusedX f tok i c)))
    accum tok (16 * (f.m * f.n + c)) (BitVec.ofNat 32 (s.loadNat (g + 4 * c) 4))
      (reduceDot tok (16 * (f.m * f.n + c) + 4) (10 + ceilDiv f.m 512) terms))

/-- The spans that the vector step reads and writes. -/
def fusedSpans (f : FusedStep) : List Span :=
  [⟨8, f.x.addr, f.x.pitch, f.m, rowBytes f.x.format f.n, false, true⟩,
    ⟨9, f.rowv.addr, f.rowv.pitch, if f.norm then 3 else 1, 4 * f.m, false, false⟩]
  ++ (if f.norm then [⟨10, f.colv, 0, 1, 4 * f.n, false, false⟩] else [])
  ++ (match f.gg with | some g => [⟨11, g, 0, 1, 4 * f.n, true, true⟩] | none => [])
  ++ [⟨2, f.addr, 512, f.m, 4 * f.n, true, true⟩]

/-- The vector step of a fused command lands (R204, R205). -/
def fusedDoneEff (tile n : Nat) (s : State) : State :=
  match s.matrix.fused.find? (fun f => f.thread == tile * 28 + n) with
  | none => s
  | some f =>
    let s0 := { s with matrix := { s.matrix with fused := s.matrix.fused.erase f } }
    match s.findJob f.job with
    | none => s0.matrixLanded tile f.thread
    | some j =>
      match s.checkSpans tile j 1 (wholeSpans (fusedSpans f)) with
      | (.wait, _) => (fusedSpans f).foldl (fun st x => st.wakeFor x.addr) s
      | (.bad c, a) =>
        (((s0.spoilD tile j ⟨2, f.addr, 512, f.m, 4 * f.n, true, true⟩).accessFault c a ⟨1, tile⟩).recordFault (Regs.meFault tile)
          (c.toNat + n * 2 ^ 16 + slotAt (wholeSpans (fusedSpans f)) a * 2 ^ 18 + f.cmd / 32 * 2 ^ 32)).haltKey f.thread c |>.matrixLanded tile f.thread
      | (.ok, _) =>
        let tok := s.freeCtr
        let vals := s.fusedVals f tok
        let s1 := (s0.putRows f.addr 512 f.m f.n 0 (fun _ _ => false) vals).tick
        let s2 := match f.gg with
          | none => s1
          | some g => s1.putRows g 0 1 f.n 0 (fun _ _ => false) (s.fusedGg f tok g)
        ((s2.bump (Regs.obsTile tile 1 11) (ceilDiv (f.m * f.n) 512)).traceDone f.trace f.thread f.cmd).matrixLanded tile f.thread

end State

def execMxOpnd (t : ThreadId) (h : CmdHead) (addr : W64) (slot format flags : BitVec 8) (pitch : W32) (s : State) :
    Host.Outcome State Fault Refusal := .next (s.opndEff t h addr slot format flags pitch.toNat)
def execMxMma (t : ThreadId) (h : CmdHead) (b : MmaBody) (s : State) : Host.Outcome State Fault Refusal := .next (s.mmaEff t h b)
def execMxNormBwd (t : ThreadId) (h : CmdHead) (b : MmaBody) (flags : BitVec 8) (sigma : W32) (s : State) :
    Host.Outcome State Fault Refusal := .next (s.fusedEff 0x22 true t h b flags sigma)
def execMxSoftmaxBwd (t : ThreadId) (h : CmdHead) (b : MmaBody) (flags : BitVec 8) (sigma : W32) (s : State) :
    Host.Outcome State Fault Refusal := .next (s.fusedEff 0x23 false t h b flags sigma)
def execEnfFlush (t : ThreadId) (h : CmdHead) (s : State) : Host.Outcome State Fault Refusal := .next (s.flushEff t h)
def execArrayGrant (t : Tile) (s : State) : Host.Outcome State Fault Refusal := .next (s.grantEff t.val)
def execOsDrainDone (t : Tile) (s : State) : Host.Outcome State Fault Refusal := .next (s.osDrainEff t.val)
def execFusedStepDone (t : Tile) (n : Fin 4) (s : State) : Host.Outcome State Fault Refusal := .next (s.fusedDoneEff t.val n.val)

end Sys2Proof.Machine
end

