-- ==== Sys2Proof/Machine/NiLand.lean ====
section
/-! DEFINITION. Locations of triggered-operation records (R329), and how data lands at a network interface: in a slot
as FP32 or elsewhere in its wire or converted format (R115, R330, R332, R334). -/

namespace Sys2Proof.Machine
open Sys2Proof.Num

/-! ### Elements and extents (R101, R108, R328) -/

/-- Elements that the bytes of a source hold. -/
def elemsOf (f n : Nat) : Nat := n * 8 / max 1 (fmtBits f)

/-- Bytes that `n` elements take in memory: an MX format's scales follow its elements at the next 64-byte
boundary (notes/assumptions/30). -/
def extentOf (f n : Nat) : Nat := if fmtMx f then (rowBytes f n + 63) / 64 * 64 + blocksOf n else rowBytes f n

/-- Elements that wire data holds, its scales behind its elements. -/
def wireElems (f n : Nat) : Nat := if fmtMx f then n / (4 * fmtBits f + 1) * 32 else elemsOf f n

/-- The FP32 code of 1: per-tensor FP8 on the NI has no scale word (notes/assumptions/30). -/
def niScale : Nat := 0x3F800000

/-- Values of wire data. -/
def wireVals (f n : Nat) (bs : List Byte) : List FVal := decodeRow f (bs.take (rowBytes f n)) (bs.drop (rowBytes f n)) niScale n

/-- Convert an extent on its way (R115), its elements counted from 0. -/
def wireConvert (fin fout : Nat) (sr : Option (Nat → Nat)) (tok n : Nat) (bs : List Byte) : Conv :=
  convertRow fin fout (bs.take (rowBytes fin n)) (bs.drop (rowBytes fin n)) niScale niScale sr tok 0 n

/-! ### Atomiser data (R337) -/

/-- Bytes of one block on the wire, and its values. -/
def atomBlock (aux : Nat) : Nat := if bit aux 8 then 6 else 4 * (aux % 256 + 1)
def atomVals (aux : Nat) : Nat := if bit aux 8 then 32 else 1024

/-- Decoded FP32 words of one block. -/
def atomDecode (aux : Nat) (bs : List Byte) : List W32 :=
  let n := fun o k => leNat ((bs.drop o).take k)
  if bit aux 8 then
    (List.range 32).map (fun i => BitVec.ofNat 32 (n 4 2 * 65536) ^^^ (if bit (n 0 4) i then 0x80000000 else 0))
  else
    let kept := (List.range (aux % 256 + 1)).map (fun i => (n (4 * i) 2 % 1024, n (4 * i + 2) 2))
    (List.range 1024).map (fun i => BitVec.ofNat 32 (((kept.find? (fun x => x.1 == i)).map (fun x => x.2 * 65536)).getD 0))

/-- FP32 words of atomised wire data. -/
def atomWords (aux : Nat) (bs : List Byte) : List W32 :=
  (List.range (bs.length / atomBlock aux)).flatMap (fun b => atomDecode aux ((bs.drop (b * atomBlock aux)).take (atomBlock aux)))

/-! ### Locations (R329) -/

/-- An address-form location on die `d`: BASE 14 is the die's shared store, BASE 15 is refused. -/
def niAddr (d : Nat) (bases : List (BitVec 48)) (w : W64) : Option Nat :=
  let off := bits w.toNat 47 0
  let base := bits w.toNat 51 48
  if bits w.toNat 62 52 ≠ 0 then none
  else if base = 0 then some off
  else if base ≤ 13 then some (((bases.getD (base - 1) 0).toNat + off) % 2 ^ 48)
  else if base = 14 ∧ setBits off 41 40 0 < 0x8000000 then
    some (sharedAddr d (setBits off 41 40 0) + bits off 41 40 * 2 ^ 40)
  else none

def slotForm (w : W64) : Bool := bit w.toNat 63

/-- Module address of a location of `n` bytes, or the code of what it breaks: R329, or the claim. -/
def locate (j : Job) (k : KeyRec) (d : Nat) (w : W64) (n : Nat) : Except W16 Nat :=
  if slotForm w then
    let x := bits w.toNat 10 9
    let off := bits w.toNat 8 0 * 65536 + bits w.toNat 20 11 * 64
    if bits w.toNat 62 21 ≠ 0 then .error 0x4401
    else if k.firstSlot x * 65536 ≤ off ∧ off + n ≤ (k.firstSlot x + k.slots x) * 65536 then
      .ok (stagingAddr x (j.niBase x * 65536 + off))
    else .error 0x3106
  else match niAddr d j.block.bases w with
    | some a => .ok a
    | none => .error 0x4401

/-- The die whose interface writes an address. -/
def dieOf (a d : Nat) : Nat :=
  match placeOf a with
  | .scratch t _ => t / 64
  | .tbuf t _ => t / 64
  | .shared x _ => x
  | .staging x _ => x
  | .stack x _ => x / 2
  | .pinView x _ _ => x
  | _ => d

namespace State

/-- A location is good at arming: R329, its extent within the job's storage (R135), and on whole words in an alias
window (R141). -/
def locOk (s : State) (j : Job) (k : KeyRec) (d : Nat) (w : W64) (n : Nat) : Bool :=
  match locate j k d w n with
  | .ok a => (windowOf a == 0 || (a % 4 == 0 && n % 4 == 0)) && (pieces a n).all (fun p => s.jobPlace j (placeOf p.1) == .ok)
  | .error _ => false

/-- A counter word: aligned, in a job-owned shared-store bank of the die (R320). -/
def counterOk (j : Job) (d off : Nat) : Bool :=
  off % 4 == 0 && decide (off < 0x8000000) && j.ownsBank d (off / 0x200000)

/-! ### Landing (R332) -/

/-- The started occurrence that a message names, on a die. -/
def occOn (s : State) (h : W32) (d : Nat) (key : W32) (round : Nat) : Option Occ :=
  s.ni.occs.find? (fun o => o.job == h && o.die == d && o.key == key && o.round == round)

/-- An arrival may land in this piece: a slot of the occurrence's claim, a bank whose owner is a network
interface, stacked memory, where R370 lands a shard image, or a word behind an alias window, which is not subject to
ownership (R139, R141). -/
def landsHere (s : State) (j : Job) (key : W32) (round a : Nat) : Bool :=
  windowOf a != 0 || match placeOf a with
  | .staging d o =>
    match s.occOn j.handle d key round with
    | some c => decide (j.niBase d + c.slotFirst ≤ o / 65536) && decide (o / 65536 < j.niBase d + c.slotFirst + c.slotCount)
    | none => false
  | .scratch t o => s.field (Regs.tilOwner t (o / 0x40000)) 2 0 == 4
  | .shared d o => s.field (Regs.shsOwner d (o / 0x200000)) 2 0 == 4
  | .stack _ _ => true
  | _ => false

end State

/-- What landing does: the state, and the NaNs that its conversions counted; or the code that stopped it; or that it waits for
a bank or a tile that is becoming ON (R145, R147). -/
inductive Landed where
  | landed (st : State) (nan : Nat)
  | stopped (st : State) (code : W16)
  | waits (st : State)

/-- One write at its destination: whose occurrence, the destination address, whether it is a slot, whether it adds,
formats, elements and stochastic rounding. `own` marks the NI's own write on its own die (R139). -/
structure Put where
  key : W32
  round : Nat
  addr : Nat
  die : Nat
  slot : Bool
  reduce : Bool
  own : Bool
  fin : Nat
  fout : Nat
  n : Nat
  sr : Option (Nat → Nat)

/-- Values in a slot are FP32, save data that only passes unchanged. -/
def Put.toSlot (p : Put) : Bool := p.slot && fmtPath p.fin
def Put.bytes (p : Put) : Nat := if p.toSlot then 4 * p.n else extentOf p.fout p.n

namespace State

/-- Land data: checked first, then written, added or converted. -/
def landPut (j : Job) (p : Put) (data : List Byte) (s : State) : Landed :=
  let w : Who := ⟨4, dieOf p.addr p.die⟩
  let here := p.own || (pieces p.addr p.bytes).all (fun x => s.landsHere j p.key p.round x.1)
  match if here then s.access j w true p.own p.addr p.bytes else .bad 0x3106 with
  | .bad c => .stopped (s.accessFault c p.addr w) c
  | .wait => .waits (s.wakeFor p.addr)
  | .ok =>
    let tok := s.freeCtr
    let s := s.traffic (niRequester (dieOf p.addr p.die % 4)) j.handle 3 true p.addr p.bytes
    let s := s.tick.bump (Regs.obsNi (dieOf p.addr p.die % 4) 12) (if p.own then 0 else data.length / 64)
    if p.toSlot then
      let vs := wireVals p.fin p.n data
      let cs := if p.fin = 0 then (List.range p.n).map (fun i => (leNat ((data.drop (4 * i)).take 4), Counted.nothing))
        else (List.range p.n).map (fun i => fp32.convert (.faithful (Config.freeBit tok (2 * i))) (vs.getD i .zero))
      let ws := cs.map (fun c => BitVec.ofNat 32 c.1)
      let nan := (cs.map (fun c => nanOf c.2)).sum
      let old := s.load p.addr (4 * p.n)
      let ws := if p.reduce then (List.range p.n).map (fun i =>
          accum tok (2 * i + 1) (BitVec.ofNat 32 (leNat ((old.drop (4 * i)).take 4))) (ws.getD i 0)) else ws
      let s := s.save p.addr (ws.flatMap (fun x => leBytes 4 x.toNat))
      let s := if p.reduce then s.bump (Regs.obsNi (w.unit % 4) 13) ((p.n + 255) / 256) else s
      .landed (s.countNumeric (w.unit % 4) j.handle (cs.map (fun c => satOf c.2)).sum nan 0 0) nan
    else
      let e := if p.fin = p.fout then (⟨data.take (rowBytes p.fin p.n), data.drop (rowBytes p.fin p.n), 0, 0⟩ : Conv)
        else wireConvert p.fin p.fout p.sr tok p.n data
      let s := s.save p.addr e.bytes
      let s := if fmtMx p.fout then s.save (p.addr + (rowBytes p.fout p.n + 63) / 64 * 64) e.scales else s
      .landed (s.countNumeric (w.unit % 4) j.handle e.sat e.nan 0 0) e.nan

/-- NUMERIC_TRAP of an NI conversion, after the value has landed (R118). -/
def niTrap (d : Nat) (j : Job) (nan record : Nat) (key : W32) (s : State) : State :=
  match s.findJob j.handle with
  | some j =>
    if nan ≠ 0 ∧ bit j.block.flags.toNat 3 ∧ !j.trapped then
      (s.mapJob j.handle (fun j => { j with trapped := true })).niHalt d j.handle 0x2104 record key
    else s
  | none => s

/-- A message for a job the module no longer runs (R340). -/
def lateData (d : Nat) (s : State) : State := s.count 0x4433 d 0 1

/-- The key-table index of a key, and its record. -/
def keyIndex (s : State) (j : Job) (key : W32) : Option Nat :=
  (List.range j.image.keyCount).find? (fun k => (s.keyRec j k).key == key)

/-- The record of a key whose guard fails (R321). -/
def keyBroken (s : State) (j : Job) (key : W32) : Option Nat :=
  (s.keyIndex j key).filter (fun ki => (s.keyRec j ki).nkey != ~~~(s.keyRec j ki).key)

/-- Mark the action of an armed record complete. -/
def completeAction (d slot : Nat) (s : State) : State :=
  { s with ni := { s.ni with occs := s.ni.occs.map (fun (o : Occ) =>
      if o.die = d then { o with armed := o.armed.map (fun (a : Armed) => if a.slot = slot then { a with complete := true } else a) } else o) } }

def askAction (d slot : Nat) (s : State) : State :=
  { s with ni := { s.ni with occs := s.ni.occs.map (fun (o : Occ) =>
      if o.die = d then { o with armed := o.armed.map (fun (a : Armed) => if a.slot = slot then { a with asked := true } else a) } else o) } }

/-- A write waits at its interface. -/
def holdArrival (w : NiWrite) (s : State) : State := { s with ni := { s.ni with arrivals := s.ni.arrivals ++ [w] } }

/-- The arrival that carries a GET's data, as another module's would. -/
def servedWrite (j : Job) (d : Nat) (o : Occ) (r : TrigRec) (data : List Byte) : NiWrite :=
  { jobId := j.block.jobId, round := BitVec.ofNat 32 o.round, key := o.key, dst := r.dst, die := Fin.ofNat 4 d
    fmtIn := BitVec.ofNat 8 r.fmtIn, fmtOut := BitVec.ofNat 8 r.fmtOut, sr := r.sr, stream := r.stream, reduce := false, served := true
    atom := none, rctr := BitVec.ofNat 32 r.rctr, rval := BitVec.ofNat 32 r.rval, data := data }

/-- Data of a GET that waits for it reaches the requester (R330, R382): converted, landed, RVAL added and the
action complete. -/
def landServed (j : Job) (d : Nat) (o : Occ) (a : Armed) (data : List Byte) (s : State) : State :=
  let r := s.trigRec a.recAt
  let k := s.keyRec j o.keyIndex
  let n := wireElems r.fmtIn data.length
  let sr := if r.sr then some (draw j.block.seed 2 r.stream (o.round % 65536)) else none
  let len := if slotForm r.dst && fmtPath r.fmtIn then 4 * n else extentOf r.fmtOut n
  match locate j k d r.dst len with
  | .error c => s.niHalt d j.handle c a.index o.key
  | .ok x =>
    match s.landPut j ⟨o.key, o.round, x, d, slotForm r.dst, false, false, r.fmtIn, r.fmtOut, n, sr⟩ data with
    | .stopped s c => s.niHalt d j.handle c a.index o.key
    | .waits s => s.holdArrival (servedWrite j d o r data)
    | .landed s nan =>
      let s := s.completeAction d a.slot
      let s := if r.rctr = noCounter then s else s.addCounter ⟨dieOf x d, r.rctr, r.rval, j.handle, o.key, a.index⟩
      s.niTrap d j nan a.index o.key

/-- The started GET that data for a location belongs to. -/
def waitingGet (s : State) (h : W32) (d : Nat) (key : W32) (round : Nat) (dst : W64) : Option (Occ × Armed) :=
  match s.ni.occs.find? (fun o => o.job == h && o.die == d && o.key == key && o.round == round
      && o.armed.any (fun a => a.asked && !a.complete && (s.trigRec a.recAt).action == 3 && (s.trigRec a.recAt).dst == dst)) with
  | none => none
  | some o =>
    (o.armed.find? (fun a => a.asked && !a.complete && (s.trigRec a.recAt).action == 3 && (s.trigRec a.recAt).dst == dst)).map
      (fun a => (o, a))

/-- A write arrives from another module: for a job not run here it is counted; else it lands and then adds RVAL to
its arrival counter on the destination's die (R331, R332, R340). -/
def landWrite (w : NiWrite) (s : State) : State :=
  let s := s.quietRestart (fun j => j.block.jobId == w.jobId)
  match s.findJobId w.jobId with
  | none => s.lateData w.die.val
  | some j =>
    if j.st ≠ .running then s.lateData w.die.val
    else if w.served then
      match s.waitingGet j.handle w.die.val w.key w.round.toNat w.dst with
      | none => s.lateData w.die.val
      | some (o, a) => s.landServed j w.die.val o a w.data
    else
      let d := w.die.val
      match s.keyIndex j w.key with
      | none => s.niHalt d j.handle 0x3106 0 w.key
      | some ki =>
        if (s.keyBroken j w.key).isSome then s.niGuard d j.handle 6 ki 0 w.key
        else
        let k := s.keyRec j ki
        let f := if w.atom.isSome then 0 else w.fmtIn.toNat
        let data := match w.atom with
          | some x => (atomWords x.toNat w.data).flatMap (fun v => leBytes 4 v.toNat)
          | none => w.data
        let n := wireElems f data.length
        let len := if slotForm w.dst && fmtPath f then 4 * n else extentOf f n
        match locate j k d w.dst len with
        | .error c => s.niHalt d j.handle c 0 w.key
        | .ok x =>
          match s.landPut j ⟨w.key, w.round.toNat, x, d, slotForm w.dst, w.reduce, false, f, f, n, none⟩ data with
          | .stopped s c => s.niHalt d j.handle c 0 w.key
          | .waits s => s.holdArrival w
          | .landed s nan =>
            let s := if w.rctr.toNat = noCounter then s else s.addCounter ⟨dieOf x d, w.rctr.toNat, w.rval.toNat, j.handle, w.key, 0⟩
            s.niTrap d j nan 0 w.key

end State
end Sys2Proof.Machine
end

