-- ==== Sys2Proof/Machine/Serve.lean ====
section
/-! DEFINITION. The owner side of gathers (spec/14_sharding_and_mapping.md, R379 to R388): the serve table, the
decision on a GET, held GETs, GENERATION_GONE at the requester, and releases. -/

namespace Sys2Proof.Machine

/-- A serve entry as read (R380). -/
structure ServeEntry where
  record : Nat
  relBeat : Nat
  relGen : Nat
  valid : Bool

/-- Outcome of R381. -/
inductive ServeOut where
  | served | gone | held | ahead | denied
  /-- The table lies in a bank that is becoming ON (R145). -/
  | waits (addr : Nat)
  /-- A read of the table or the record failed: the code, and for a guard mismatch its STRUCT and INDEX. -/
  | broken (code : W16) (struct index : Nat)
deriving DecidableEq, Repr

namespace State

def serveAddr (j : Job) (i : Nat) : Nat := j.block.serve + 64 * i

/-- An entry of the serve table under its guard. -/
def serveEntry (s : State) (j : Job) (i : Nat) : Except ServeOut ServeEntry :=
  let bs := s.load (serveAddr j i) 64
  if !isZeroGuard bs then .error (.broken 0x8010 12 i)
  else
    let n := fun o k => leNat ((bs.drop o).take k)
    .ok ⟨n 0 6, n 8 8, n 16 2, bit (n 18 2) 0⟩

def readServe (s : State) (j : Job) (i : Nat) : Except ServeOut ServeEntry :=
  let a := serveAddr j i
  match s.access j ⟨4, dieOf a 0⟩ false false a 64 with
  | .bad c => .error (.broken c 0 0)
  | .wait => .error (.waits a)
  | .ok => s.serveEntry j i

def recCurOk (s : State) (r : Nat) : Bool := s.rdNat (r + 4) 4 == 2 ^ 32 - 1 - s.rdNat r 4
def recGen (s : State) (r : Nat) : Nat := s.rdNat r 2
def recOpen (s : State) (r : Nat) : Bool := bit (s.rdNat r 4) 16
def recBlocks (s : State) (r : Nat) : Nat := s.rdNat (r + 16) 4
def recShard (s : State) (r : Nat) : Nat := s.rdNat (r + 20) 2
def recWfmt (s : State) (r : Nat) : Nat := bits (s.rdNat (r + 22) 2) 11 7
def recW (s : State) (r : Nat) : Nat := s.rdNat (r + 24) 6

/-- Module address that a GET's SRC names on its owner. -/
def serveSrc (j : Job) (w : W64) : Option Nat := if slotForm w then none else niAddr 0 j.block.bases w

/-- The decision on a GET, with the record it reads (R381, R382). -/
def decideGet (s : State) (j : Job) (g : ServeGet) : ServeOut × Nat :=
  if j.block.serveCount ≤ g.entry then (.denied, 0)
  else match s.readServe j g.entry with
    | .error e => (e, 0)
    | .ok e =>
      if !e.valid then (.denied, 0)
      else match s.access j ⟨4, dieOf e.record 0⟩ false false e.record 32 with
        | .bad c => (.broken c 0 0, 0)
        | .wait => (.waits e.record, 0)
        | .ok =>
          if !s.recCurOk e.record then (.broken 0x8010 10 (s.recShard e.record), 0)
          else
            let w := s.recW e.record
            let inside := match serveSrc j g.addr with
              | some a => decide (w ≤ a) && decide (a + g.bytes ≤ w + s.recBlocks e.record * 4096)
              | none => false
            if !inside ∨ g.fmt ≠ s.recWfmt e.record then (.denied, e.record)
            else
              let d := genDiff g.gen (s.recGen e.record)
              if d < 0 then (.gone, e.record)
              else if d = 0 then
                if s.recOpen e.record ∨ (e.relBeat ≠ 0 ∧ genDiff g.gen e.relGen ≤ 0 ∧ e.relBeat ≤ s.beat.pos.toNat)
                then (.gone, e.record)
                else match serveSrc j g.addr with
                  | some a => if s.access j ⟨4, dieOf a 0⟩ false false a g.bytes == .wait then (.waits a, e.record) else (.served, e.record)
                  | none => (.served, e.record)
              else if d = 1 then (.held, e.record)
              else (.ahead, e.record)

/-- The record of this module that asked for a GET whose owner is this module (PEER is the module itself). -/
def askedHere (s : State) (reqId : Nat) : Option (Nat × Occ × Armed) :=
  let d := reqId / 4096
  match s.ni.occs.find? (fun o => o.die == d && o.armed.any (fun a => a.slot == reqId % 4096)) with
  | none => none
  | some o => (o.armed.find? (fun a => a.slot == reqId % 4096)).map (fun a => (d, o, a))

/-- GENERATION_GONE at the requester (R332, R387): RVAL to the ALT counter, the code in NI.FAULT, counted, and the
action complete. -/
def goneAt (d : Nat) (o : Occ) (a : Armed) (s : State) : State :=
  let r := s.trigRec a.recAt
  let s := s.recordFault (Regs.niFault d) (0x5203 + a.index % 4096 * 2 ^ 16 + o.key.toNat * 2 ^ 32)
  let s := s.count 0x5203 d o.job 1
  (s.completeAction d a.slot).addCounter ⟨d, r.ef.toNat % 2 ^ 32, r.rval, o.job, o.key, a.index⟩

/-- The answer to a requester: a message, or for a request of this module its effect at once. -/
def answerGet (g : ServeGet) (kind : Nat) (s : State) : State :=
  if g.source ≠ s.moduleNo then s.sendMsg ⟨g.die, g.source, kind, g.jobId, 0, g.reqId.toNat, []⟩
  else match s.askedHere g.reqId.toNat with
    | none => s
    | some (d, o, a) =>
      if kind = kGone then s.goneAt d o a
      else s.niHalt d o.job (if kind = kAhead then 0x5204 else 0x5205) a.index o.key

/-- The weights of a served GET leave in the owner's format (R381, R382), on the virtual channel of the requester's
record, which a free value gives here (notes/assumptions/44). -/
def serveData (j : Job) (g : ServeGet) (s : State) : State :=
  match serveSrc j g.addr with
  | none => s
  | some a =>
    match s.access j ⟨4, dieOf a 0⟩ false false a g.bytes with
    | .bad c => (((s.accessFault c a ⟨4, dieOf a 0⟩).answerGet g kDenied).niHalt (dieOf a 0 % 4) j.handle c 0 0)
    | _ =>
      let data := s.load a g.bytes
      let s := (s.traffic (niRequester (dieOf a 0 % 4)) j.handle 2 false a g.bytes).bump (Regs.obsNi (dieOf a 0 % 4) 11) (g.bytes / 64)
      if g.source ≠ s.moduleNo then
        (s.tick.sendBytes g.source (2 + Config.freeNat s.freeCtr 0 % 4) g.bytes).out (.message g.source kData g.jobId 0 g.reqId.toNat data)
      else match s.askedHere g.reqId.toNat, s.findJobId g.jobId with
        | some (d, o, x), some j => s.landServed j d o x data
        | _, _ => s

/-- Decide a GET and carry the decision out; `fresh` for one that has just arrived. -/
def actGet (fresh : Bool) (g : ServeGet) (s : State) : State :=
  match s.findJobId g.jobId with
  | none => s
  | some j =>
    match s.decideGet j g with
    | (.served, _) => s.serveData j g
    | (.gone, _) => s.answerGet g kGone
    | (.ahead, _) => s.answerGet g kAhead
    | (.denied, _) => s.answerGet g kDenied
    | (.held, r) =>
      let s := if fresh then s.count 0x5206 (dieOf r 0 % 4) j.handle 1 else s
      { s with ni := { s.ni with serve := s.ni.serve ++ [{ g with record := r, die := dieOf r 0 % 4 }] } }
    | (.waits a, _) => ({ s with ni := { s.ni with serve := s.ni.serve ++ [{ g with record := 0, die := g.die }] } }).wakeFor a
    | (.broken c st i, _) =>
      let s := s.answerGet g kDenied
      if c = 0x8010 then s.niGuard g.die j.handle st i 0 0 else s.niHalt g.die j.handle c 0 0

/-- Held GETs of a record are decided again each time its CUR is written (R381). -/
def recheckServe (r : Nat) (s : State) : State :=
  let l := s.ni.serve.filter (fun g => g.record == r)
  l.foldl (fun st g => st.actGet false g) { s with ni := { s.ni with serve := s.ni.serve.filter (fun g => g.record != r) } }

/-- A job that ends has its held GETs answered SERVE_DENIED (R388). -/
def denyHeld (jobId : W32) (s : State) : State :=
  let l := s.ni.serve.filter (fun g => g.jobId == jobId)
  l.foldl (fun st g => if g.source = st.moduleNo then st else st.answerGet g kDenied)
    { s with ni := { s.ni with serve := s.ni.serve.filter (fun g => g.jobId != jobId) } }

/-- A GET request arrives at an interface of the owner (R340, R381, R388). -/
def getServeEff (g : ServeGet) (s : State) : State :=
  let s := s.quietRestart (fun j => j.block.jobId == g.jobId)
  match s.findJobId g.jobId with
  | none => s.lateData g.die
  | some j =>
    if j.st = .quenching then s.lateData g.die
    else if !j.runs then s.answerGet g kDenied
    else if 2048 ≤ (s.ni.serve.filter (fun x => x.die == g.die)).length then s.answerGet g kRefused
    else s.actGet true g

def generationGoneEff (d slot : Nat) (s : State) : State :=
  match s.askedHere (d * 4096 + slot) with
  | none => s
  | some (d, o, a) =>
    let s := s.quietRestart (fun j => j.handle == o.job)
    if a.asked ∧ !a.complete ∧ (s.trigRec a.recAt).action = 3 then s.goneAt d o a else s

/-- The serve entry that a RELEASE reads: it waits for no bank (R385). -/
def readRelease (s : State) (j : Job) (i : Nat) : Except ServeOut ServeEntry :=
  match s.readServe j i with
  | .error (.waits _) => s.serveEntry j i
  | x => x

/-- A RELEASE entry falls due (R385): one write of REL_GEN and REL_BEAT with their complements, unless it would move
REL_GEN earlier or names no entry. -/
def releaseAct (d : Nat) (e : SchedEntry) (s : State) : State :=
  match s.findJob e.owner with
  | none => s
  | some j =>
    let i := e.target.toNat % 65536
    let gen := e.target.toNat / 65536
    if j.block.serveCount ≤ i then s
    else
      match s.readRelease j i with
      | .error (.broken c st x) => if c = 0x8010 then s.niGuard d j.handle st x 0 0 else s.niHalt d j.handle c 0 0
      | .error _ => s
      | .ok en =>
        if genDiff gen en.relGen < 0 then s
        else
          let a := serveAddr j i
          let bs := s.load a 32
          let lo := bs.take 8 ++ leBytes 8 e.position.toNat ++ leBytes 2 gen ++ bs.drop 18
          (s.save a (lo ++ lo.map (fun b => ~~~b))).traffic (niRequester (dieOf a d % 4)) j.handle 3 true a 64

end State

def execGetServe (d : Die) (source : W16) (jobId : W32) (entry gen : W16) (addr : W64) (bytes : W32) (fmtIn : BitVec 8) (reqId : W32)
    (s : State) : Host.Outcome State Fault Refusal :=
  .next (s.getServeEff ⟨d.val, source.toNat, jobId, entry.toNat, gen.toNat, addr, bytes.toNat, fmtIn.toNat, reqId, 0⟩)
def execGenerationGone (d : Die) (i : Fin 4096) (s : State) : Host.Outcome State Fault Refusal :=
  .next (s.generationGoneEff d.val i.val)
def execReleaseEntry (d : Die) (i : Fin 1024) (s : State) : Host.Outcome State Fault Refusal :=
  .next (s.fireEntry d.val i.val 3 (State.releaseAct d.val))

end Sys2Proof.Machine
end

