-- ==== Sys2Proof/Machine/Collective.lean ====
section
/-! DEFINITION. Collectives (spec/12_collectives.md, R318 to R345): occurrences, their records and actions, READY, JOIN
and the gradient-noise entries. -/

namespace Sys2Proof.Machine
open Sys2Proof.Num

def localPeer : Nat := 0xFFFF

namespace State

/-- PEER is this module (R328). -/
def peerHere (s : State) (r : TrigRec) : Bool := r.peer == localPeer || r.peer == s.moduleNo

/-! ### Arming (R324, R325, R328, R329) -/

/-- Bytes of a data action's destination when it is resolved. -/
def dstBytes (r : TrigRec) : Nat :=
  let n := elemsOf r.fmtIn r.bytes
  if r.action = 6 then r.bytes
  else if slotForm r.dst && fmtPath r.fmtIn then 4 * n else extentOf r.fmtOut n

/-- The die of a local record's destination, where its arrival counter lies (R330). -/
def dstDie (j : Job) (k : KeyRec) (d : Nat) (r : TrigRec) : Nat :=
  match locate j k d r.dst (dstBytes r) with | .ok a => dieOf a d | .error _ => d

/-- The record adds to its arrival counter on this module, and on which die. -/
def rctrDie (s : State) (j : Job) (k : KeyRec) (d : Nat) (r : TrigRec) : Option Nat :=
  if r.rctr = noCounter then none
  else if r.action = 1 ∨ r.action = 2 ∨ r.action = 6 then (if s.peerHere r then some (dstDie j k d r) else none)
  else if r.action = 3 then some (dstDie j k d r)
  else if r.action = 5 ∨ r.action = 7 then some d
  else none

/-- A shared-store location of the NI's die, in address form (R333). -/
def joinLocOk (s : State) (j : Job) (k : KeyRec) (d : Nat) (w : W64) (n : Nat) : Bool :=
  !slotForm w && s.locOk j k d w n && (match locate j k d w n with
    | .ok a => (match placeOf a with | .shared x _ => x == d | _ => false)
    | .error _ => false)

/-- Every location and counter of a record holds at arming. -/
def recordOk (s : State) (j : Job) (k : KeyRec) (d : Nat) (r : TrigRec) : Bool :=
  let src := s.locOk j k d r.src (extentOf r.fmtIn (elemsOf r.fmtIn r.bytes))
  let dst := !s.peerHere r || s.locOk j k d r.dst (dstBytes r)
  counterOk j d r.ctr
    && (match s.rctrDie j k d r with | some x => counterOk j x r.rctr | none => true)
    && (match r.action with
      | 1 => src && dst
      | 2 => src && dst && slotForm r.dst
      | 3 => s.locOk j k d r.dst (dstBytes r) && counterOk j d (r.ef.toNat % 2 ^ 32)
      | 4 => s.locOk j k d r.dst 4
      | 6 => slotForm r.src && s.locOk j k d r.src r.bytes && !slotForm r.ef && s.locOk j k d r.ef r.bytes && dst
      | 7 =>
        let nv := bits r.aux 6 3
        nv == 0 || (s.joinLocOk j k d r.src (8 * nv) && s.joinLocOk j k d r.dst (8 * nv))
      | 8 => slotForm r.src && s.locOk j k d r.src r.bytes
      | 9 => s.locOk j k d r.dst 16
      | _ => true)

/-- Retained slots of a die (R366). -/
def retainedAt (s : State) (d slot : Nat) : Bool := (mfind s.upd.retained (d * 512 + slot)).isSome

def slotsMeet (a na b nb : Nat) : Bool := decide (a < b + nb) && decide (b < a + na)

/-- Conditions 2 and 3 of R324. -/
def claimFree (s : State) (j : Job) (k : KeyRec) (d : Nat) : Bool :=
  let mine := s.ni.occs.filter (fun o => o.job == j.handle && o.die == d)
  !(mine.any (fun o => slotsMeet o.slotFirst o.slotCount (k.firstSlot d) (k.slots d)))
    && !((List.range (k.slots d)).any (fun i => s.retainedAt d (j.niBase d + k.firstSlot d + i)))
    && decide ((mine.map (fun o => o.armed.length)).sum + k.trig d ≤ j.trigCount d)

/-- Triggered-operation slots of a die that no started occurrence holds, lowest first. -/
def freeTrigs (s : State) (d : Nat) : List Nat :=
  let used := (s.ni.occs.filter (fun o => o.die == d)).flatMap (fun o => o.armed.map (fun a => a.slot))
  (List.range 4096).filter (fun i => !used.contains i)

/-- Image offsets of a collective's records on a die. -/
def trigAt (j : Job) (k : KeyRec) (d i : Nat) : Nat := j.image.base + k.trigOff d + 64 * i

/-- An occurrence holds a READY action on some NI of the module (R326). -/
def hasReady (s : State) (j : Job) (k : KeyRec) : Bool :=
  (List.range 4).any (fun d => (List.range (k.trig d)).any (fun i => (s.trigRec (trigAt j k d i)).action == 0x0A))

/-- Every NI that takes part has started the occurrence. -/
def startedAll (s : State) (j : Job) (k : KeyRec) (round : Nat) : Bool :=
  (List.range 4).all (fun d => !k.takesPart d || (s.occOn j.handle d k.key round).isSome
    || s.ni.finished.contains (d, j.handle, round, k.key))

/-- The module's READY to every other member (R326). -/
def sendReady (d : Nat) (j : Job) (k : KeyRec) (round : Nat) (s : State) : State :=
  if s.ni.readySent.contains (j.handle, round, k.key) then s
  else
    let s := { s with ni := { s.ni with readySent := (j.handle, round, k.key) :: s.ni.readySent } }
    ((s.memberList j k.members).filter (fun m => m != s.moduleNo)).foldl (fun st m =>
      let g : NiMsg := ⟨d, m, kReady, k.key, BitVec.ofNat 32 round, 0, leBytes 4 j.block.jobId.toNat ++ leBytes 4 k.sig.toNat⟩
      { (st.sendMsg g) with ni := { (st.sendMsg g).ni with retries := (st.sendMsg g).ni.retries ++ [⟨g, j.handle⟩] } }) s

/-- Counters that an occurrence's records on this NI name as CTR or as an RCTR of this die (R324). -/
def zeroCounters (j : Job) (k : KeyRec) (d : Nat) (s : State) : State :=
  (List.range (k.trig d)).foldl (fun st i =>
    let r := st.trigRec (trigAt j k d i)
    let st := st.wrNat (sharedAddr d r.ctr) 4 0
    if st.rctrDie j k d r = some d then st.wrNat (sharedAddr d r.rctr) 4 0 else st) s

/-- Valid bits of the claimed slots are cleared (R318). -/
def clearSlots (d first n : Nat) (s : State) : State :=
  let lo := d * 524288 + first * 1024
  { s with ni := { s.ni with valid := s.ni.valid.filter (fun l => !(decide (lo ≤ l) && decide (l < lo + n * 1024))) } }

/-- The first check that a counter to be zeroed fails: its bank's mode (R145, R147). -/
def countersAcc (s : State) (j : Job) (k : KeyRec) (d : Nat) : Acc :=
  (List.range (k.trig d)).foldl (fun (acc : Acc) i =>
    let r := s.trigRec (trigAt j k d i)
    let acc := acc.andThen (s.access j ⟨4, d⟩ true false (sharedAddr d r.ctr) 4)
    if s.rctrDie j k d r = some d then acc.andThen (s.access j ⟨4, d⟩ true false (sharedAddr d r.rctr) 4) else acc) .ok

/-- The head starts: one indivisible act (R324). A record that its channel cannot give, or that is poisoned, stops it
(R170, R174). -/
def startOcc (j : Job) (d round ki : Nat) (s : State) : State :=
  let k := s.keyRec j ki
  let recs := (List.range (k.trig d)).map (fun i => trigAt j k d i)
  match (List.range (k.trig d)).find? (fun i => (s.recordAcc (trigAt j k d i) 64).isSome) with
  | some i => s.niHalt d j.handle ((s.recordAcc (trigAt j k d i) 64).getD 0) i k.key
  | none =>
  match (List.range (k.trig d)).find? (fun i => (s.trigRec (trigAt j k d i)).nheader != ~~~(s.trigRec (trigAt j k d i)).header) with
  | some i => s.niGuard d j.handle 7 i i k.key
  | none =>
    match (List.range (k.trig d)).find? (fun i => !s.recordOk j k d (s.trigRec (trigAt j k d i))) with
    | some i => s.niHalt d j.handle 0x4401 i k.key
    | none =>
    match s.countersAcc j k d with
    | .bad c => s.niHalt d j.handle c 0 k.key
    | .wait => (List.range (k.trig d)).foldl (fun st i => st.wakeFor (sharedAddr d (s.trigRec (trigAt j k d i)).ctr)) s
    | .ok =>
      let hk := j.handle.toNat * 4 + d
      let lk := hk * 256 + ki
      let free := s.freeTrigs d
      let armed := (List.range recs.length).map (fun i => (⟨i, recs.getD i 0, free.getD i 0, none, false, false⟩ : Armed))
      let o : Occ := ⟨j.handle, d, k.key, round, ki, k.firstSlot d, k.slots d, armed, false, false⟩
      let s := (s.clearSlots d (j.niBase d + k.firstSlot d) (k.slots d)).zeroCounters j k d
      let (o, seq) := (s.loseReplay j.handle).fireRecords o none
      let s := s.loseReplay j.handle
      let s := { s with ni := { s.ni with
        occs := s.ni.occs ++ [o], fireSeq := seq, heads := mset s.ni.heads hk (round, ki)
        begun := if k.launch then mset s.ni.begun lk (mget s.ni.begun lk 0 + 1) else s.ni.begun
        waited := s.ni.waited.filter (fun x => x != hk), shown := mset s.ni.shown d j.handle } }
      if s.startedAll j k round ∧ !s.hasReady j k then s.sendReady d j k round else s

def occurrenceStartEff (d : Nat) (h : W32) (s : State) : State :=
  match s.findJob h with
  | none => s
  | some j =>
    if j.st ≠ .running ∨ (s.power.st ≠ 0 ∧ s.power.st ≠ 1) then s
    else match s.headOcc j d with
      | none => s
      | some (round, ki) =>
        let k := s.keyRec j ki
        let hk := h.toNat * 4 + d
        let lk := hk * 256 + ki
        match s.recordAcc (j.image.base + j.image.keyOff + 64 * ki) 64 with
        | some c => s.niHalt d h c 0 k.key
        | none =>
        if k.nkey ≠ ~~~k.key then s.niGuard d h 6 ki 0 k.key
        else if j.niCount d < k.firstSlot d + k.slots d ∨ j.trigCount d < k.trig d then s.niHalt d h 0x4411 0 k.key
        else if k.launch ∧ mget s.ni.launches lk 0 ≤ mget s.ni.begun lk 0 then s
        else if !s.claimFree j k d ∨ (s.freeTrigs d).length < k.trig d then
          if s.ni.waited.contains hk then s
          else { (s.count 0x4410 d h 1) with ni := { (s.count 0x4410 d h 1).ni with waited := hk :: s.ni.waited } }
        else s.startOcc j d round ki

/-- A COLLECTIVE_LAUNCH entry falls due: FLAGS names the record (R324). -/
def collectiveLaunchAct (d : Nat) (e : SchedEntry) (s : State) : State :=
  let lk := (e.target.toNat * 4 + d) * 256 + e.flags
  match s.findJob e.target with
  | some _ => { s with ni := { s.ni with launches := mset s.ni.launches lk (mget s.ni.launches lk 0 + 1) } }
  | none => s

/-! ### Actions (R330, R331) -/

/-- The armed record in a triggered-operation slot. -/
def recordIn (s : State) (d slot : Nat) : Option (Occ × Armed) :=
  match s.ni.occs.find? (fun o => o.die == d && o.armed.any (fun a => a.slot == slot)) with
  | none => none
  | some o => (o.armed.find? (fun a => a.slot == slot)).map (fun a => (o, a))

/-- Records of a die that fired before a place and are not complete: each holds an action engine (R318, R331). -/
def firedBefore (s : State) (d p : Nat) : List Armed :=
  ((s.ni.occs.filter (fun o => o.die == d && !o.stopped)).flatMap (fun o => o.armed)).filter (fun a =>
    !a.complete && (match a.fired with | some q => decide (q < p) | none => false))

def isSend (a : Nat) : Bool := a == 1 || a == 2 || a == 6

/-- An earlier send of the die to the same module on the same channel lands first (R331). -/
def sendBehind (s : State) (d p : Nat) (r : TrigRec) : Bool :=
  (s.firedBefore d p).any (fun a =>
    let x := s.trigRec a.recAt
    isSend x.action && x.peer == r.peer && x.vc == r.vc)

/-- Run the action of a fired record: it holds an action engine, its job runs, and its record names this action. -/
def onAction (act d slot : Nat) (f : Job → KeyRec → Occ → Armed → TrigRec → State → State) (s : State) : State :=
  match s.recordIn d slot with
  | none => s
  | some (o, a) =>
    match a.fired, s.findJob o.job with
    | some p, some j =>
      let r := s.trigRec a.recAt
      if r.action ≠ act ∨ a.complete ∨ a.asked ∨ o.stopped ∨ j.st ≠ .running ∨ !s.stepsRun ∨ 64 ≤ (s.firedBefore d p).length then s
      else f j (s.keyRec j o.keyIndex) o a r s
    | _, _ => s

/-- A code met by an action: it stops, its arrival addition is not made, and the code quenches the job (R341). -/
def actFault (d : Nat) (o : Occ) (a : Armed) (c : W16) (addr : Nat) (s : State) : State :=
  (s.accessFault c addr ⟨4, d⟩).niHalt d o.job c a.index o.key

/-- The checks of an NI's own access. -/
def niAcc (s : State) (j : Job) (d a n : Nat) (write : Bool) : Acc := s.access j ⟨4, d⟩ write true a n

/-- The receiver of a send is ready: its READY for the occurrence, or for another die of this module that NI's
start (R331). -/
def sendReadyFor (s : State) (j : Job) (k : KeyRec) (o : Occ) (d : Nat) (r : TrigRec) : Bool :=
  if s.peerHere r then
    let x := dstDie j k d r
    x == d || !k.takesPart x || (s.occOn j.handle x k.key o.round).isSome
      || s.ni.finished.contains (x, j.handle, o.round, k.key)
  else s.ni.readys.any (fun e => e.source == r.peer && e.jobId == j.block.jobId && e.round == o.round && e.key == k.key)
    && s.canSend r.peer r.vc

/-- The destination on this module of a send lies in a bank or a tile that is becoming ON: the send waits before it reads
(R145, R147). -/
def ownWaits (s : State) (j : Job) (k : KeyRec) (d : Nat) (r : TrigRec) : Option Nat :=
  if !s.peerHere r then none
  else match locate j k d r.dst (dstBytes r) with
    | .error _ => none
    | .ok x => if s.access j ⟨4, dieOf x d % 4⟩ true (dieOf x d == d) x (dstBytes r) == .wait then some x else none

/-- A landing on this module: the data, then the arrival addition, then the action's end (R331). -/
def landOwn (j : Job) (k : KeyRec) (o : Occ) (a : Armed) (d : Nat) (r : TrigRec) (reduce : Bool) (fin n : Nat)
    (data : List Byte) (s : State) : State :=
  match locate j k d r.dst (dstBytes r) with
  | .error c => s.niHalt d j.handle c a.index o.key
  | .ok x =>
    match s.landPut j ⟨o.key, o.round, x, d, slotForm r.dst, reduce, dieOf x d == d, fin, fin, n, none⟩ data with
    | .stopped s c => s.niHalt d j.handle c a.index o.key
    | .waits s => s
    | .landed s nan =>
      let s := s.completeAction d a.slot
      let s := if r.rctr = noCounter then s else s.addCounter ⟨dieOf x d, r.rctr, r.rval, j.handle, o.key, a.index⟩
      s.niTrap d j nan a.index o.key

/-- A send's data as it arrives at the peer: where it lands, its wire format, and the arrival addition (R328, R330). -/
def sentWrite (j : Job) (o : Occ) (d : Nat) (r : TrigRec) (data : List Byte) : NiWrite :=
  { jobId := j.block.jobId, round := BitVec.ofNat 32 o.round, key := o.key, dst := r.dst, die := Fin.ofNat 4 d
    fmtIn := BitVec.ofNat 8 r.fmtOut, fmtOut := BitVec.ofNat 8 r.fmtOut, sr := r.sr, stream := r.stream
    reduce := r.action != 1, served := false, atom := if r.action = 6 then some (BitVec.ofNat 9 r.aux) else none
    rctr := BitVec.ofNat 32 r.rctr, rval := BitVec.ofNat 32 r.rval, data := data }

/-- The data leaves for the peer, and the action ends. -/
def sendAway (j : Job) (o : Occ) (a : Armed) (d : Nat) (r : TrigRec) (data : List Byte) (s : State) : State :=
  (((s.sendBytes r.peer r.vc data.length).out (.write r.peer (sentWrite j o d r data))).completeAction d a.slot).bump
    (Regs.obsNi d 11) (data.length / 64)

/-! ### Gradient-noise entries (R339, R344) -/

def gnsLocal (s : State) (d l : Nat) : W32 := BitVec.ofNat 32 (s.field (Regs.gnsA d l) 31 0)
def gnsReduced (s : State) (d l : Nat) : W32 := BitVec.ofNat 32 (s.field (Regs.gnsA d l) 63 32)
def gnsClear (d l : Nat) (s : State) : State := (s.setReg (Regs.gnsA d l) 0).setReg (Regs.gnsB d l) 0x80

/-- The squared norm of values, and its addition to a running sum (R127, R339). -/
def addNorm (tok : Nat) (old : W32) (vs : List FVal) : W32 :=
  accum tok 1 old (dot tok 0 (dotCoef false vs.length) vs.length (vs.map (fun v => (v, v))))

/-- A NORM send (R339). -/
def normSend (d l groups : Nat) (vs : List FVal) (s : State) : State :=
  let v := addNorm s.freeCtr (s.gnsLocal d l) vs
  let n := s.field (Regs.gnsB d l) 6 0
  let s := (s.setField (Regs.gnsA d l) 31 0 v.toNat).tick
  let s := if n < 127 then s.setField (Regs.gnsB d l) 6 0 (n + 1) else s.setField (Regs.gnsB d l) 7 7 0
  if 64 < groups then s.setField (Regs.gnsB d l) 7 7 0 else s

/-! ### SEND, SEND_REDUCE, GET (R330) -/

/-- SEND and SEND_REDUCE: read, convert, and land here or leave. -/
def sendEff (reduce : Bool) (d slot : Nat) (s : State) : State :=
  s.onAction (if reduce then 2 else 1) d slot (fun j k o a r s =>
    let n := elemsOf r.fmtIn r.bytes
    match a.fired, locate j k d r.src (extentOf r.fmtIn n) with
    | some p, .ok x =>
      if s.sendBehind d p r ∨ !s.sendReadyFor j k o d r then s
      else match s.niAcc j d x (extentOf r.fmtIn n) false with
        | .bad c => s.actFault d o a c x
        | .wait => s.wakeFor x
        | .ok =>
          match s.ownWaits j k d r with
          | some y => s.wakeFor y
          | none =>
          let raw := s.load x (rowBytes r.fmtIn n) ++ (if fmtMx r.fmtIn then s.load (x + (rowBytes r.fmtIn n + 63) / 64 * 64) (blocksOf n) else [])
          let vs := wireVals r.fmtIn n raw
          let sr := if r.sr then some (draw j.block.seed 2 r.stream (o.round % 65536)) else none
          let e := if r.fmtIn = r.fmtOut then (⟨raw, [], 0, 0⟩ : Conv) else wireConvert r.fmtIn r.fmtOut sr s.freeCtr n raw
          let s := s.traffic (niRequester d) j.handle (if bit r.header.toNat 13 then 1 else 2) false x (extentOf r.fmtIn n)
          let s := s.tick.countNumeric d j.handle e.sat e.nan 0 0
          let s := if reduce ∧ r.norm then s.normSend d (r.aux % 256) k.groups vs else s
          let data := e.bytes ++ e.scales
          let s := if s.peerHere r then s.landOwn j k o a d r reduce r.fmtOut n data else s.sendAway j o a d r data
          s.niTrap d j e.nan a.index o.key
    | _, _ => s)

/-- GET: ask the owner; the data, or the answer, ends the action (R332, R382). -/
def getEff (d slot : Nat) (s : State) : State :=
  s.onAction 3 d slot (fun j _ o a r s =>
    if s.peerHere r then
      if 2048 ≤ (s.ni.serve.filter (fun x => x.die == d)).length then s.count 0x4431 d j.handle 1
      else (s.askAction d slot).getServeEff ⟨d, s.moduleNo, j.block.jobId, r.aux / 65536, r.aux % 65536, r.src, r.bytes, r.fmtIn,
        BitVec.ofNat 32 (d * 4096 + slot), 0⟩
    else if !s.canSend r.peer 1 then (if r.peer / 8 = s.fabric.group then s else s.openPair r.peer)
    else
      let g : NiMsg := ⟨d, r.peer, kGet, o.key, BitVec.ofNat 32 o.round, a.index,
        leBytes 4 j.block.jobId.toNat ++ leBytes 4 r.aux ++ leBytes 8 r.src.toNat ++ leBytes 4 r.bytes ++ leBytes 1 r.fmtIn
          ++ leBytes 4 (d * 4096 + slot)⟩
      let s := (s.askAction d slot).sendMsg g
      { s with ni := { s.ni with retries := s.ni.retries ++ [⟨g, j.handle⟩] } })

/-! ### SIGNAL, ADD, NORMSQ, GNS_COPY, READY, DONE (R330, R339) -/

def trigSignalEff (d slot : Nat) (s : State) : State :=
  s.onAction 4 d slot (fun j k o a r s =>
    match locate j k d r.dst 4 with
    | .error c => s.niHalt d j.handle c a.index o.key
    | .ok x =>
      if !signalPlaceOk 0 x then s.niHalt d j.handle 0x4401 a.index o.key
      else match s.pieceAcc j ⟨4, d⟩ true false x 4 with
        | .bad c => s.actFault d o a c x
        | .wait => s.wakeFor x
        | .ok => (s.signalAct x 0 r.rval).completeAction d slot)

def addEff (d slot : Nat) (s : State) : State :=
  s.onAction 5 d slot (fun j _ o a r s =>
    let s := s.completeAction d slot
    if r.rctr = noCounter then s else s.addCounter ⟨d, r.rctr, r.rval, j.handle, o.key, a.index⟩)

def normsqEff (d slot : Nat) (s : State) : State :=
  s.onAction 8 d slot (fun j k o a r s =>
    match locate j k d r.src r.bytes with
    | .error c => s.niHalt d j.handle c a.index o.key
    | .ok x =>
      match s.niAcc j d x r.bytes false with
      | .bad c => s.actFault d o a c x
      | .wait => s.wakeFor x
      | .ok =>
        let vs := wireVals 0 (r.bytes / 4) (s.load x r.bytes)
        let v := addNorm s.freeCtr (s.gnsReduced d (r.aux % 256)) vs
        ((s.setField (Regs.gnsA d (r.aux % 256)) 63 32 v.toNat).tick).completeAction d slot)

def gnsCopyEff (d slot : Nat) (s : State) : State :=
  s.onAction 9 d slot (fun j k o a r s =>
    let l := r.aux % 256
    match locate j k d r.dst 16 with
    | .error c => s.niHalt d j.handle c a.index o.key
    | .ok x =>
      match s.niAcc j d x 16 true with
      | .bad c => s.actFault d o a c x
      | .wait => s.wakeFor x
      | .ok => ((s.save x (leBytes 8 (s.regNat (Regs.gnsA d l)) ++ leBytes 8 (s.regNat (Regs.gnsB d l)))).gnsClear d l).completeAction d slot)

def trigReadyEff (d slot : Nat) (s : State) : State :=
  s.onAction 0x0A d slot (fun j k o _ _ s => (s.sendReady d j k o.round).completeAction d slot)

def trigDoneEff (d slot : Nat) (s : State) : State :=
  s.onAction 0x0F d slot (fun _ _ o _ _ s =>
    let s := s.completeAction d slot
    { s with ni := { s.ni with occs := s.ni.occs.map (fun (x : Occ) =>
        if x.job = o.job ∧ x.die = d ∧ x.key = o.key ∧ x.round = o.round then { x with doneFired := true } else x) } })

/-! ### ATOM_SEND (R337) -/

end State

/-- Magnitude order of FP32 words: the codes without their signs. -/
def magOf (w : W32) : Nat := w.toNat % 2 ^ 31

/-- Indices of the `k` values of largest magnitude, ties to the lower index. -/
def topK (k : Nat) (vs : List W32) : List Nat :=
  let rank := fun i => ((List.range vs.length).filter (fun x =>
    decide (magOf (vs.getD i 0) < magOf (vs.getD x 0)) || (magOf (vs.getD i 0) == magOf (vs.getD x 0) && decide (x < i)))).length
  (List.range vs.length).filter (fun i => decide (rank i < k))

/-- Wire bytes of one block, and the BF16 conversions it counts. DESIGN CHOICE (log 28): the scale of a SIGN-mode block
takes the stochastic draw of the block's first element, for R126 gives indices to elements only. -/
def atomEncode (aux : Nat) (round : Nat → Round) (tok : Nat) (vs : List W32) : List Byte × Nat × Nat :=
  if bit aux 8 then
    let sum := vs.foldl (fun (d : Dy) v => d.add (fp32.decode (magOf v)).dy) Dy.zero
    let mean : FVal := if vs.any (fun v => isNan32 v) then .nan else if vs.any (fun v => !isFin32 v) then .inf false
      else fp32.decode (Num.result (Config.freeBit tok 0) false (sum.scale (-5))).toNat
    let (c, k) := bf16.convert (round 0) mean
    let signs := (List.range 32).map (fun i => if bit (vs.getD i 0).toNat 31 && magOf (vs.getD i 0) != 0 then 2 ^ i else 0)
    (leBytes 4 signs.sum ++ leBytes 2 c, satOf k, nanOf k)
  else
    let cs := (topK (aux % 256 + 1) vs).map (fun i => (i, bf16.convert (round i) (fp32.decode (vs.getD i 0).toNat)))
    (cs.flatMap (fun c => leBytes 2 c.1 ++ leBytes 2 c.2.1), (cs.map (fun c => satOf c.2.2)).sum, (cs.map (fun c => nanOf c.2.2)).sum)

namespace State

def wordsAt (s : State) (a n : Nat) : List W32 := (List.range n).map (fun i => BitVec.ofNat 32 (s.loadNat (a + 4 * i) 4))

def atomSendEff (d slot : Nat) (s : State) : State :=
  s.onAction 6 d slot (fun j k o a r s =>
    match a.fired, locate j k d r.src r.bytes, locate j k d r.ef r.bytes with
    | some p, .ok x, .ok e =>
      if s.sendBehind d p r ∨ !s.sendReadyFor j k o d r then s
      else match (s.niAcc j d x r.bytes false).andThen ((s.niAcc j d e r.bytes false).andThen (s.niAcc j d e r.bytes true)) with
        | .bad c => s.actFault d o a c e
        | .wait => (s.wakeFor x).wakeFor e
        | .ok =>
          match s.ownWaits j k d r with
          | some y => s.wakeFor y
          | none =>
          let tok := s.freeCtr
          let s := s.traffic (niRequester d) j.handle (if bit r.header.toNat 13 then 1 else 2) false e r.bytes
          let s := s.traffic (niRequester d) j.handle 3 true e r.bytes
          let m := atomVals r.aux
          let n := r.bytes / 4
          let g := s.wordsAt x n
          let f := s.wordsAt e n
          let v := (List.range n).map (fun i => Num.add tok (3 * i) (g.getD i 0) (f.getD i 0))
          let round := fun i => if r.sr then Round.stochastic (draw j.block.seed 3 r.stream (o.round % 65536) i)
            else Round.faithful (Config.freeBit tok (3 * i + 1))
          let enc := (List.range (n / m)).map (fun b => atomEncode r.aux (fun i => round (b * m + i)) (tok + b) ((v.drop (b * m)).take m))
          let data := enc.flatMap (fun x => x.1)
          let back := atomWords r.aux data
          let left := (List.range n).map (fun i => Num.sub tok (3 * i + 2) (v.getD i 0) (back.getD i 0))
          let s := (s.save e (left.flatMap (fun w => leBytes 4 w.toNat))).tick
          let nan := (enc.map (fun x => x.2.2)).sum
          let s := (s.countNumeric d j.handle (enc.map (fun x => x.2.1)).sum nan 0 0).bump (Regs.obsNi d 14) ((n + 127) / 128)
          let s := if r.norm then s.setField (Regs.gnsB d (r.aux % 256)) 7 7 0 else s
          let s := if s.peerHere r then s.landOwn j k o a d r true 0 n (back.flatMap (fun w => leBytes 4 w.toNat))
            else s.sendAway j o a d r data
          s.niTrap d j nan a.index o.key
    | _, _, _ => s)

/-! ### JOIN (R333) -/

end State


/-- One step of a JOIN's combination (R333). -/
def joinStep (op tok idx : Nat) (a b : W64) : W64 :=
  match op with
  | 1 => a + b
  | 2 => if a.toInt < b.toInt then b else a
  | 3 => if b.toInt < a.toInt then b else a
  | 4 => (Num.add tok idx (a.setWidth 32) (b.setWidth 32)).zeroExtend 64
  | 5 => (Num.maxV (a.setWidth 32) (b.setWidth 32)).zeroExtend 64
  | 6 => a ||| b
  | _ => a &&& b

/-- The first value of an FP32 operation loses its upper half. -/
def joinFirst (op : Nat) (a : W64) : W64 := if op = 4 ∨ op = 5 then (Num.pass (a.setWidth 32)).zeroExtend 64 else a

namespace State

/-- Values received for a JOIN record of an occurrence. -/
def joinVals (s : State) (j : Job) (o : Occ) (index : Nat) : List JoinVals :=
  s.ni.joins.filter (fun v => v.die == o.die && v.jobId == j.block.jobId && v.round == o.round && v.key == o.key && v.index == index)

/-- A JOIN whose members' values have all arrived: the result lands, once its bank is ON, and RVAL is added. -/
def tryJoin (j : Job) (k : KeyRec) (o : Occ) (a : Armed) (s : State) : State :=
  let r := s.trigRec a.recAt
  let mem := s.memberList j k.members
  let got := s.joinVals j o a.index
  if mem.all (fun m => got.any (fun v => v.source == m)) then
    let d := o.die
    let op := r.aux % 8
    let nv := bits r.aux 6 3
    let lists := mem.map (fun m => ((got.find? (fun v => v.source == m)).map (fun v => v.values)).getD [])
    let tok := s.freeCtr
    let res := (List.range nv).map (fun (i : Nat) =>
      match lists with
      | [] => (0 : W64)
      | l :: ls => (ls.foldl (fun (acc : W64 × Nat) (x : List W64) => (joinStep op tok (i * 8192 + acc.2) acc.1 (x.getD i 0), acc.2 + 1))
          (joinFirst op (l.getD i 0), 0)).1)
    let taken := fun (s : State) => { s.tick with ni := { s.ni with joins := s.ni.joins.filter (fun v => !got.contains v) } }
    let ends := fun (s : State) =>
      let s := (taken s).completeAction d a.slot
      if r.rctr = noCounter then s else s.addCounter ⟨d, r.rctr, r.rval, j.handle, o.key, a.index⟩
    if nv = 0 then ends s
    else match locate j k d r.dst (8 * nv) with
      | .error c => (taken s).niHalt d j.handle c a.index o.key
      | .ok x =>
        match s.niAcc j d x (8 * nv) true with
        | .bad c => (((taken s).accessFault c x ⟨4, d⟩)).niHalt d j.handle c a.index o.key
        | .wait => s.wakeFor x
        | .ok => ends (s.save x (res.flatMap (fun (v : W64) => leBytes 8 v.toNat)))
  else s

/-- A bank or a tile has become ON: the additions, the arrivals and the JOIN results that waited are tried again. -/
def retryNi (s : State) : State :=
  let adds := s.ni.adds
  let writes := s.ni.arrivals
  let s := { s with ni := { s.ni with adds := [], arrivals := [] } }
  let s := adds.foldl (fun st x => st.addCounter x) s
  let s := (writes.foldl (fun st w => st.landWrite w) s).recheckServe 0
  s.ni.occs.foldl (fun st o => o.armed.foldl (fun st a =>
    if a.asked && !a.complete && (st.trigRec a.recAt).action == 7 then
      match st.findJob o.job with
      | some j => st.tryJoin j (st.keyRec j o.keyIndex) o a
      | none => st
    else st) st) s

def joinEff (d slot : Nat) (s : State) : State :=
  s.onAction 7 d slot (fun j k o a r s =>
    let nv := bits r.aux 6 3
    let x := match locate j k d r.src (8 * nv) with | .ok x => x | .error _ => 0
    match if nv = 0 then Acc.ok else s.niAcc j d x (8 * nv) false with
    | .bad c => s.actFault d o a c x
    | .wait => s.wakeFor x
    | .ok =>
      let vals := (List.range nv).map (fun i => BitVec.ofNat 64 (s.loadNat (x + 8 * i) 8))
      let own : JoinVals := ⟨d, s.moduleNo, j.block.jobId, o.round, o.key, a.index, vals, false⟩
      let late := s.joinVals j o a.index
      let s := { s with ni := { s.ni with
        joins := own :: s.ni.joins.map (fun v => if late.contains v then { v with early := false } else v) } }
      let s := ((s.memberList j k.members).filter (fun m => m != s.moduleNo)).foldl (fun st m =>
        let g : NiMsg := ⟨d, m, kJoin, o.key, BitVec.ofNat 32 o.round, a.index,
          leBytes 4 j.block.jobId.toNat ++ vals.flatMap (fun v => leBytes 8 v.toNat)⟩
        let st := st.sendMsg g
        { st with ni := { st.ni with retries := st.ni.retries ++ [⟨g, j.handle⟩] } }) (s.askAction d slot)
      s.tryJoin j k o { a with asked := true })

/-- A JOIN message: combined where the local JOIN has fired, else kept in the early-JOIN table of 64 entries, or
refused. -/
def joinMessageEff (v : JoinVals) (s : State) : State :=
  let s := s.quietRestart (fun j => j.block.jobId == v.jobId)
  match s.findJobId v.jobId with
  | none => s.lateData v.die
  | some j =>
    if j.st = .quenching then s.lateData v.die
    else
      let keep := fun (x : JoinVals) (s : State) => { s with ni := { s.ni with joins := s.ni.joins ++ [x] } }
      match s.occOn j.handle v.die v.key v.round with
      | some o =>
        match o.armed.find? (fun a => a.index == v.index && a.asked && !a.complete && (s.trigRec a.recAt).action == 7) with
        | some a => (keep { v with early := false } s).tryJoin j (s.keyRec j o.keyIndex) o a
        | none =>
          if 64 ≤ (s.ni.joins.filter (fun x => x.die == v.die && x.early)).length then
            s.sendMsg ⟨v.die, v.source, kRefused, v.key, BitVec.ofNat 32 v.round, v.index, []⟩
          else keep { v with early := true } s
      | none =>
        if 64 ≤ (s.ni.joins.filter (fun x => x.die == v.die && x.early)).length then
          s.sendMsg ⟨v.die, v.source, kRefused, v.key, BitVec.ofNat 32 v.round, v.index, []⟩
        else keep { v with early := true } s

/-! ### READY, retries and the end of an occurrence (R326, R327, R340) -/

def readyEff (source : Nat) (jobId : W32) (round : Nat) (key sig : W32) (s : State) : State :=
  let s := s.quietRestart (fun j => j.block.jobId == jobId)
  match s.findJobId jobId with
  | none => s.lateData 0
  | some j =>
    if j.st = .quenching then s.lateData 0
    else
      let good := match s.keyIndex j key with
        | none => false
        | some ki =>
          let k := s.keyRec j ki
          k.sig == sig && decide (k.first ≤ round) && decide (round < k.first + k.rounds)
      match s.keyBroken j key with
      | some ki => s.niGuard 0 j.handle 6 ki 0 key
      | none =>
      if !good then s.niHalt 0 j.handle 0x4420 0 key
      else if s.ni.readys.any (fun e => e.source == source && e.jobId == jobId && e.round == round && e.key == key) then s
      else if 8192 ≤ s.ni.readys.length then s.sendMsg ⟨0, source, kRefused, key, BitVec.ofNat 32 round, 0, []⟩
      else { s with ni := { s.ni with readys := s.ni.readys ++ [⟨source, jobId, round, key⟩] } }

/-- A refused message of the die is resent; which of those it may have sent is left open (R326, R332, R333). -/
def niRetryEff (d : Nat) (s : State) : State :=
  let l := s.ni.retries.filter (fun r => r.msg.die == d)
  match l[Config.freeNat s.freeCtr 0 % max 1 l.length]? with
  | none => s
  | some r => ((s.count 0x4431 d r.job 1).tick).sendMsg r.msg

/-- An occurrence that is done on an NI, or stopped by a quench, releases its claim. -/
def occurrenceReleaseEff (d : Nat) (h : W32) (round : Nat) (key : W32) (s : State) : State :=
  match s.occOn h d key round with
  | none => s
  | some o =>
    let quiet := o.armed.all (fun a => a.fired.isNone || a.complete)
    if !o.stopped && !(o.doneFired && quiet) then s
    else
      let unfired := (o.armed.filter (fun a => a.fired.isNone)).length
      let s := if o.stopped then s else (s.count 0x4432 d h unfired).bump (Regs.obsNi d 15) 1
      let s := { s with ni := { s.ni with
        occs := s.ni.occs.filter (fun x => x != o)
        finished := (d, h, round, key) :: s.ni.finished
        retries := s.ni.retries.filter (fun r => !(r.msg.die == d && r.job == h && r.msg.key == key && r.msg.round.toNat == round)) } }
      match s.findJob h with
      | none => s
      | some j =>
        let k := s.keyRec j o.keyIndex
        let s := if (List.range 4).all (fun x => !k.takesPart x || s.ni.finished.contains (x, h, round, key)) then
            { s with ni := { s.ni with
              readys := s.ni.readys.filter (fun e => !(e.jobId == j.block.jobId && e.round == round && e.key == key))
              finished := s.ni.finished.filter (fun x => !(x.2.1 == h && x.2.2.1 == round && x.2.2.2 == key))
              readySent := s.ni.readySent.filter (fun x => x != (h, round, key)) } }
          else s
        s.checkComplete h

/-- The network interfaces keep nothing of a job that has ended. -/
def clearNi (j : Job) (s : State) : State :=
  let s := s.denyHeld j.block.jobId
  let mineH := fun (k : Nat) => k / 4 == j.handle.toNat
  { s with ni := { s.ni with
    heads := s.ni.heads.filter (fun c => !mineH c.1)
    launches := s.ni.launches.filter (fun c => !mineH (c.1 / 256))
    begun := s.ni.begun.filter (fun c => !mineH (c.1 / 256))
    waited := s.ni.waited.filter (fun k => !mineH k)
    occs := s.ni.occs.filter (fun o => o.job != j.handle)
    finished := s.ni.finished.filter (fun x => x.2.1 != j.handle)
    readySent := s.ni.readySent.filter (fun x => x.1 != j.handle)
    readys := s.ni.readys.filter (fun e => e.jobId != j.block.jobId)
    joins := s.ni.joins.filter (fun v => v.jobId != j.block.jobId)
    arrivals := s.ni.arrivals.filter (fun w => w.jobId != j.block.jobId)
    adds := s.ni.adds.filter (fun x => x.job != j.handle)
    retries := s.ni.retries.filter (fun r => r.job != j.handle) } }

/-! ### What the registers read (R342, R343) -/

/-- WAIT of NI.HEAD: 1 launch, 2 slots or trigger slots, 0 none. -/
def headWait (s : State) (j : Job) (d : Nat) (ki : Nat) : Nat :=
  let k := s.keyRec j ki
  let lk := (j.handle.toNat * 4 + d) * 256 + ki
  if k.launch ∧ mget s.ni.launches lk 0 ≤ mget s.ni.begun lk 0 then 1 else if s.claimFree j k d then 0 else 2

def niHeadValue (s : State) (d : Nat) : Nat :=
  match mfind s.ni.shown d with
  | none => 0
  | some h => match s.findJob h with
    | none => 0
    | some j => match s.headOcc j d with
      | none => 0
      | some (round, ki) => (s.keyRec j ki).key.toNat + round % 65536 * 2 ^ 32 + s.headWait j d ki * 2 ^ 48

def niFreeValue (s : State) (d : Nat) : Nat :=
  let mine := s.ni.occs.filter (fun o => o.die == d)
  (512 - (mine.map (fun o => o.slotCount)).sum) + (4096 - (mine.map (fun o => o.armed.length)).sum) * 1024

end State

def execCollectiveLaunch (d : Die) (i : Fin 1024) (s : State) : Host.Outcome State Fault Refusal :=
  .next (s.fireEntry d.val i.val 7 (State.collectiveLaunchAct d.val))
def execOccurrenceStart (d : Die) (handle : W32) (s : State) : Host.Outcome State Fault Refusal :=
  .next (s.occurrenceStartEff d.val handle)
def execReady (source : W16) (jobId round key sig : W32) (s : State) : Host.Outcome State Fault Refusal :=
  .next (s.readyEff source.toNat jobId round.toNat key sig)
def execNiRetry (d : Die) (s : State) : Host.Outcome State Fault Refusal := .next (s.niRetryEff d.val)
def execSend (d : Die) (i : Fin 4096) (s : State) : Host.Outcome State Fault Refusal := .next (s.sendEff false d.val i.val)
def execSendReduce (d : Die) (i : Fin 4096) (s : State) : Host.Outcome State Fault Refusal := .next (s.sendEff true d.val i.val)
def execGet (d : Die) (i : Fin 4096) (s : State) : Host.Outcome State Fault Refusal := .next (s.getEff d.val i.val)
def execTrigSignal (d : Die) (i : Fin 4096) (s : State) : Host.Outcome State Fault Refusal := .next (s.trigSignalEff d.val i.val)
def execAdd (d : Die) (i : Fin 4096) (s : State) : Host.Outcome State Fault Refusal := .next (s.addEff d.val i.val)
def execAtomSend (d : Die) (i : Fin 4096) (s : State) : Host.Outcome State Fault Refusal := .next (s.atomSendEff d.val i.val)
def execJoin (d : Die) (i : Fin 4096) (s : State) : Host.Outcome State Fault Refusal := .next (s.joinEff d.val i.val)
def execJoinMessage (d : Die) (source : W16) (jobId round key : W32) (i : Fin 4096) (values : List W64) (s : State) :
    Host.Outcome State Fault Refusal :=
  .next (s.joinMessageEff ⟨d.val, source.toNat, jobId, round.toNat, key, i.val, values, false⟩)
def execNormsq (d : Die) (i : Fin 4096) (s : State) : Host.Outcome State Fault Refusal := .next (s.normsqEff d.val i.val)
def execGnsCopy (d : Die) (i : Fin 4096) (s : State) : Host.Outcome State Fault Refusal := .next (s.gnsCopyEff d.val i.val)
def execTrigReady (d : Die) (i : Fin 4096) (s : State) : Host.Outcome State Fault Refusal := .next (s.trigReadyEff d.val i.val)
def execDone (d : Die) (i : Fin 4096) (s : State) : Host.Outcome State Fault Refusal := .next (s.trigDoneEff d.val i.val)
def execOccurrenceRelease (d : Die) (handle round key : W32) (s : State) : Host.Outcome State Fault Refusal :=
  .next (s.occurrenceReleaseEff d.val handle round.toNat key)

end Sys2Proof.Machine
end

