-- ==== Sys2Proof/Machine/Exact.lean ====
section
/-! DEFINITION. Exact rational arithmetic that decides whether a solver result meets its bound of R129: norms of whole
results compared without any rounding of the comparison itself. -/

namespace Sys2Proof.Machine
open Sys2Proof.Num

/-- The rational a finite value stands for; infinities and NaNs stand for 0, and no bound speaks of them. -/
def ratOf : FVal → Rat
  | .fin n m e =>
    let x : Rat := if 0 ≤ e then (m * 2 ^ e.toNat : Nat) else mkRat m (2 ^ (-e).toNat)
    if n then -x else x
  | _ => 0

/-- u of R121 in a precision of so many bits: 2^-24 in FP32, 2^-44 in FP32-pair (R129). -/
def unitOf (prec : Nat) : Rat := mkRat 1 (2 ^ (if prec = 24 then 24 else 44))

abbrev RatRows := List (List Rat)

namespace RatRows

def of (m : List (List FVal)) : RatRows := m.map (fun r => r.map ratOf)
def elem (m : RatRows) (i j : Nat) : Rat := (m.getD i []).getD j 0
def make (n k : Nat) (f : Nat → Nat → Rat) : RatRows := (List.range n).map (fun i => (List.range k).map (f i))
def sumTo (n : Nat) (f : Nat → Rat) : Rat := (List.range n).foldl (fun x i => x + f i) 0
/-- The n × n product of matrices of inner dimension n. -/
def mul (n : Nat) (a b : RatRows) : RatRows := make n n (fun i j => sumTo n (fun k => elem a i k * elem b k j))
def transpose (n : Nat) (a : RatRows) : RatRows := make n n (fun i j => elem a j i)
/-- The square of the Frobenius norm. -/
def frob2 (m : RatRows) : Rat := m.foldl (fun x r => r.foldl (fun y v => y + v * v) x) 0

/-- A symmetric n × n matrix is positive definite (`strict`) or semi-definite: every pivot of its elimination is, and a row
with pivot 0 is 0. -/
def posDef (strict : Bool) (n : Nat) (m : RatRows) : Bool :=
  match n with
  | 0 => true
  | k + 1 =>
    let d := elem m 0 0
    if d < 0 then false
    else if d = 0 then
      !strict && (List.range (k + 1)).all (fun j => elem m 0 j == 0) && posDef strict k (make k k (fun i j => elem m (i + 1) (j + 1)))
    else posDef strict k (make k k (fun i j => elem m (i + 1) (j + 1) - elem m (i + 1) 0 * elem m 0 (j + 1) / d))

/-- t · I − m. -/
def below (n : Nat) (t : Rat) (m : RatRows) : RatRows := make n n (fun i j => (if i = j then t else 0) - elem m i j)

/-- ‖m‖₂ ≤ t, for t not negative. -/
def normLe (n : Nat) (m : RatRows) (t : Rat) : Bool := decide (0 ≤ t) && posDef false n (below n (t * t) (mul n (transpose n m) m))
/-- t ≤ ‖m‖₂, for t not negative. -/
def normGe (n : Nat) (m : RatRows) (t : Rat) : Bool := !posDef true n (below n (t * t) (mul n (transpose n m) m))

/-- Where `ok` holds up to some point between `lo` and `hi`: the two ends that so many halvings leave around it. -/
def bisect (fuel : Nat) (ok : Rat → Bool) (lo hi : Rat) : Rat × Rat :=
  match fuel with
  | 0 => (lo, hi)
  | f + 1 => let t := (lo + hi) / 2; if ok t then bisect f ok t hi else bisect f ok lo t

/-- κ of a symmetric positive definite matrix: a value not below the true one, from eigenvalues taken to within 2^-100 of
the trace; none where its smallest eigenvalue does not show as positive. -/
def kappa (n : Nat) (m : RatRows) : Option Rat :=
  let top := sumTo n (fun i => elem m i i)
  let small := (bisect 100 (fun t => posDef false n (make n n (fun i j => elem m i j - (if i = j then t else 0)))) 0 top).1
  let large := (bisect 100 (fun t => !posDef false n (below n t m)) 0 top).2
  if 0 < small then some (large / small) else none

end RatRows

/-- √n from above, within 2^-100. -/
def sqrtUp (n : Nat) : Rat := mkRat (Nat.sqrt (n * 2 ^ 200) + 1) (2 ^ 100)

/-- e_k(κ, p) of R129: what exact arithmetic leaves after k iterations; each step's μ is rounded down to a multiple of
2^-200, so that the value is never below the true one. -/
def rootError (k p : Nat) (kap : Rat) : Rat :=
  let cut := fun (x : Rat) => mkRat (x * 2 ^ 200).floor (2 ^ 200)
  1 - (List.range k).foldl (fun mu _ => cut (mu * ((p + 1 - mu) / p) ^ p)) (cut (1 / kap))

end Sys2Proof.Machine
end

