-- ==== Sys2Proof/Machine/Linalg.lean ====
section
/-! DEFINITION. The arithmetic of the solver engines (R123, R129, R266 to R272): values rounded to FP32 or to the
FP32-pair's precision (R106), sums of products, power iteration, factorisation, substitution, the coupled Newton
iteration and Householder QR. Where the manual leaves a rounding or the order of a sum open, a free value picks
the outcome, and a result that would then miss its bound of R129 comes from the same steps at a greater precision. -/

namespace Sys2Proof.Machine
open Sys2Proof.Num

/-- How a solver operation computes: bits of precision (24 in FP32, 45 in FP32-pair) and its token for free
values. -/
structure Lin where
  prec : Nat
  tok : Nat

abbrev Vec := List FVal
abbrev Rows := List Vec

namespace Lin

def one : FVal := .fin false 1 0
def ofNat (n : Nat) : FVal := .fin false n 0
def item (v : Vec) (i : Nat) : FVal := v.getD i .zero
def elem (m : Rows) (i j : Nat) : FVal := item (m.getD i []) j

/-- An FP32-pair (R106): two FP32 values, the second at most half an ulp of the first. -/
structure Pair where
  hi : FVal
  lo : FVal

/-- A value of at most 48 bits as a pair: the FP32 value nearest to it, and what it leaves, flushed below 2^-126. -/
def pairOf (n : Bool) (m : Nat) (e : Int) : Pair :=
  let sh := Nat.log2 m + 1 - 24
  let q := m / 2 ^ sh
  let r := m % 2 ^ sh
  let up := decide (2 ^ sh < 2 * r) || (decide (2 ^ sh = 2 * r) && q % 2 == 1)
  let hi := FVal.fin n (if up then q + 1 else q) (e + sh)
  let lo := FVal.fin (n != up) (if up then 2 ^ sh - r else r) e
  ⟨hi, if lo.dy.abs.lt ⟨1, -126⟩ then .fin n 0 0 else lo⟩

/-- What a pair stands for. -/
def Pair.val (p : Pair) : FVal := FVal.ofDy (p.hi.dy.add p.lo.dy)

/-- A pair's two words in memory, hi at the lower address (R106). -/
def Pair.words (p : Pair) : List W32 := [p.hi, p.lo].map (fun v => result false (v.neg?) v.dy)

/-- A value rounded at the precision, up where `up` says so, flushed below 2^-126, infinite from 2^128 on (R119, R120). -/
def cut (c : Lin) (up : Bool) (v : FVal) : FVal :=
  match v with
  | .fin n m e =>
    if m = 0 then .fin n 0 0
    else
      let top := (Nat.log2 m : Int) + e
      if top < -126 then .fin n 0 0
      else
        let sh := Nat.log2 m + 1 - c.prec
        let q := m / 2 ^ sh + (if m % 2 ^ sh ≠ 0 ∧ up then 1 else 0)
        if (Nat.log2 q : Int) + e + sh ≥ 128 then .inf n
        else if c.prec = 45 then (pairOf n q (e + sh)).val
        else .fin n q (e + sh)
  | v => v

/-- A value rounded to either of its neighbours at the precision. -/
def rnd (c : Lin) (site : Nat) (v : FVal) : FVal := c.cut (Config.freeBit c.tok site) v

/-- The same steps at a precision whose rounding no bound of R129 can see. -/
def wide (c : Lin) : Lin := { c with prec := 400 }

def add (c : Lin) (site : Nat) (a b : FVal) : FVal :=
  match a, b with
  | .nan, _ => .nan
  | _, .nan => .nan
  | .inf n, .inf m => if n = m then .inf n else .nan
  | .inf n, _ => .inf n
  | _, .inf n => .inf n
  | x, y => c.rnd site (FVal.ofDy (x.dy.add y.dy))

def sub (c : Lin) (site : Nat) (a b : FVal) : FVal := c.add site a b.negate
def mul (c : Lin) (site : Nat) (a b : FVal) : FVal :=
  match a, b with
  | .fin _ _ _, .fin _ _ _ => c.rnd site (mulVal a b)
  | .inf _, .fin _ m _ => if m = 0 then .nan else mulVal a b
  | .fin _ m _, .inf _ => if m = 0 then .nan else mulVal a b
  | _, _ => mulVal a b

def div (c : Lin) (site : Nat) (a b : FVal) : FVal :=
  match a, b with
  | .nan, _ => .nan
  | _, .nan => .nan
  | .inf _, .inf _ => .nan
  | .inf n, y => .inf (n != y.neg?)
  | x, .inf n => .fin (x.neg? != n) 0 0
  | .fin n m e, .fin n' m' e' =>
    if m' = 0 then (if m = 0 then .nan else .inf (n != n'))
    else
      let q := quotDy m m'
      c.rnd site (.fin (n != n') q.m.natAbs (q.e + e - e'))

def sqrt (c : Lin) (site : Nat) (a : FVal) : FVal :=
  match a with
  | .nan => .nan
  | .inf n => if n then .nan else .inf false
  | .fin n m e =>
    if m = 0 then .fin n 0 0 else if n then .nan
    else let q := sqrtDy m e; c.rnd site (.fin false q.m.natAbs q.e)

/-- A sum of products: any value within the matrix row of R127 at the precision. -/
def sum (c : Lin) (site : Nat) (terms : List (FVal × FVal)) : FVal :=
  match special terms with
  | some v => v
  | none =>
    let (p, n) := sumParts terms
    let x := p.sub n
    let bound := (p.add n).mul ⟨dotCoef true terms.length, -(c.prec : Int)⟩
    match fp32.decode (Config.freeWord c.tok site).toNat with
    | .fin n m e =>
      let d : Dy := ⟨if n then -(m : Int) else m, e⟩
      c.rnd site (FVal.ofDy (if d.abs.le bound then x.add d else x))
    | _ => c.rnd site (FVal.ofDy x)

def dots (c : Lin) (site : Nat) (a b : Vec) : FVal := c.sum site (List.zip a b)

/-- Site of the i-th operation under a site. -/
def at' (site i : Nat) : Nat := (site + 1) * 2 ^ 28 + i

def transpose (m : Rows) (cols : Nat) : Rows := (List.range cols).map (fun j => m.map (fun r => item r j))
def identity (n : Nat) : Rows := (List.range n).map (fun i => (List.range n).map (fun j => if i = j then one else .zero))

def matVec (c : Lin) (site : Nat) (a : Rows) (v : Vec) : Vec :=
  (List.range a.length).map (fun i => c.dots (at' site i) (a.getD i []) v)

/-- A product of an m × k by a k × n matrix. -/
def matMul (c : Lin) (site : Nat) (a b : Rows) (n : Nat) : Rows :=
  let bt := transpose b n
  (List.range a.length).map (fun i => (List.range n).map (fun j =>
    c.dots (at' site (i * n + j)) (a.getD i []) (bt.getD j [])))

/-- An elementwise function of a matrix, with the site of each element. -/
def elementwise (site n : Nat) (f : Nat → Nat → Nat → FVal) (rows : Nat) : Rows :=
  (List.range rows).map (fun i => (List.range n).map (fun j => f (at' site (i * n + j)) i j))

def norm2 (c : Lin) (site : Nat) (v : Vec) : FVal := c.sqrt (at' site 1) (c.dots (at' site 0) v v)
def normF (c : Lin) (site : Nat) (a : Rows) : FVal := c.norm2 site a.flatten

/-- One round of the power iteration of R266. -/
def powerStep (c : Lin) (site : Nat) (a : Rows) (x : Vec × FVal) : Vec × FVal :=
  let w := c.matVec (at' site 0) a x.1
  let nu := c.norm2 (at' site 1) w
  match nu with
  | .fin _ 0 _ => (x.1, nu)
  | _ => ((List.range w.length).map (fun i => c.div (at' (at' site 2) i) (item w i) nu), nu)

/-- The 8 rounds from the fixed start vector. -/
def powerRun (c : Lin) (site n : Nat) (a : Rows) : FVal :=
  let s := c.div (at' site 0) one (c.sqrt (at' site 1) (ofNat n))
  ((List.range 8).foldl (fun x k => c.powerStep (at' site (2 + k)) a x) (List.replicate n s, .zero)).2

def isZero : FVal → Bool | .fin _ 0 _ => true | _ => false
def finite (a : Rows) : Bool := a.all (fun r => r.all (fun v => v.isFin))

/-- ν of R266 and R268, which never exceeds ‖a‖₂. -/
def powerNorm (c : Lin) (site n : Nat) (a : Rows) : FVal :=
  let nu := c.powerRun site n a
  if !finite a || !nu.isFin || (RatRows.of a).normGe n (ratOf nu) then nu else c.cut false (c.wide.powerRun site n a)

/-- F of R266, which is never less than ‖a‖₂. -/
def normAbove (c : Lin) (site n : Nat) (a : Rows) : FVal :=
  let f := c.normF site a
  if !finite a || !f.isFin || (RatRows.of a).normLe n (ratOf f) then f else c.cut true (c.wide.normF site a)

/-- σ of R266, or none where the norm is not finite. -/
def sigma (c : Lin) (site n : Nat) (a : Rows) : Option FVal :=
  let f := c.normAbove (at' site 0) n a
  if !f.isFin then none
  else if isZero f then some one
  else
    let nu := c.powerNorm (at' site 1) n a
    if isZero nu then some f
    else
      let x := c.mul (at' site 2) (.fin false 5 (-2)) nu
      some (if ltF f x then f else x)

/-- A ÷ σ + λI (R269, R271, R272), and divided by 1 + λ where `whole` asks for M₀ of R266. -/
def damped (c : Lin) (site n : Nat) (whole : Bool) (a : Rows) (sg la : FVal) : Rows :=
  let k := c.add (at' site 0) one la
  elementwise (at' site 1) n (fun t i j =>
    let x := c.div (at' t 0) (elem a i j) sg
    let x := if i = j then c.add (at' t 1) x la else x
    if whole then c.div (at' t 2) x k else x) n

/-! ### Factorisation (R272) -/

/-- A factor with its counted replacements. -/
structure Factor where
  rows : Rows
  small : Nat
  zero : Nat

/-- The pivot rule of R272: the pivot used, and what it counts. A pivot of 0 yields a non-finite result, which
stands here as a NaN. -/
def pivot (ldlt : Bool) (tau d : FVal) : FVal × Nat × Nat :=
  let z := isZero d
  let sub := if isZero tau then .nan else tau
  if ldlt then
    let mag := match d with | .fin _ m e => FVal.fin false m e | .inf _ => .inf false | .nan => .nan
    if z then (sub, 0, 1)
    else if ltF mag tau then ((if d.neg? then sub.negate else sub), 1, 0)
    else (d, 0, 0)
  else if z then (sub, 0, 1)
  else if ltF d tau then (sub, 1, 0)
  else (d, 0, 0)

/-- Columns of the factor so far, its pivots, what replacing each pivot added to it, and the counts. -/
structure FacSt where
  cols : List Vec
  piv : Vec
  load : List Rat
  small : Nat
  zero : Nat

def facColumn (c : Lin) (site n : Nat) (ldlt : Bool) (tau : FVal) (a : Rows) (j : Nat) (st : FacSt) : FacSt :=
  let row := (List.range j).map (fun k =>
    let l := item (st.cols.getD k []) j
    if ldlt then c.mul (at' (at' site 0) k) l (item st.piv k) else l)
  let upd := fun i => c.sum (at' (at' site 1) i) ((elem a i j, one) ::
    (List.range j).map (fun k => ((item (st.cols.getD k []) i).negate, item row k)))
  let old := upd j
  let (d, sm, z) := pivot ldlt tau old
  let dj := if ldlt then d else c.sqrt (at' site 2) d
  let col := (List.range n).map (fun i =>
    if i < j then FVal.zero else if i = j then (if ldlt then one else dj) else c.div (at' (at' site 3) i) (upd i) dj)
  ⟨st.cols ++ [col], st.piv ++ [d], st.load ++ [ratOf d - ratOf old], st.small + sm, st.zero + z⟩

def facRun (c : Lin) (site n : Nat) (ldlt : Bool) (tau : FVal) (a : Rows) : FacSt :=
  (List.range n).foldl (fun st j => c.facColumn (at' site j) n ldlt tau a j st) ⟨[], [], [], 0, 0⟩

/-- The bound of CHOL and LDLT (R129), A taken after pivot replacement. -/
def facOk (c : Lin) (n : Nat) (ldlt : Bool) (a : Rows) (st : FacSt) : Bool :=
  let l := RatRows.of st.cols
  let target := RatRows.make n n (fun i j => ratOf (elem a i j) + (if i = j then st.load.getD i 0 else 0))
  let back := RatRows.make n n (fun i j => RatRows.sumTo n (fun k =>
    RatRows.elem l k i * RatRows.elem l k j * (if ldlt then ratOf (item st.piv k) else 1)))
  let b := 4 * n * unitOf c.prec
  !finite st.cols || !finite [st.piv] ||
    decide (RatRows.frob2 (RatRows.make n n (fun i j => RatRows.elem target i j - RatRows.elem back i j)) ≤ b * b * RatRows.frob2 target)

/-- The Cholesky or LDLᵀ factor of a symmetric matrix: lower, the upper part 0, with D on the diagonal of the
LDLT layout. It meets its bound of R129. -/
def factor (c : Lin) (site n : Nat) (ldlt : Bool) (tau : FVal) (a : Rows) : Factor :=
  let st := c.facRun site n ldlt tau a
  let ok := c.facOk n ldlt a st
  let st := if ok then st else c.wide.facRun site n ldlt tau a
  ⟨elementwise (at' site n) n (fun u i j =>
      let v := if ldlt && i == j then item st.piv i else item (st.cols.getD j []) i
      if ok then v else c.rnd u v) n, st.small, st.zero⟩

def absVal : FVal → FVal
  | .fin _ m e => .fin false m e
  | .inf _ => .inf false
  | .nan => .nan

/-- The largest magnitude of a diagonal. -/
def maxDiag (d : Vec) : FVal := d.foldl (fun m v => if ltF m (absVal v) then absVal v else m) .zero

/-! ### Substitution -/

/-- Solve T x = b for lower triangular T, or Tᵀ x = b: `diag` is the diagonal used, none for a unit one. -/
def substRun (c : Lin) (site n : Nat) (t : Rows) (diag : Option Vec) (trans : Bool) (b : Vec) : Vec :=
  let order := if trans then (List.range n).reverse else List.range n
  let x := order.foldl (fun (x : List (Nat × FVal)) i =>
    let v := c.sum (at' (at' site 0) i) ((item b i, one) ::
      x.map (fun y => ((if trans then elem t y.1 i else elem t i y.1).negate, y.2)))
    let v := match diag with | some d => c.div (at' (at' site 1) i) v (item d i) | none => v
    (i, v) :: x) []
  (List.range n).map (fun i => ((x.find? (fun y => y.1 == i)).map (fun y => y.2)).getD .zero)

/-- The bound of TRSV and TRSM (R129): some ΔT with |ΔT| ≤ n·u·|T| makes x exact, which holds as each row's remainder is
within n·u of the sum of its products' magnitudes. -/
def substOk (c : Lin) (n : Nat) (t : Rows) (diag : Option Vec) (trans : Bool) (b x : Vec) : Bool :=
  let at_ := fun (i j : Nat) =>
    if i = j then (match diag with | some d => ratOf (item d i) | none => 1)
    else if trans then (if i < j then ratOf (elem t j i) else 0) else if j < i then ratOf (elem t i j) else 0
  let size := fun (x : Rat) => if x < 0 then -x else x
  !finite [x] || (List.range n).all (fun i =>
    let got := RatRows.sumTo n (fun j => at_ i j * ratOf (item x j))
    let mags := RatRows.sumTo n (fun j => size (at_ i j * ratOf (item x j)))
    decide (size (ratOf (item b i) - got) ≤ n * unitOf c.prec * mags))

/-- A substitution that meets its bound of R129. -/
def substitute (c : Lin) (site n : Nat) (t : Rows) (diag : Option Vec) (trans : Bool) (b : Vec) : Vec :=
  let x := c.substRun site n t diag trans b
  if c.substOk n t diag trans b x then x
  else
    let y := c.wide.substRun site n t diag trans b
    (List.range n).map (fun i => c.rnd (at' (at' site 2) i) (item y i))

/-- Diagonal elements of a factor as TRSV and TRSM use them, with the replacements counted once each (R272). -/
def solveDiag (ldlt : Bool) (tauRel : FVal) (c : Lin) (site : Nat) (d : Vec) : Vec × Nat × Nat :=
  let tau := c.mul site tauRel (maxDiag d)
  let ps := d.map (pivot ldlt tau)
  (ps.map (fun p => p.1), (ps.map (fun p => p.2.1)).sum, (ps.map (fun p => p.2.2)).sum)

/-- Solve with L, Lᵀ, or LLᵀ / LDLᵀ as TRI and UNIT say (R262), for one right-hand side. -/
def solveTri (c : Lin) (site n tri : Nat) (unit : Bool) (t : Rows) (diag : Vec) (b : Vec) : Vec :=
  let d := if unit then none else some diag
  if tri = 0 then c.substitute (at' site 0) n t d false b
  else if tri = 1 then c.substitute (at' site 0) n t d true b
  else
    let y := c.substitute (at' site 0) n t d false b
    let y := if unit then (List.range n).map (fun i => c.div (at' (at' site 1) i) (item y i) (item diag i)) else y
    c.substitute (at' site 2) n t d true y

/-! ### The operations -/

/-- Resymmetrise (R268). -/
def symmetric (c : Lin) (site n : Nat) (m : Rows) : Rows :=
  elementwise site n (fun t i j => c.mul (at' t 1) (c.add (at' t 0) (elem m i j) (elem m j i)) (.fin false 1 (-1))) n

/-- One iteration of R268 on (M, X). -/
def rootStep (c : Lin) (site n p : Nat) (x : Rows × Rows) : Rows × Rows :=
  let t := elementwise (at' site 0) n (fun u i j =>
    c.div (at' u 1) (c.sub (at' u 0) (if i = j then ofNat (p + 1) else .zero) (elem x.1 i j)) (ofNat p)) n
  let xs := c.matMul (at' site 1) x.2 t n
  let m := if p = 1 then c.matMul (at' site 2) t x.1 n
    else
      let t2 := c.matMul (at' site 2) t t n
      if p = 2 then c.matMul (at' site 3) t2 x.1 n
      else c.matMul (at' site 4) (c.matMul (at' site 3) t2 t2 n) x.1 n
  (c.symmetric (at' site 5) n m, xs)

/-- x^(−1/p) for p = 1, 2, 4. -/
def invPow (c : Lin) (site p : Nat) (x : FVal) : FVal :=
  let y := if p = 1 then x else if p = 2 then c.sqrt (at' site 0) x else c.sqrt (at' site 1) (c.sqrt (at' site 0) x)
  c.div (at' site 2) one y

/-- The INV_ROOT row of R129 for M_k: ‖I − M_k‖₂ within e_k and the rounding term, where M₀'s spectrum lies in (0, 1]. -/
def rootOk (c : Lin) (n p iters : Nat) (m0 m : Rows) : Bool :=
  let m0 := RatRows.of m0
  match RatRows.kappa n m0 with
  | none => true
  | some k => !finite m || !RatRows.posDef false n (RatRows.below n 1 m0) ||
    RatRows.normLe n (RatRows.below n 1 (RatRows.of m)) (rootError iters p k + 2 * (p + 1) * iters * sqrtUp n * unitOf c.prec)

/-- The iterations of R268, which meet their bound of R129. -/
def rootRun (c : Lin) (site n p iters : Nat) (m0 : Rows) : Rows × Rows :=
  let go := fun (c : Lin) => (List.range iters).foldl (fun s k => c.rootStep (at' site k) n p s) (m0, identity n)
  let y := go c
  if c.rootOk n p iters m0 y.1 then y
  else
    let z := go c.wide
    (elementwise (at' site 110) n (fun u i j => c.rnd u (elem z.1 i j)) n, elementwise (at' site 111) n (fun u i j => c.rnd u (elem z.2 i j)) n)

/-- INV_ROOT from M₀ (R268): the root and its residual. -/
def invRoot (c : Lin) (site n p iters : Nat) (m0 : Rows) (sg la : FVal) : Rows × FVal :=
  let (m, x) := c.rootRun site n p iters m0
  let r := c.powerNorm (at' site 100) n (elementwise (at' site 101) n (fun u i j =>
    c.sub u (if i = j then one else .zero) (elem m i j)) n)
  let f := c.invPow (at' site 102) p (c.mul (at' site 104) (c.add (at' site 103) one la) sg)
  (elementwise (at' site 105) n (fun u i j => c.mul u (elem x i j) f) n, r)

/-- L⁻¹ and L⁻ᵀL⁻¹ from the factor of M (R269). -/
def inverseRun (c : Lin) (site n : Nat) (tau : FVal) (m : Rows) : Rows × Nat × Nat :=
  let f := c.factor (at' site 0) n false tau m
  let diag := (List.range n).map (fun i => elem f.rows i i)
  let li := transpose ((List.range n).map (fun j =>
    c.substitute (at' (at' site 1) j) n f.rows (some diag) false ((List.range n).map (fun i => if i = j then one else .zero)))) n
  (c.matMul (at' site 2) (transpose li n) li n, f.small, f.zero)

/-- The INV row of R129, where no pivot was replaced. -/
def inverseOk (c : Lin) (n : Nat) (m x : Rows) : Bool :=
  let rm := RatRows.of m
  match RatRows.kappa n rm with
  | none => true
  | some k => !finite x || RatRows.normLe n (RatRows.below n 1 (RatRows.mul n (RatRows.of x) rm)) (8 * n * unitOf c.prec * k)

/-- INV from M (R269): the inverse, its residual and the factor's counts. -/
def inverse (c : Lin) (site n : Nat) (tau : FVal) (m : Rows) (sg : FVal) : Rows × FVal × Nat × Nat :=
  let y := c.inverseRun site n tau m
  let (x, smalls, zeros) := if y.2 ≠ (0, 0) ∨ c.inverseOk n m y.1 then y
    else
      let z := c.wide.inverseRun site n tau m
      (elementwise (at' site 7) n (fun u i j => c.rnd u (elem z.1 i j)) n, z.2)
  let xm := c.matMul (at' site 3) x m n
  let r := c.powerNorm (at' site 4) n (elementwise (at' site 5) n (fun u i j =>
    c.sub u (if i = j then one else .zero) (elem xm i j)) n)
  (elementwise (at' site 6) n (fun u i j => c.div u (elem x i j) sg) n, r, smalls, zeros)

/-- A Householder reflector: its vector and the diagonal element of R it makes. -/
def reflector (c : Lin) (site j : Nat) (col : Vec) : Vec × FVal :=
  let x := (List.range col.length).map (fun i => if i < j then FVal.zero else item col i)
  let nrm := c.norm2 (at' site 0) x
  if isZero nrm then (x.map (fun _ => .zero), .zero)
  else
    let al := if (item x j).neg? then nrm else nrm.negate
    (x.set j (c.sub (at' site 1) (item x j) al), al)

/-- Apply I − 2vvᵀ/vᵀv to a vector. -/
def reflect (c : Lin) (site : Nat) (v x : Vec) : Vec :=
  let vv := c.dots (at' site 0) v v
  if isZero vv then x
  else
    let k := c.div (at' site 2) (c.mul (at' site 3) (ofNat 2) (c.dots (at' site 1) v x)) vv
    (List.range x.length).map (fun i => c.sub (at' (at' site 4) i) (item x i) (c.mul (at' (at' site 5) i) k (item v i)))

/-- Reflectors and diagonal of R for the columns of a matrix, with R's columns. -/
def householder (c : Lin) (site : Nat) (cols : List Vec) : List (Vec × FVal) × List Vec :=
  (List.range cols.length).foldl (fun (s : List (Vec × FVal) × List Vec) j =>
    let col := (List.range s.1.length).foldl (fun x k => c.reflect (at' (at' site j) k) ((s.1.getD k ([], .zero)).1) x) (cols.getD j [])
    let h := c.reflector (at' (at' site j) 100000) j col
    (s.1 ++ [h], s.2 ++ [(List.range col.length).map (fun i => if i < j then item col i else if i = j then h.2 else .zero)])) ([], [])

/-- The orthogonal factor of a square matrix, its columns in order and diag(R) made positive (R270). -/
def qrRun (c : Lin) (site n : Nat) (z : Rows) : Rows :=
  let (hs, _) := c.householder (at' site 0) (transpose z n)
  let cols := (List.range n).map (fun j =>
    let e := (List.range n).map (fun i => if i = j then (if (hs.getD j ([], .zero)).2.neg? then one.negate else one) else FVal.zero)
    (List.range n).reverse.foldl (fun x k => c.reflect (at' (at' site (j + 1)) k) ((hs.getD k ([], .zero)).1) x) e)
  transpose cols n

/-- The orthogonal factor after every QR, orthogonal within the bound of R129. The subspace angle that R129 also names is what
the iteration itself gives: nothing further holds it (log 24). -/
def qrQ (c : Lin) (site n : Nat) (z : Rows) : Rows :=
  let q := c.qrRun site n z
  let rq := RatRows.of q
  if !finite q || RatRows.normLe n (RatRows.below n 1 (RatRows.mul n (RatRows.transpose n rq) rq)) (4 * n * unitOf c.prec) then q
  else
    let y := c.wide.qrRun site n z
    elementwise (at' site (n + 1)) n (fun u i j => c.rnd u (elem y i j)) n

/-- EIGBASIS from M₀ (R270): Q, the estimates and the residual. -/
def eigBasis (c : Lin) (site n iters : Nat) (m0 q0 : Rows) (sg la : FVal) : Rows × Vec × FVal :=
  let q := (List.range iters).foldl (fun q k => c.qrQ (at' (at' site 0) k) n (c.matMul (at' (at' site 1) k) m0 q n)) q0
  let z := c.matMul (at' site 2) m0 q n
  let qt := transpose q n
  let zt := transpose z n
  let d := (List.range n).map (fun j => c.dots (at' (at' site 3) j) (qt.getD j []) (zt.getD j []))
  let res := elementwise (at' site 4) n (fun u i j => c.sub (at' u 1) (elem z i j) (c.mul (at' u 0) (elem q i j) (item d j))) n
  let r := c.div (at' site 5) (c.normF (at' site 6) res) (c.normF (at' site 7) m0)
  let k := c.mul (at' site 9) (c.add (at' site 8) one la) sg
  (q, (List.range n).map (fun j => c.mul (at' (at' site 10) j) (item d j) k), r)

/-- SOLVE_LS (R271) with J's columns, r, σ and the damping: the solution and the factor's counts. -/
def leastSquares (c : Lin) (site n : Nat) (qr : Bool) (tauRel : FVal) (j : Rows) (r : Vec) (h : Rows) (sg la : FVal) :
    Vec × Nat × Nat :=
  let jt := transpose j n
  if qr then
    let k := c.sqrt (at' site 0) (c.mul (at' site 1) la sg)
    let cols := (List.range n).map (fun a => (jt.getD a []) ++ (List.range n).map (fun i => if i = a then k else FVal.zero))
    let (hs, rc) := c.householder (at' site 2) cols
    let b := (List.range n).foldl (fun x a => c.reflect (at' (at' site 3) a) ((hs.getD a ([], .zero)).1) x) (r ++ List.replicate n .zero)
    let rt := rc.map (fun col => col.take n)
    -- R is upper triangular: its columns are the rows of a lower triangular matrix
    (c.substitute (at' site 4) n rt (some ((List.range n).map (fun i => elem rt i i))) true (b.take n), 0, 0)
  else
    let g := (List.range n).map (fun a => c.dots (at' (at' site 5) a) (jt.getD a []) r)
    let m := c.damped (at' site 6) n false h sg la
    let f := c.factor (at' site 7) n false (c.mul (at' site 8) tauRel (maxDiag ((List.range n).map (fun i => elem m i i)))) m
    let d := (List.range n).map (fun i => elem f.rows i i)
    let y := c.solveTri (at' site 9) n 2 false f.rows d g
    ((List.range n).map (fun i => c.div (at' (at' site 10) i) (item y i) sg), f.small, f.zero)

end Lin
end Sys2Proof.Machine
end

