-- ==== Sys2Proof/Machine/Transfer.lean ====
section
/-! DEFINITION. The transfer engine and the stack channels: TE_COPY (R84 to R88, with the conversions of
spec/04), TE_DISPATCH and TE_ROWCOPY (R390 to R393), and the requests of the channels (R155 to R163, R170). -/

namespace Sys2Proof.Machine
open Sys2Proof.Num

/-! ### Channel states (R171, R174, R177) -/

namespace State

def setChannel (st pch : Nat) (c : ChSt) (s : State) : State :=
  { s with stk := { s.stk with chSt := mset s.stk.chSt (st * 132 + pch) c } }

/-- The lowest SPARE channel of a stack. -/
def freeSpare (s : State) (st : Nat) : Option Nat :=
  ([128, 129, 130, 131]).find? (fun p => s.chState st p == .spare)

/-- A channel needs replacement and its stack has no spare left (R177). -/
def noteSpares (st : Nat) (s : State) : State :=
  if (s.freeSpare st).isNone then s.report 0x3223 (0x600 + st) else s

/-- A channel becomes DEGRADED (R171). -/
def degrade (st pch : Nat) (s : State) : State :=
  if s.chState st pch = .ok then ((s.setChannel st pch .degraded).report 0x3221 (0x600 + st)).noteSpares st else s

end State

/-- Channel-local address of a stack offset (R157). -/
def localAddr (o : Nat) : Nat := o / 32768 * 256 + o % 256

/-- Row of a channel-local address, over the 16 banks of the channel; rows are 2 KiB (R154). -/
def rowOf (local_ : Nat) : Nat := local_ / 2048
def bankOfRow (row : Nat) : Nat := row % 16

namespace State

/-- A corrected error counts toward the thresholds of the pass, whoever reads (R171). -/
def noteCorrected (st off : Nat) (s : State) : State :=
  let pch := s.physCh st (channelOf off)
  let kc := st * 132 + pch
  let kr := kc * 2 ^ 20 + rowOf (localAddr off)
  let nc := mget s.stk.corrCh kc 0 + 1
  let nr := mget s.stk.corrRow kr 0 + 1
  let s := { s with stk := { s.stk with corrCh := mset s.stk.corrCh kc nc, corrRow := mset s.stk.corrRow kr nr } }
  if 16 < nr ∨ 256 < nc then s.degrade st pch else s

/-- An uncorrectable error in a row whose bank has no spare row left degrades its channel (R171). -/
def noteUncorrectable (st off : Nat) (s : State) : State :=
  let pch := s.physCh st (channelOf off)
  if 8 ≤ mget s.stk.rowsUsed ((st * 132 + pch) * 16 + bankOfRow (rowOf (localAddr off))) 0 then s.degrade st pch else s

/-! ### Requests of the channels (R159 to R163, R170) -/

/-- A request goes out on the counters of its tile's transfer engine (R506). -/
def countReq (tile : Nat) (r : Req) (s : State) : State := s.bump (Regs.obsTile tile 2 (if r.atom then 12 else 11)) 1

/-- A transfer thread issues its requests while fewer than 16 are outstanding and none waits to be accepted (R163). -/
def issueReqs (fuel k : Nat) (s : State) : State :=
  match fuel with
  | 0 => s
  | f + 1 =>
    let t := s.thread k
    match t.unissued with
    | [] => s
    | r :: rest =>
      if 16 ≤ t.outstanding ∨ s.stk.waiting.any (fun c => c.2.any (fun r => r.thread == k)) then s
      else (((s.mapThread k (fun t => { t with unissued := rest })).countReq (k / 28) r).postReq r).issueReqs f k

/-- A channel's requests with the i-th promoted one class; a read raises the writes it waits for (R159, R160). -/
def promote (i : Nat) (q : List Req) : List Req :=
  match q[i]? with
  | none => q
  | some r =>
    let r' := { r with cls := r.cls - 1 }
    raiseWrites r' (q.take i) ++ r' :: q.drop (i + 1)

/-- The i-th accepted request of a channel has waited 8 µs and moves up one class (R159). -/
def promoteEff (c i : Nat) (s : State) : State :=
  let q := mget s.stk.queues c []
  match q[i]? with
  | none => s
  | some r =>
    if r.cls ≤ 1 then s
    else ({ s with stk := { s.stk with queues := mset s.stk.queues c (promote i q) } }).bump
      (Regs.obsChannel (c / 128) (c % 128) 5) 1

def poisonAtom (a : Nat) (s : State) : State :=
  let b := a / 64 * 64
  { s with stk := { s.stk with poison := if s.stk.poison.contains b then s.stk.poison else b :: s.stk.poison } }

/-- What the ECC of an atom shows to a read (R170, R171): corrected and counted, or poisoned with the code raised. -/
def eccRead (a : Nat) (h : W32) (e : Ecc) (s : State) : State × Option W16 :=
  let st := a / 0xC00000000
  let off := a % 0xC00000000
  match e with
  | .clean => (s, none)
  | .single => (((s.count 0x3210 (st / 2) h 1).bump (Regs.obsChannel st (channelOf off) 7) 1).noteCorrected st off, none)
  | .double => ((s.poisonAtom a).noteUncorrectable st off, some 0x3211)
  | .addrCheck => ((s.poisonAtom a).noteUncorrectable st off, some 0x3212)

/-- The atom that an error of a request's read lies in: the request's own, or one of the four of a streaming request,
which a free value chooses. -/
def errAtom (s : State) (r : Req) : Nat := if r.atom then r.addr else r.addr + 64 * (Config.freeNat s.freeCtr 0 % 4)

/-- A request reads at the channel: a read, or the read-modify-write of less than an atom (R161). -/
def reqReads (r : Req) : Bool := !r.write || (r.atom && decide (r.len < 64))

end State

/-! ### TE_COPY (R84 to R88) -/

/-- A transfer record with its addresses resolved. -/
structure CopyRec where
  src : Nat
  dst : Nat
  elems : Nat
  rows : Nat
  spitch : Nat
  dpitch : Nat
  sscale : Nat
  dscale : Nat
  fin : Nat
  fout : Nat
  flags : Nat
  runahead : Nat
  stream : W32
  gen : Nat
  scpitch : Nat
  status : Nat
deriving DecidableEq, Repr

def CopyRec.sr (r : CopyRec) : Bool := bit r.flags 0
def CopyRec.lat (r : CopyRec) : Bool := bit r.flags 1
def CopyRec.cached (r : CopyRec) : Bool := bit r.flags 2
def CopyRec.gather (r : CopyRec) : Bool := bit r.flags 3
def CopyRec.statusEn (r : CopyRec) : Bool := bit r.flags 4

/-- The same code on both sides, and the same scale word for per-tensor FP8, copies the data unchanged (R85). -/
def CopyRec.raw (r : CopyRec) : Bool := r.fin == r.fout && (!fmtTensor r.fin || r.sscale == r.dscale)

/-- Elements of a destination row with its padding (R107). -/
def CopyRec.outElems (r : CopyRec) : Nat := if fmtMx r.fout then blocksOf r.elems * 32 else r.elems
def CopyRec.srcBytes (r : CopyRec) : Nat := rowBytes r.fin r.elems
def CopyRec.dstBytes (r : CopyRec) : Nat := rowBytes r.fout r.outElems

/-- The ranges of the record's fields (R84 to R86, R101, R111). -/
def copyFieldsOk (bs : List Byte) (r : CopyRec) : Bool :=
  let mx := fmtMx r.fin || fmtMx r.fout
  decide (1 ≤ r.elems) && decide (r.elems ≤ 2 ^ 24) && decide (1 ≤ r.rows) && decide (r.rows ≤ 65536)
    && (r.rows != 1 || (r.spitch == 0 && r.dpitch == 0))
    && fmtDefined r.fin && fmtDefined r.fout
    && ((fmtPath r.fin && fmtPath r.fout) || r.fin == r.fout)
    && decide (r.flags < 32) && decide (r.runahead ≤ 64) && (r.runahead == 0 || r.cached)
    && (if r.rows = 1 ∨ !mx then r.scpitch == 0 else decide (blocksOf r.elems ≤ r.scpitch))
    && (!fmtMx r.fin || r.elems % 32 == 0)
    && (fmtMx r.fin || fmtTensor r.fin || leNat ((bs.drop 32).take 8) == 0)
    && (fmtMx r.fout || fmtTensor r.fout || leNat ((bs.drop 40).take 8) == 0)
    && (!r.statusEn || (r.status % 4 == 0 && decide (r.status < 0x400000)))
    && decide ((r.rows - 1) * r.spitch + r.srcBytes ≤ 16777216) && decide ((r.rows - 1) * r.dpitch + r.dstBytes ≤ 16777216)

/-- The extent of an alias window starts and ends on a word, row by row (R141). -/
def aliasOk (a pitch n : Nat) : Bool := windowOf a == 0 || (a % 4 == 0 && pitch % 4 == 0 && n % 4 == 0)

/-- TE_COPY reaches neither tile buffers nor pin views; the rows of an alias extent start and end on a word (R85, R141). -/
def copyPlaceOk (a pitch rows n : Nat) : Bool :=
  (List.range rows).all (fun i => match placeOf (a + i * pitch) with
    | .tbuf _ _ => false
    | .pinView _ _ _ => false
    | _ => true) && aliasOk a pitch n

/-- The alignment of an element in bytes; packed rows need a whole byte (R85). -/
def fmtAlign (c : Nat) : Nat := max 1 (fmtBits c / 8)

/-- Places and alignment of both sides, and of the scale arrays in alias windows (R85, R141). -/
def copySidesOk (r : CopyRec) : Bool :=
  copyPlaceOk r.src r.spitch r.rows r.srcBytes && copyPlaceOk r.dst r.dpitch r.rows r.dstBytes
    && r.src % fmtAlign r.fin == 0 && r.spitch % fmtAlign r.fin == 0
    && r.dst % fmtAlign r.fout == 0 && r.dpitch % fmtAlign r.fout == 0
    && (!fmtMx r.fin || aliasOk r.sscale r.scpitch (blocksOf r.elems)) && (!fmtMx r.fout || aliasOk r.dscale r.scpitch (blocksOf r.elems))
    && (!fmtTensor r.fin || aliasOk r.sscale 0 4) && (!fmtTensor r.fout || aliasOk r.dscale 0 4)

def readCopyRec (t : ThreadId) (bases : List (BitVec 48)) (bs : List Byte) : Option CopyRec :=
  let n := fun o k => leNat ((bs.drop o).take k)
  let ad := fun o => resolveAddr t bases (BitVec.ofNat 64 (n o 8))
  match ad 0, ad 8, ad 32, ad 40 with
  | some s, some d, some ss, some ds =>
    some ⟨s, d, n 16 4, n 20 4, n 24 4, n 28 4, ss, ds, n 48 1, n 49 1, n 50 1, n 51 1, BitVec.ofNat 32 (n 52 4), n 56 2, n 58 2, n 60 4⟩
  | _, _, _, _ => none

/-- Iterations that the innermost loop has completed (R126). -/
def loopIter (t : Thread) : Nat :=
  match t.loops with
  | [] => 0
  | l :: _ => l.count - l.remaining

/-! ### Rows of a transfer -/

namespace State

/-- Read through the data cache where the command is cached and the place allows it (R86, R142). -/
def teLoad (k : Nat) (cached : Bool) (tile a n : Nat) (s : State) : List Byte × State :=
  if cached && cacheable a then s.cacheRead k tile a n else (s.load a n, s)

/-- Write; an uncached write first writes back and invalidates the tile's own lines of the range (R143). -/
def teSave (k : Nat) (cached : Bool) (tile a : Nat) (bs : List Byte) (s : State) : State :=
  if bs.isEmpty then s
  else if cached && cacheable a then s.cacheWrite k tile a bs
  else (let s := if cacheable a then s.cacheInvalidate k tile a bs.length else s; s.save a (s.keepRelease a bs))

/-- The same for a row of transfer command `cmd`: to stacked memory it becomes write requests that carry the bytes. -/
def putRow (k cmd : Nat) (cached gather : Bool) (tile a : Nat) (bs : List Byte) (s : State) : State :=
  match placeOf a with
  | .stack _ _ =>
    if bs.isEmpty ∨ cached then s.teSave k cached tile a bs
    else (s.cacheInvalidate k tile a bs.length).mapThread k (fun x =>
      { x with unissued := x.unissued ++ requestsOf k x.job 3 cmd gather true a bs.length bs })
  | _ => s.teSave k cached tile a bs

/-- The accesses of row `i`: source, destination and scale rows, in that order, with their writes. -/
def copyRow (r : CopyRec) (i : Nat) : List (Nat × Nat × Bool) :=
  [(r.src + i * r.spitch, r.srcBytes, false)]
    ++ (if fmtMx r.fin then [(r.sscale + i * r.scpitch, blocksOf r.elems, false)] else [])
    ++ (if fmtTensor r.fin then [(r.sscale, 4, false)] else [])
    ++ (if fmtTensor r.fout then [(r.dscale, 4, false)] else [])
    ++ [(r.dst + i * r.dpitch, r.dstBytes, true)]
    ++ (if fmtMx r.fout then [(r.dscale + i * r.scpitch, blocksOf r.elems, true)] else [])

/-- Check a list of accesses of a tile's transfer engine; the first that fails gives its code, and the address at which
the piece that fails starts. -/
def checkAll (s : State) (j : Job) (w : Who) (l : List (Nat × Nat × Bool)) : Acc × Nat :=
  l.foldl (fun acc x =>
    match acc.1 with
    | .bad _ => acc
    | _ =>
      let owned := windowOf x.1 == 0
      match s.access j w x.2.2 owned x.1 x.2.1 with
      | .ok => acc
      | y => (acc.1.andThen y, match (pieces x.1 x.2.1).find? (fun p => s.pieceAcc j w x.2.2 owned p.1 p.2 == y) with
          | some p => p.1 | none => x.1)) (.ok, 0)

/-- Source and destination extents overlap (R85): first and last byte + 1 of the overlap. -/
def copyOverlap (r : CopyRec) : Option (Nat × Nat) :=
  let lo := max r.src r.dst
  let hi := min (r.src + (r.rows - 1) * r.spitch + r.srcBytes) (r.dst + (r.rows - 1) * r.dpitch + r.dstBytes)
  if lo < hi then some (lo, hi) else none

/-- The destination holds unspecified data where the extents overlap (R85). -/
def spoilOverlap (r : CopyRec) (tok a : Nat) (bs : List Byte) : List Byte :=
  match copyOverlap r with
  | none => bs
  | some (lo, hi) => (List.zip (List.range bs.length) bs).map (fun x =>
      if lo ≤ a + x.1 ∧ a + x.1 < hi then Config.freeByte tok x.1 else x.2)

/-- The source row of a transfer: of the extent as it was at issue where the destination overlaps it. -/
def sourceRow (k tile : Nat) (r : CopyRec) (p : CopyProg) (s : State) : List Byte × State :=
  match p.snap with
  | some bs => ((bs.drop (p.row * r.spitch)).take r.srcBytes, s)
  | none => s.teLoad k r.cached tile (r.src + p.row * r.spitch) r.srcBytes

/-- A row's outcome: a code that stopped it, or what it counted, with the state. -/
structure RowRun where
  st : State
  code : Option (W16 × Nat)
  sat : Nat
  nan : Nat

/-- Copy the row that is next, converting it (R85, R115 to R117). DEDUCED (log 85): a per-tensor scale word that breaks
R110 is found when the row reads it, so it is a fault during the command: what is written stays, the rest of the
destination is unspecified and the status word carries the code. -/
def copyRowEff (k tile : Nat) (seed : W64) (gen : Nat) (r : CopyRec) (p : CopyProg) (s : State) : RowRun :=
  let i := p.row
  let (row, s) := s.sourceRow k tile r p
  let (sc, s) := if fmtMx r.fin then s.teLoad k r.cached tile (r.sscale + i * r.scpitch) (blocksOf r.elems) else ([], s)
  let (tin, s) := if fmtTensor r.fin then s.teLoad k r.cached tile r.sscale 4 else (leBytes 4 0x3F800000, s)
  let (tout, s) := if fmtTensor r.fout then s.teLoad k r.cached tile r.dscale 4 else (leBytes 4 0x3F800000, s)
  let tok := s.freeCtr
  let s := s.tick
  let da := r.dst + i * r.dpitch
  if !tensorScaleOk (leNat tin) ∨ !tensorScaleOk (leNat tout) then ⟨s, some (0x1113, r.sscale), 0, 0⟩
  else if r.raw then
    let s := s.putRow k p.cmd r.cached r.gather tile da (spoilOverlap r tok da row)
    ⟨if fmtMx r.fout then s.putRow k p.cmd r.cached r.gather tile (r.dscale + i * r.scpitch) sc else s, none, 0, 0⟩
  else
    let narrow := r.fout != 0 && r.fout != 0xB && r.fout != 0xC
    let sr := if r.sr && narrow then some (draw seed 1 r.stream gen) else none
    let e := convertRow r.fin r.fout row sc (leNat tin) (leNat tout) sr tok (i * r.outElems) r.elems
    let s := s.putRow k p.cmd r.cached r.gather tile da (spoilOverlap r (tok + 1) da e.bytes)
    let s := if fmtMx r.fout then s.putRow k p.cmd r.cached r.gather tile (r.dscale + i * r.scpitch) e.scales else s
    ⟨(s.tick).bump (Regs.obsTile tile 2 15) (r.srcBytes / 64), none, e.sat, e.nan⟩

end State

/-! ### TE_ROWCOPY's record (R393) -/

structure RowRec where
  list : Nat
  src : Nat
  dst : Nat
  rows : Nat
  rowBytes : Nat
  srcRows : Nat
  spitch : Nat
  dpitch : Nat
  lstride : Nat
deriving DecidableEq, Repr

def readRowRec (t : ThreadId) (bases : List (BitVec 48)) (bs : List Byte) : Option RowRec :=
  let n := fun o k => leNat ((bs.drop o).take k)
  let ad := fun o => resolveAddr t bases (BitVec.ofNat 64 (n o 8))
  match ad 0, ad 8, ad 16 with
  | some l, some a, some d =>
    let r : RowRec := ⟨l, a, d, n 24 4, n 28 4, n 32 4, n 36 4, n 40 4, n 44 1⟩
    if 1 ≤ r.rows ∧ r.rows ≤ 256 ∧ 64 ≤ r.rowBytes ∧ r.rowBytes ≤ 65536 ∧ r.rowBytes % 64 = 0
        ∧ r.rows * r.rowBytes ≤ 65536 ∧ (r.lstride = 4 ∨ r.lstride = 8) ∧ n 45 3 = 0 ∧ n 48 8 = 0 ∧ n 56 8 = 0
        ∧ aliasOk r.src r.spitch r.rowBytes ∧ copyPlaceOk r.dst r.dpitch r.rows r.rowBytes
        ∧ copyPlaceOk r.list r.lstride r.rows 4 then some r else none
  | _, _, _ => none

namespace State

def rowIndex (s : State) (r : RowRec) (i : Nat) : Nat := s.loadNat (r.list + i * r.lstride) 4

/-- Accesses of row i: its list word, its source row where it has one, and its destination row. -/
def rowAccesses (s : State) (r : RowRec) (i : Nat) : List (Nat × Nat × Bool) :=
  let x := s.rowIndex r i
  [(r.list + i * r.lstride, 4, false)]
    ++ (if x < r.srcRows then [(r.src + x * r.spitch, r.rowBytes, false)] else [])
    ++ [(r.dst + i * r.dpitch, r.rowBytes, true)]

/-- TE_ROWCOPY's row: the source row that its list word names, or zeros; a word out of range but for 0xFFFFFFFF counts. -/
def rowcopyRow (k tile : Nat) (r : RowRec) (p : CopyProg) (s : State) : RowRun :=
  let x := s.rowIndex r p.row
  let data := if x < r.srcRows then s.load (r.src + x * r.spitch) r.rowBytes else List.replicate r.rowBytes 0
  ⟨s.putRow k p.cmd false false tile (r.dst + p.row * r.dpitch) data, none, 0, if r.srcRows ≤ x ∧ x ≠ 0xFFFFFFFF then 1 else 0⟩

end State

/-! ### Transfers in progress (R86 to R88, R98, R163) -/

/-- A transfer command's record. -/
inductive TxRec where
  | copy (r : CopyRec)
  | rows (r : RowRec)

namespace TxRec
def count : TxRec → Nat | .copy r => r.rows | .rows r => r.rows
def dest : TxRec → Nat → Nat × Nat
  | .copy r, i => (r.dst + i * r.dpitch, r.dstBytes) | .rows r, i => (r.dst + i * r.dpitch, r.rowBytes)
def accesses (s : State) (i : Nat) : TxRec → List (Nat × Nat × Bool)
  | .copy r => State.copyRow r i | .rows r => s.rowAccesses r i
/-- The status word that it writes at its end. -/
def status (tile : Nat) : TxRec → Option Nat
  | .copy r => if r.statusEn then some (scratchAddr tile r.status) else none
  | .rows _ => none
end TxRec

namespace State

/-- The record of a thread's transfer in progress. -/
def txRec (s : State) (t : ThreadId) (j : Job) (bases : List (BitVec 48)) (p : CopyProg) : Option TxRec :=
  let bs := s.rd (j.image.base + p.recAt) 64
  if p.op = 0x20 then (readCopyRec t bases bs).map TxRec.copy else (readRowRec t bases bs).map TxRec.rows

/-- Reads of missing lines: four that fill an aligned 256 bytes go as one streaming request. -/
def lineReqs (k : Nat) (h : W32) (cls cmd : Nat) (lines : List Nat) : List Req :=
  lines.filterMap (fun a =>
    let g := a / 256 * 256
    let whole := [g, g + 64, g + 128, g + 192].all (fun x => lines.contains x)
    if !whole then some ⟨k, h, cls, true, a, 64, false, [], cmd⟩
    else if a = g then some ⟨k, h, cls, false, g, 256, false, [], cmd⟩ else none)

/-- The stack reads of a row: for cached data the lines that the data cache lacks. -/
def rowReads (s : State) (k tile : Nat) (h : W32) (p : CopyProg) (tx : TxRec) : List Req :=
  let reads := (tx.accesses s p.row).filter (fun x => !x.2.2)
  match tx with
  | .rows _ => reads.flatMap (fun x => requestsOf k h 2 p.cmd false false x.1 x.2.1 [])
  | .copy r =>
    let cls := if r.lat then 1 else 2
    reads.flatMap (fun x =>
      if r.cached && cacheable x.1 then
        (match placeOf x.1 with
          | .stack _ _ => lineReqs k h cls p.cmd ((linesOf x.1 x.2.1).filter (fun a => !s.cacheHolds tile a))
          | _ => [])
      else requestsOf k h cls p.cmd r.gather false x.1 x.2.1 [])

/-- Run-ahead (R168): class 4 reads of the lines behind the demand row, inside the extent and the region entry of the
demand address, while the tile has fewer than 64 of them outstanding. One that the region table would refuse is dropped
and counted. -/
def runAhead (tile : Nat) (j : Job) (r : CopyRec) (row : Nat) (s : State) : State :=
  if r.runahead = 0 ∨ !cacheable r.src then s
  else
    let k := runaheadRequester tile
    let first := r.src + row * r.spitch + r.srcBytes
    let stop := min (r.src + (r.rows - 1) * r.spitch + r.srcBytes) (first + 256 * r.runahead)
    let stop := match placeOf r.src, s.regionOf (r.src + row * r.spitch) 1 with
      | .stack _ _, some i => min stop ((s.field (Regs.rgnHi i) 38 21 + 1) * 0x200000)
      | _, _ => stop
    if stop ≤ first then s
    else (linesOf first (stop - first)).foldl (fun st a =>
      if st.cacheHolds tile a ∨ !(st.reqsOut (fun x => x.thread == k && x.addr == a)).isEmpty
          ∨ 64 ≤ (st.reqsOut (fun x => x.thread == k)).length then st
      else
        match placeOf a with
        | .stack _ _ =>
          if st.regionAcc j.block.tag.toNat false false a 64 = .ok then
            (st.postReq ⟨k, j.handle, 4, true, a, 64, false, [], 0⟩).bump (Regs.obsTile tile 2 13) 1
          else st.count 0x3230 (tile / 64) j.handle 1
        | .shared _ _ => st.cacheFill k tile a
        | _ => st) s

/-- The status word of R86. -/
def copyStatus (at_ : Option Nat) (code : Nat) (busy sat nan : Bool) (s : State) : State :=
  match at_ with
  | some a => s.wrNat a 4 (code + (if busy then 2 ^ 16 else 0) + (if sat then 2 ^ 17 else 0) + (if nan then 2 ^ 18 else 0))
  | none => s

/-- Transfers of a thread whose writes have all landed are complete: their status words and COMPLETE records. -/
def landTails (k : Nat) (s : State) : State :=
  (s.thread k).tails.foldl (fun st x =>
    if (st.reqsOut (fun r => r.thread == k && r.cmd == x.cmd)).isEmpty then
      let st := st.copyStatus x.status 0 x.busy x.sat x.nan
      let st := st.mapThread k (fun y => { y with tails := y.tails.filter (fun z => z.cmd != x.cmd) })
      if x.trace then st.silAt k 3 x.pc else st
    else st) s

/-- A code stops a transfer in progress (R88): what it has written stays, the rest of its destination holds unspecified
data, and the status word carries the code. -/
def copyFail (t : ThreadId) (tile : Nat) (j : Job) (tx : TxRec) (p : CopyProg) (code : W16) (a : Nat) (s : State) : State :=
  let spoil := fun (x : Nat × Nat) (st : State) =>
    if st.access j ⟨3, tile⟩ true (windowOf x.1 == 0) x.1 x.2 = .ok then
      (st.save x.1 ((List.range x.2).map (Config.freeByte st.freeCtr))).tick else st
  let s := ((s.thread t.key).unissued.filter (fun r => r.write)).foldl (fun st r => spoil (r.addr, r.len) st) s
  let s := (List.range (tx.count - p.row)).foldl (fun st i => spoil (tx.dest (p.row + i)) st) s
  (s.copyStatus (tx.status tile) code.toNat p.busy (p.sat != 0) (p.nan != 0)).haltAccess t code a

/-- Every request of a transfer is issued: the thread goes on, and the transfer is complete once its writes land. -/
def copyIssued (t : ThreadId) (tile : Nat) (tx : TxRec) (p : CopyProg) (s : State) : State :=
  let pc := (s.thread t.key).pc
  let s := s.mapThread t.key (fun x => { x with
    copy := none, tails := x.tails ++ [⟨p.cmd, pc, tx.status tile, p.sat != 0, p.nan != 0, p.busy, p.trace⟩] })
  let s := (s.landTails t.key).advance t.key 1
  if s.stalled t.key then s.hold t .waitData else s

/-- A thread's transfer goes on: row by row its reads go out, and once they are done the row is converted and its
writes go out. -/
def copyGo (fuel : Nat) (t : ThreadId) (tile : Nat) (s : State) : State :=
  match fuel with
  | 0 => s
  | f + 1 =>
    let th := s.thread t.key
    match th.copy, s.findJob th.job with
    | some p, some j =>
      match s.txRec t j th.bases p with
      | none => s.haltThread t 0x1113
      | some tx =>
        if tx.count ≤ p.row then
          let s := s.issueReqs 16 t.key
          if (s.thread t.key).unissued.isEmpty then s.copyIssued t tile tx p else s.hold t .waitData
        else if !p.reading then
          let rs := s.rowReads t.key tile j.handle p tx
          let s := (s.mapThread t.key (fun x => { x with copy := some { p with reading := true }, unissued := x.unissued ++ rs })).issueReqs 16 t.key
          (match tx with | .copy r => s.runAhead tile j r p.row | .rows _ => s).copyGo f t tile
        else
          let s := s.issueReqs 16 t.key
          let open_ := fun (r : Req) => r.thread == t.key && r.cmd == p.cmd && !r.write
          if !(s.reqsOut open_).isEmpty ∨ (s.thread t.key).unissued.any open_ then s.hold t .waitData
          else
            match s.checkAll j ⟨3, tile⟩ (tx.accesses s p.row) with
            | (.bad c, a) => s.copyFail t tile j tx p c a
            | (.wait, a) => (s.wakeFor a).hold t .waitData
            | _ =>
              let run := match tx with
                | .copy r => s.copyRowEff t.key tile j.block.seed ((r.gen + loopIter th) % 65536) r p
                | .rows r => s.rowcopyRow t.key tile r p
              let s := run.st
              match run.code with
              | some (c, a) => s.copyFail t tile j tx p c a
              | none =>
                let next := { p with row := p.row + 1, reading := false, sat := p.sat + run.sat, nan := p.nan + run.nan }
                let s := s.mapThread t.key (fun x => { x with copy := some next })
                match tx with
                | .rows _ => (s.count 0x1143 t.die j.handle run.nan).copyGo f t tile
                | .copy _ =>
                  let s := s.countNumeric t.die j.handle run.sat run.nan 0 0
                  if run.nan ≠ 0 ∧ bit j.block.flags.toNat 3 ∧ !j.trapped then
                    (s.mapJob j.handle (fun x => { x with trapped := true })).copyFail t tile j tx next 0x2104 0
                  else s.copyGo f t tile
    | _, _ => s

/-- A thread goes on after a request: its transfer, or its next command. -/
def goOn (k : Nat) (s : State) : State :=
  let t := ThreadId.ofKey k
  let th := s.thread k
  match th.copy, s.findJob th.job, t with
  | some p, some j, .tile tile _ =>
    match s.txRec t j th.bases p with
    | some tx => s.copyGo (2 * tx.count + 4) t tile.val
    | none => s.haltThread t 0x1113
  | _, _, _ => (s.issueReqs 1 k).wakeIdle k

/-- A transfer command whose record holds starts. -/
def copyStart (t : ThreadId) (h : CmdHead) (op recAt : Nat) (snap : Option (List Byte)) (s : State) : State :=
  let s := if h.trace then s.silThread t.key 2 0 else s
  let p : CopyProg := ⟨s.freeCtr + 1, op, recAt, 0, false, 0, 0, busyUpset h, h.trace, snap⟩
  let s := if busyUpset h then match t with | .tile tile _ => s.bump (Regs.obsTile tile.val 2 14) 1 | _ => s else s
  (s.tick.mapThread t.key (fun x => { x with copy := some p, hostDone := false })).goOn t.key

/-! ### The channels serve (R159 to R163, R170) -/

/-- A tracker entry frees and the oldest waiting request of the channel is accepted. -/
def acceptEff (c : Nat) (s : State) : State :=
  match mget s.stk.waiting c [] with
  | [] => s
  | r :: rest =>
    let q := mget s.stk.queues c []
    if entriesOf (q ++ [r]) ≤ 96 then
      let s := ({ s with stk := { s.stk with
          queues := mset s.stk.queues c (enqueue q r), waiting := mset s.stk.waiting c rest } }).bump
        (Regs.obsChannel (c / 128) (c % 128) (r.cls - 1)) 1
      if r.thread < 7168 then s.goOn r.thread else s
    else s

/-- What a request leaves in its place when it ends without a code: the bytes of a write; for a run-ahead read a clean
line of the tile's cache, while its job runs, unless the atom is poisoned (R161, R168, R169). -/
def reqLands (r : Req) (s : State) : State :=
  if r.write then (if r.data.isEmpty then s else s.save r.addr (s.keepRelease r.addr r.data))
  else if runaheadRequester 0 ≤ r.thread ∧ r.thread < orphanRequester then
    let tile := r.thread - runaheadRequester 0
    let live : Bool := match s.findJob r.job with | some j => j.st == .running | none => false
    if live ∧ !s.cacheHolds tile r.addr ∧ !s.poisonStack r.addr 64 then s.cacheFill r.thread tile r.addr else s
  else s

/-- A code met by a thread's request: it stops the transfer in progress, or one whose writes were out (R88, R170). -/
def reqFails (r : Req) (code : W16) (s : State) : State :=
  let s := s.stackFault code r.addr
  let th := s.thread r.thread
  let t := ThreadId.ofKey r.thread
  match th.copy, s.findJob th.job, t with
  | some p, some j, .tile tile _ =>
    (match s.txRec t j th.bases p with
      | some tx => if r.cmd = p.cmd then s.copyFail t tile.val j tx p code r.addr else s.haltThread t code
      | none => s.haltThread t code)
  | _, _, _ =>
    match th.tails.find? (fun x => x.cmd == r.cmd) with
    | some x =>
      let s := if code = 0x3220 then s else (s.save r.addr ((List.range r.len).map (Config.freeByte s.freeCtr))).tick
      ((s.copyStatus x.status code.toNat x.busy x.sat x.nan).mapThread r.thread (fun y =>
        { y with tails := y.tails.filter (fun z => z.cmd != r.cmd) })).haltThread t code
    | none => s.haltThread t code

/-- The request that the channel serves next completes: its ECC acts, its data moves, and its requester goes on, or
halts on a code. A quenched thread halts once nothing of it is outstanding (R98). A read of the NI that meets a code
quenches its job; one of a list cache leaves its line poisoned for LIST_FILL; run-ahead raises nothing. -/
def doneEff (c : Nat) (e : Ecc) (s : State) : State :=
  match nextServed (mget s.stk.queues c []) with
  | none => s
  | some r =>
    let s := { s with stk := { s.stk with queues := mset s.stk.queues c ((mget s.stk.queues c []).erase r) } }
    let down := s.chState (c / 128) (s.physCh (c / 128) (c % 128)) == .down
    let atom := s.errAtom r
    let (s, code) := if down then (s, some (0x3220 : W16))
      else if reqReads r && e != .clean then (s.tick).eccRead atom r.job e else (s, none)
    let s := if code.isNone then s.reqLands r else s
    if 7232 ≤ r.thread then
      match code with
      | some x => if niRequester 0 ≤ r.thread ∧ r.thread < runaheadRequester 0 then (s.stackFault x r.addr).quenchJob r.job x else s
      | none => s
    else
      let s := s.mapThread r.thread (fun t => { t with outstanding := t.outstanding - 1 })
      let t := s.thread r.thread
      let live : Bool := match s.findJob t.job with | some j => j.st == .running | none => false
      match code with
      | some x => if live then s.reqFails r x else s
      | none =>
        let s := s.landTails r.thread
        if live then s.goOn r.thread
        else if t.st = .waitData ∧ t.outstanding = 0 then
          s.mapThread r.thread (fun t => { t with st := .halted, unissued := [], copy := none })
        else s

/-! ### TE_COPY (R84) -/

/-- Parts of the source that lie in host memory, read through a port before the rows run (R399). -/
def hostReadsOf (s : State) (k : Nat) (r : CopyRec) : List HostRead :=
  (List.range r.rows).flatMap (fun i =>
    (copyRow r i).filterMap (fun x =>
      if x.2.2 then none else
      match placeOf x.1 with
      | .host p o => some ⟨k, p, s.busAddr p o, x.2.1⟩
      | _ => none))

def teCopyEff (t : ThreadId) (h : CmdHead) (rec : Nat) (s : State) : State :=
  let size := match s.findJob (s.thread t.key).job with | some j => j.image.bytes | none => 0
  s.issue t 0x20 3 h (rec % 64 == 0 && decide (rec + 64 ≤ size)) (fun th j s =>
    match t with
    | .tile tile _ =>
      let bs := s.rd (j.image.base + rec) 64
      match s.recordAcc (j.image.base + rec) 64 with
      | some c => (s.stackFault c (j.image.base + rec)).haltThread t c
      | none =>
      match readCopyRec t th.bases bs with
      | none => s.haltThread t 0x1113
      | some r =>
        if !copyFieldsOk bs r ∨ !copySidesOk r then s.haltThread t 0x1113
        else
          let all := (List.range r.rows).flatMap (copyRow r)
          let status := if r.statusEn then s.pieceAcc j ⟨3, tile.val⟩ true false (scratchAddr tile.val r.status) 4 else .ok
          match status, (s.checkAll j ⟨3, tile.val⟩ all).1 with
          | .bad c, _ => s.haltAccess t c (scratchAddr tile.val r.status)
          | .wait, _ => (s.startWake tile.val).hold t .waitData
          | _, .wait => (all.foldl (fun st x => st.wakeFor x.1) s).hold t .waitData
          | _, _ =>
            let reads := s.hostReadsOf t.key r
            let start := fun (s : State) => s.copyStart t h 0x20 rec
              (if (copyOverlap r).isSome then some (s.load r.src ((r.rows - 1) * r.spitch + r.srcBytes)) else none)
            if reads.isEmpty ∨ th.hostDone then start s
            else if (s.checkAll j ⟨3, tile.val⟩ all).1 ≠ .ok then start s
            else
              let s := if s.host.reads.any (fun r => r.thread == t.key) then s
                else { s with host := { s.host with reads := s.host.reads ++ reads } }
              s.hold t .waitData
    | _ => s)

end State

/-! ### TE_DISPATCH (R391, R392) -/

namespace State

/-- A 4-byte word of the tile's own scratchpad, as these commands read and write it. -/
def w4 (s : State) (a : Nat) : Nat := s.rdNat a 4

/-- Placement state of a dispatch: per expert placed and overflowed, and what was counted. -/
structure Placing where
  st : State
  placed : SMap Nat
  capped : SMap Nat
  dropped : Nat
  fallback : Nat
  badIndex : Nat

structure DispRec where
  route : Nat
  gate : Nat
  table : Nat
  index : Nat
  tok : Nat
  counts : Nat
  zmap : Nat
  n : Nat
  k : Nat
  nexp : Nat
  bufrows : Nat
  mapbits : Nat
  zpitch : Nat
  cont : Bool
  tbase : Nat
deriving DecidableEq, Repr

def expCap (s : State) (r : DispRec) (e : Nat) : Nat := s.rdNat (r.table + 16 * e + 4) 2
def expFallback (s : State) (r : DispRec) (e : Nat) : Nat := s.rdNat (r.table + 16 * e + 6) 2
def expOffset (s : State) (r : DispRec) (e : Nat) : Nat := s.rdNat (r.table + 16 * e + 8) 4

/-- put(x, t, a) of R392. -/
def placeRow (r : DispRec) (x t a : Nat) (p : Placing) : Placing :=
  let row := p.st.expOffset r x + mget p.placed x 0
  let s := (p.st.wrNat (r.index + 8 * row) 4 (r.tbase + t)).wrNat (r.index + 8 * row + 4) 4 (p.st.w4 (r.gate + 4 * a))
  { p with st := s.wrNat (r.tok + 4 * a) 4 row, placed := mset p.placed x (mget p.placed x 0 + 1) }

/-- One assignment of R392. -/
def assign (r : DispRec) (t a : Nat) (p : Placing) : Placing :=
  let e := (BitVec.ofNat 32 (p.st.w4 (r.route + 4 * a))).toInt
  let p := { p with st := p.st.wrNat (r.tok + 4 * a) 4 0xFFFFFFFF }
  if e < 0 ∨ (r.nexp : Int) ≤ e then { p with badIndex := p.badIndex + 1 }
  else
    let e := e.toNat
    if mget p.placed e 0 < p.st.expCap r e then placeRow r e t a p
    else
      let p := { p with capped := mset p.capped e (mget p.capped e 0 + 1) }
      let f := p.st.expFallback r e
      if f < r.nexp ∧ mget p.placed f 0 < p.st.expCap r f then
        let q := placeRow r f t a p
        { q with fallback := q.fallback + 1 }
      else { p with dropped := p.dropped + 1 }

def rowHeld (r : DispRec) (p : Placing) (row : Nat) : Bool :=
  (List.range r.nexp).any (fun e =>
    decide (p.st.expOffset r e ≤ row) && decide (row < p.st.expOffset r e + mget p.placed e 0))

def dispatchRun (r : DispRec) (s : State) : Placing :=
  let start : Placing := ⟨s,
    if r.cont then (List.range r.nexp).map (fun e => (e, s.w4 (r.counts + 4 * e) % 65536)) else [],
    if r.cont then (List.range r.nexp).map (fun e => (e, s.w4 (r.counts + 4 * e) / 65536)) else [], 0, 0, 0⟩
  let p := (List.range r.k).foldl (fun p c => (List.range r.n).foldl (fun p t => assign r t (t * r.k + c) p) p) start
  let s := (List.range r.bufrows).foldl (fun st row =>
    if rowHeld r p row then st else (st.wrNat (r.index + 8 * row) 4 0xFFFFFFFF).wrNat (r.index + 8 * row + 4) 4 0) p.st
  let s := (List.range r.nexp).foldl (fun st e =>
    st.wrNat (r.counts + 4 * e) 4 (mget p.placed e 0 % 65536 + min 65535 (mget p.capped e 0) * 65536)) s
  let s := (List.range (r.bufrows / 128)).foldl (fun st i =>
    let empty := !((List.range 128).any (fun x => rowHeld r p (128 * i + x)))
    let bytes := (r.mapbits + 7) / 8
    let old := st.rdNat (r.zmap + i * r.zpitch) bytes
    let v := if empty then old / 2 ^ r.mapbits * 2 ^ r.mapbits + (2 ^ r.mapbits - 1) else old / 2 ^ r.mapbits * 2 ^ r.mapbits
    st.wrNat (r.zmap + i * r.zpitch) bytes v) s
  { p with st := s }

/-- Ranges of the record and of the table it reads (R390, R391). -/
def dispFieldsOk (r : DispRec) : Bool :=
  decide (1 ≤ r.n) && decide (r.n ≤ 65536) && decide (1 ≤ r.k) && decide (r.k ≤ 8) && decide (1 ≤ r.nexp) && decide (r.nexp ≤ 4096)
    && r.bufrows % 128 == 0 && decide (r.bufrows ≤ 65536) && decide (1 ≤ r.mapbits) && decide (r.mapbits ≤ 2048)
    && r.zpitch % 8 == 0 && decide (r.n * r.k ≤ 8192)
    && decide (24 + 2 * r.n * r.k + r.bufrows / 8 + r.nexp / 8 ≤ 24576)

def dispTableOk (s : State) (r : DispRec) : Bool :=
  (List.range r.nexp).all (fun e =>
    s.expCap r e % 128 == 0 && s.expOffset r e % 128 == 0 && decide (s.expOffset r e + s.expCap r e ≤ r.bufrows))

def readDispRec (t : ThreadId) (bases : List (BitVec 48)) (bs : List Byte) : Option DispRec :=
  let n := fun o k => leNat ((bs.drop o).take k)
  let ad := fun o => (resolveAddr t bases (BitVec.ofNat 64 (n o 8))).getD (2 ^ 48)
  let r : DispRec := ⟨ad 0, ad 8, ad 16, ad 24, ad 32, ad 40, ad 48, n 56 4, n 60 1, n 62 2, n 64 4, n 68 2, n 70 2, bit (n 72 1) 0, n 76 4⟩
  if [r.route, r.gate, r.table, r.index, r.tok, r.counts, r.zmap].contains (2 ^ 48) then none
  else if n 61 1 ≠ 0 ∨ 2 ≤ n 72 1 ∨ n 73 3 ≠ 0 ∨ n 80 8 ≠ 0 then none
  else some r

/-- The extents of a dispatch, each in the thread's own scratchpad in banks owned by its transfer engine. -/
def dispExtents (r : DispRec) : List (Nat × Nat × Bool) :=
  [(r.route, 4 * r.n * r.k, false), (r.gate, 4 * r.n * r.k, false), (r.table, 16 * r.nexp, false),
    (r.index, 8 * r.bufrows, true), (r.tok, 4 * r.n * r.k, true), (r.counts, 4 * r.nexp, true),
    (r.zmap, (r.bufrows / 128) * r.zpitch, true)]

/-- The extent lies in the tile's own scratchpad in banks that its engine owns. -/
def ownScratch (s : State) (w : Who) (tile a n : Nat) : Acc :=
  match placeOf a, placeOf (a + n - 1) with
  | .scratch t _, .scratch u _ =>
    if t = tile ∧ u = tile ∧ windowOf a = 0 then
      (pieces a n).foldl (fun acc p =>
        acc.andThen (if s.bankOwner ((bankOf (placeOf p.1)).getD 0) = w then .ok else .bad 0x3106)) .ok
    else .bad 0x1113
  | _, _ => .bad 0x1113

def dispatchEff (t : ThreadId) (h : CmdHead) (rec : Nat) (s : State) : State :=
  let size := match s.findJob (s.thread t.key).job with | some j => j.image.bytes | none => 0
  s.issue t 0x38 3 h (rec % 64 == 0 && decide (rec + 128 ≤ size)) (fun th j s =>
    match t with
    | .tile tile _ =>
      let w : Who := ⟨3, tile.val⟩
      match s.recordAcc (j.image.base + rec) 128 with
      | some c => (s.stackFault c (j.image.base + rec)).haltThread t c
      | none =>
      match readDispRec t th.bases (s.rd (j.image.base + rec) 128) with
      | none => s.haltThread t 0x1113
      | some r =>
        if !dispFieldsOk r then s.haltThread t 0x1113
        else
          let own := fun (x : Nat × Nat × Bool) => if x.2.1 = 0 then Acc.ok else s.ownScratch w tile.val x.1 x.2.1
          let acc := match (dispExtents r).find? (fun x => own x != .ok) with
            | some x => (own x, x.1)
            | none => s.checkAll j w (dispExtents r)
          match acc with
          | (.bad c, a) => s.haltAccess t c a
          | (.wait, _) => (s.startWake tile.val).hold t .waitData
          | (.ok, _) =>
            if !s.dispTableOk r then s.haltThread t 0x1113
            else
              let p := s.dispatchRun r
              (((p.st.count 0x1141 t.die j.handle p.dropped).count 0x1142 t.die j.handle p.fallback).count
                0x1143 t.die j.handle p.badIndex).finish t h 1
    | _ => s)

/-! ### TE_ROWCOPY (R393) -/

def rowcopyEff (t : ThreadId) (h : CmdHead) (rec : Nat) (s : State) : State :=
  let size := match s.findJob (s.thread t.key).job with | some j => j.image.bytes | none => 0
  s.issue t 0x39 3 h (rec % 64 == 0 && decide (rec + 64 ≤ size)) (fun th j s =>
    match t with
    | .tile tile _ =>
      match s.recordAcc (j.image.base + rec) 64 with
      | some c => (s.stackFault c (j.image.base + rec)).haltThread t c
      | none =>
        match readRowRec t th.bases (s.rd (j.image.base + rec) 64) with
        | none => s.haltThread t 0x1113
        | some r =>
          let all := (List.range r.rows).flatMap (s.rowAccesses r)
          if !all.all (fun x => copyPlaceOk x.1 0 1 x.2.1) then s.haltThread t 0x1113
          else match (s.checkAll j ⟨3, tile.val⟩ all).1 with
          | .wait => (all.foldl (fun st x => st.wakeFor x.1) s).hold t .waitData
          | _ => s.copyStart t h 0x39 rec none
    | _ => s)

end State

def execTeCopy (t : ThreadId) (h : CmdHead) (r : W32) (s : State) : Host.Outcome State Fault Refusal :=
  .next (s.teCopyEff t h r.toNat)
def execTeDispatch (t : ThreadId) (h : CmdHead) (r : W32) (s : State) : Host.Outcome State Fault Refusal :=
  .next (s.dispatchEff t h r.toNat)
def execTeRowcopy (t : ThreadId) (h : CmdHead) (r : W32) (s : State) : Host.Outcome State Fault Refusal :=
  .next (s.rowcopyEff t h r.toNat)
def execStackRequestAccept (st : Stack) (ch : Fin 128) (s : State) : Host.Outcome State Fault Refusal :=
  .next (s.acceptEff (st.val * 128 + ch.val))
def execRequestPromote (st : Stack) (ch : Fin 128) (i : Fin 96) (s : State) : Host.Outcome State Fault Refusal :=
  .next (s.promoteEff (st.val * 128 + ch.val) i.val)
def execStackRequestDone (st : Stack) (ch : Fin 128) (ecc : Ecc) (s : State) : Host.Outcome State Fault Refusal :=
  .next (s.doneEff (st.val * 128 + ch.val) ecc)

end Sys2Proof.Machine
end

