-- ==== Sys2Proof/Machine/Solver.lean ====
section
/-! DEFINITION. Solver engines (spec/10_roots_and_solvers.md): occurrences (R260, R261), operation records (R262 to R265), the
operations (R266 to R274), commits and discards (R275 to R277), pins (R278), borrowed chunks (R257) and abandonment
(R282, R283). -/

namespace Sys2Proof.Machine
open Sys2Proof.Num

/-! ### Operation records (R262 to R264) -/

def isOp (op : Nat) : Bool := decide (1 ≤ op ∧ op ≤ 8) || op == 0x0E || op == 0x0F
/-- The operation takes a symmetric A (R263). -/
def symOp (op : Nat) : Bool := op == 1 || op == 2 || op == 5 || op == 6 || op == 7
/-- SCALE is required, and OUTSLOT must be 1 or 0 (R263). -/
def needsScale (op : Nat) : Bool := op == 5 || op == 6 || op == 7 || op == 8
def toSlot (op : Nat) : Bool := op == 5 || op == 6 || op == 7 || op == 0x0E || op == 0x0F

def finiteNonneg (w : Nat) : Bool := match fp32.decode w with | .fin n m _ => !n || m == 0 | _ => false

/-- A record's fields with addresses not yet resolved: the raw bytes give them (R262). -/
def recN (bs : List Byte) (o k : Nat) : Nat := leNat ((bs.drop o).take k)

/-- The guard of an operation record. -/
def recGuard (bs : List Byte) : Bool := recN bs 4 4 == 2 ^ 32 - 1 - recN bs 0 4

/-- The checks of R264 that admission makes; `size` is the image's. -/
def recStatic (bs : List Byte) (size : Nat) : Bool :=
  let h := recN bs 0 4
  let op := bits h 7 0
  let n := recN bs 8 2
  let sparse := bit h 10
  let infmt := bits h 12 11
  let nbor := recN bs 13 1
  isOp op && bits h 31 19 == 0
    && decide (64 ≤ n) && decide (n ≤ 2048) && n % 64 == 0
    && (if op = 5 ∨ op = 7 then decide (1 ≤ recN bs 10 2) && decide (recN bs 10 2 ≤ 64) else recN bs 10 2 == 0)
    && (if op = 5 then [1, 2, 4].contains (recN bs 12 1) else recN bs 12 1 == 0)
    && decide (nbor ≤ 4) && !(bit h 8 && nbor != 0)
    && (nbor == 0 || decide (5 ≤ ((List.range 16).filter (fun b => bit (recN bs 14 2) b)).length))
    && (if op = 8 then decide (1 ≤ recN bs 60 4) && decide (recN bs 60 4 ≤ 65536)
        else if op = 4 then decide (1 ≤ recN bs 60 4) && decide (recN bs 60 4 ≤ 2048) else recN bs 60 4 == 0)
    && finiteNonneg (recN bs 48 4) && finiteNonneg (recN bs 52 4) && ltF (fp32.decode (recN bs 52 4)) (.fin false 1 0)
    && (match fp32.decode (recN bs 56 4) with | .nan => false | .inf neg => !neg | .fin neg m _ => !neg || m == 0)
    && (if needsScale op then bit h 9 else if op = 1 ∨ op = 2 then true else !bit h 9)
    && (if toSlot op then bit h 13 else if op = 1 ∨ op = 2 then true else !bit h 13)
    && infmt != 3 && (infmt != 1 || [256, 512, 1024, 2048].contains n) && (infmt == 2) == sparse
    && (!sparse || (decide (1 ≤ op) && decide (op ≤ 4) && decide (recN bs 64 4 + 64 ≤ size)))
    && (sparse || recN bs 64 4 == 0)
    && decide (bits h 15 14 ≤ 2) && (op == 3 || op == 4 || bits h 15 14 == 0)
    && (op == 3 || op == 4 || op == 8 || recN bs 24 8 == 0)
    && ((List.range 52).all (fun i => recN bs (76 + i) 1 == 0))

/-- The record with its addresses resolved with the thread's bases; BASE 15 is not allowed (R262). -/
def readRec (t : ThreadId) (bases : List (BitVec 48)) (bs : List Byte) : Option SlvRec :=
  let h := recN bs 0 4
  let ad := fun o => resolveAddr t bases (BitVec.ofNat 64 (recN bs o 8))
  match ad 16, ad 24, ad 32, ad 40 with
  | some a, some b, some o, some w =>
    some { op := bits h 7 0, pair := bit h 8, scale := bit h 9, sparse := bit h 10, infmt := bits h 12 11, outslot := bit h 13
           tri := bits h 15 14, unit := bit h 16, qr := bit h 17, seed := bit h 18, n := recN bs 8 2, iters := recN bs 10 2
           p := recN bs 12 1, nbor := recN bs 13 1, lend := recN bs 14 2, in1 := a, in2 := b, out := o, work := w
           lambda := BitVec.ofNat 32 (recN bs 48 4), tauRel := BitVec.ofNat 32 (recN bs 52 4)
           resMax := BitVec.ofNat 32 (recN bs 56 4), mh := recN bs 60 4, sched := recN bs 64 4
           tiles := (List.range (recN bs 13 1)).map (fun i => recN bs (68 + 2 * i) 2) }
  | _, _, _, _ => none

/-- Rows of the main input: m for SOLVE_LS, n otherwise. -/
def SlvRec.rows (r : SlvRec) : Nat := if r.op = 8 then r.mh else r.n

namespace State

/-- Fields of a record's elimination schedule (R273): tiles, steps, and a step's word. -/
def schedTiles (s : State) (base sched : Nat) : Nat := s.rdNat (base + sched + 12) 4
def schedSteps (s : State) (base sched : Nat) : Nat := s.rdNat (base + sched + 8) 4
def schedStep (s : State) (base sched i : Nat) : Nat := s.rdNat (base + sched + 64 + 8 * i) 8

/-- The static checks of an elimination schedule (R273, R274), inside an image of `size` bytes: T and NSTEPS in range, the
reserved bytes 0, each step of a KIND of the table with its tile indices below NTILES. -/
def schedOk (s : State) (base size sched : Nat) : Bool :=
  let t := s.schedTiles base sched
  let n := s.schedSteps base sched
  decide (sched + 64 + 8 * n ≤ size) && decide (1 ≤ t) && decide (t ≤ 16384) && decide (1 ≤ n) && decide (n ≤ 2 ^ 24)
    && (s.rd (base + sched + 16) 48).all (fun b => b == 0)
    && (List.range n).all (fun i =>
      let w := s.schedStep base sched i
      decide (1 ≤ bits w 3 0) && decide (bits w 3 0 ≤ 3)
        && decide (bits w 23 4 < t) && decide (bits w 43 24 < t) && decide (bits w 63 44 < t))

/-- Start of the tiles of a block-sparse matrix of `t` tiles (R273). -/
def sparseData (a t : Nat) : Nat := (a + 4 + 4 * t + 4095) / 4096 * 4096

/-- Bytes of a block-sparse matrix of `t` tiles. -/
def sparseBytes (a t : Nat) : Nat := sparseData a t - a + t * 16384

/-- Tiles of a record's block-sparse matrices: those its schedule was compiled for, which its table must have (R274). -/
def recTiles (s : State) (j : Job) (r : SlvRec) : Nat := s.schedTiles j.image.base r.sched

/-- Bytes of a record's main input (R263, R244, R273). -/
def in1Bytes (s : State) (j : Job) (r : SlvRec) : Nat :=
  if r.op = 0x0F then 0
  else if r.infmt = 1 then r.n / 128 * (r.n / 128 + 1) / 2 * 65536
  else if r.infmt = 2 then sparseBytes r.in1 (s.recTiles j r)
  else r.rows * r.n * 4

def in2Bytes (r : SlvRec) : Nat :=
  if r.op = 3 then r.n * 4 else if r.op = 4 then r.n * r.mh * 4 else if r.op = 8 then r.mh * 4 else 0

def outBytes (s : State) (j : Job) (r : SlvRec) : Nat :=
  if r.outslot then 4096 + 2 * slotBytes r.n r.op
  else if r.op = 3 ∨ r.op = 8 then r.n * 4 else if r.op = 4 then r.n * r.mh * 4
  else if r.infmt = 2 then sparseBytes r.out (s.recTiles j r) else r.n * r.n * 4

def workBytes (r : SlvRec) : Nat := if r.op = 0x0F then 0 else 4 * max r.rows r.n * r.n * 4

/-- The extents that an operation reads, and WORK: address, bytes, and whether it writes them. An EIGBASIS that starts from
its slot's generation reads that too (R270). -/
def readExtents (s : State) (j : Job) (r : SlvRec) : List (Nat × Nat × Bool) :=
  let seed := r.op == 7 && r.seed && bit (s.rdNat (r.out + 4) 4 ^^^ (2 ^ 32 - 1)) 17
  ([(r.in1, s.in1Bytes j r, false), (r.in2, in2Bytes r, false), (r.work, workBytes r, true)]
    ++ (if seed then [(r.out + 4096 + bits (s.rdNat (r.out + 4) 4 ^^^ (2 ^ 32 - 1)) 16 16 * slotBytes r.n r.op, r.n * r.n * 4, false)] else [])).filter
    (fun x => x.2.1 != 0)

/-- All extents of an operation. -/
def recExtents (s : State) (j : Job) (r : SlvRec) : List (Nat × Nat × Bool) :=
  s.readExtents j r ++ [(r.out, s.outBytes j r, true)]

/-- Reach of R264 and R265: stacked memory under the region table, or shared-store banks of the engine's die that
the job owns. -/
def reachOk (s : State) (j : Job) (e : Nat) (x : Nat × Nat × Bool) : Bool :=
  let ok := fun (a : Nat) => windowOf a == 0 && (match placeOf a with
    | .stack _ _ => true
    | .shared d _ => d == e / 4
    | _ => false)
  ok x.1 && ok (x.1 + x.2.1 - 1)
    && (pieces x.1 x.2.1).all (fun p => s.jobPlace j (placeOf p.1) == .ok
        && (match placeOf p.1 with | .stack _ _ => s.regionAcc j.block.tag.toNat true x.2.2 p.1 p.2 == .ok | _ => true))

/-- The extent lies in an Absolute store region with the job's tag (R275, R278). -/
def absoluteOk (s : State) (j : Job) (a n : Nat) : Bool :=
  match s.regionOf a n with
  | some i => s.field (Regs.rgnLo i) 3 1 == 2 && s.field (Regs.rgnHi i) 15 0 == j.block.tag.toNat && j.block.tag != 0
  | none => false

/-- Borrowed tiles meet R257. -/
def borrowOk (s : State) (j : Job) (e : Nat) (r : SlvRec) : Bool :=
  r.tiles.all (fun t => t / 64 == e / 4 && j.block.tiles.contains t &&
    (List.range 16).all (fun b => !bit r.lend b || s.bankOwner (t * 16 + b) == ⟨6, e⟩))

/-- The checks of R264 at issue but for the slot's header. -/
def recIssueOk (s : State) (j : Job) (e : Nat) (r : SlvRec) : Bool :=
  (s.recExtents j r).all (fun x => x.1 % 64 == 0 && s.reachOk j e x)
    && (!r.outslot || (r.out % 4096 == 0 && s.absoluteOk j r.out (s.outBytes j r)))
    && s.borrowOk j e r

/-- The guard of a slot's CUR (R275). -/
def curGuard (s : State) (slot : Nat) : Bool := s.rdNat (slot + 4) 4 == 2 ^ 32 - 1 - s.rdNat slot 4
def curGen (s : State) (slot : Nat) : Nat := s.rdNat slot 2
def curBuf (s : State) (slot : Nat) : Nat := bits (s.rdNat slot 4) 16 16
def curValid (s : State) (slot : Nat) : Bool := bit (s.rdNat slot 4) 17

/-! ### Engines and occurrences (R256, R260, R261) -/

def slvEngine (s : State) (e : Nat) : Engine := mget s.solver.engines e ⟨[], none⟩
def mapEngine (e : Nat) (f : Engine → Engine) (s : State) : State :=
  { s with solver := { s.solver with engines := mset s.solver.engines e (f (s.slvEngine e)) } }
def mapOcc (e n : Nat) (f : OpenOcc → OpenOcc) (s : State) : State :=
  s.mapEngine e (fun x => { x with opens := x.opens.map (fun o => if o.thread = n then f o else o) })
def openOf (s : State) (e n : Nat) : Option OpenOcc := (s.slvEngine e).opens.find? (fun o => o.thread == n)

/-- Key of a solver thread. -/
def svKey (e n : Nat) : Nat := 7168 + e * 2 + n
/-- Key of the launch and begin counts of a job's refresh on an engine. -/
def launchKey (h : W32) (e r : Nat) : Nat := (h.toNat * 16 + e) * 256 + r

/-- Solver threads that wait for an engine, a slot or their own operation try again. -/
def wakeSolvers (s : State) : State :=
  (List.range 32).foldl (fun st i =>
    let k := 7168 + i
    let t := st.thread k
    if t.st = .waitUnit then st.fetchNext k else st.wakeIdle k) s

/-- The refresh record of a job (R258). -/
def refreshLaunch (s : State) (j : Job) (r : Nat) : Nat := s.rdNat (j.image.base + j.image.solverOff + 32 * r) 1
def refreshEngines (s : State) (j : Job) (r : Nat) : Nat := s.rdNat (j.image.base + j.image.solverOff + 32 * r + 2) 2
def refreshStatus (s : State) (j : Job) (r : Nat) : W64 :=
  BitVec.ofNat 64 (s.rdNat (j.image.base + j.image.solverOff + 32 * r + 8) 8)

/-- Engines of a die that a refresh names. -/
def refreshOn (s : State) (j : Job) (r d : Nat) : List Nat :=
  (List.range 16).filter (fun e => e / 4 == d && bit (s.refreshEngines j r) e)

/-- Add one to the launch count of an engine for a job; its threads that wait for a launch go on (R260). -/
def launchOn (h : W32) (e r : Nat) (s : State) : State :=
  let k := launchKey h e r
  let s := { s with solver := { s.solver with launches := mset s.solver.launches k (mget s.solver.launches k 0 + 1) } }
  [0, 1].foldl (fun st n =>
    let t := st.thread (svKey e n)
    if t.st = .waitBeat ∧ t.beatTarget.isNone then st.fetchNext (svKey e n) else st) s

/-- Offset of the next SV_END from `pc` on, along LINK commands (R282). -/
def findEnd (fuel : Nat) (s : State) (base pc : Nat) : Nat :=
  match fuel with
  | 0 => pc
  | f + 1 =>
    let h := s.rdNat (base + pc) 4
    if h % 2048 = 0x422 then pc
    else if h % 2048 = 0x00B then s.findEnd f base (s.rdNat (base + pc + 8) 8)
    else s.findEnd f base (pc + 32)

/-- A thread of an abandoned occurrence skips to its SV_END (R282); loops opened since end with their bases
restored. -/
def skipToEnd (e n : Nat) (s : State) : State :=
  let k := svKey e n
  let th := s.thread k
  match s.findJob th.job with
  | none => s
  | some j =>
    if th.st = .free ∨ th.st = .halted ∨ th.st = .done then s
    else
      let pc := s.findEnd (j.image.bytes / 32 + 1) j.image.base th.pc
      let inside := fun (l : LoopRec) => decide (l.first ≤ pc) && decide (pc < l.first + 32 * l.body)
      let bases := (th.loops.filter (fun l => !inside l)).foldl (fun b l =>
        if l.baseSel = 0 then b else b.set (l.baseSel - 1) l.saved) th.bases
      (s.mapThread k (fun x => { x with
        pc := pc, loops := x.loops.filter inside, bases := bases, wait := none, beatTarget := none })).fetchNext k

def svBeginEff (t : ThreadId) (h : CmdHead) (refresh : Nat) (s : State) : State :=
  s.issue t 0x20 4 h (decide (refresh < 256)) (fun _ j s =>
    match t with
    | .solver en nn =>
      let e := en.val
      let n := nn.val
      let k := launchKey j.handle e refresh
      let s := if s.refreshLaunch j refresh = 0 then s.launchOn j.handle e refresh else s
      let begun := mget s.solver.begins k 0
      if begun < mget s.solver.launches k 0 then
        let occ := begun + 1
        let marked := s.solver.marks.contains (k, occ)
        let s := { s with solver := { s.solver with
          begins := mset s.solver.begins k occ, marks := s.solver.marks.filter (fun m => m != (k, occ)) } }
        let s := s.mapEngine e (fun x => { x with
          opens := x.opens.filter (fun o => o.thread != n) ++ [⟨n, refresh, occ, if marked then 0x2310 else 0, 0, 0, 0, 0, 0, 0⟩] })
        let s := s.finish t h 1
        if marked then s.skipToEnd e n else s
      else s.mapThread t.key (fun x => { x with st := .waitBeat, beatTarget := none })
    | _ => s)

/-- The status record of an open occurrence (R261). -/
def occRecord (o : OpenOcc) (s : State) : List Byte :=
  leBytes 4 o.occ ++ leBytes 2 o.abandoned ++ leBytes 2 o.committed ++ leBytes 2 o.overflow
    ++ leBytes 2 o.highres ++ leBytes 4 o.small ++ leBytes 4 o.zero ++ leBytes 4 o.maxResid.toNat
    ++ leBytes 8 s.beat.pos.toNat ++ List.replicate 32 0

/-- An occurrence closes: its engine's status record is written at `a`. -/
def closeOcc (e : Nat) (o : OpenOcc) (a : Nat) (s : State) : State :=
  (s.save a (occRecord o s)).mapEngine e (fun x => { x with opens := x.opens.filter (fun q => q.thread != o.thread) })

/-- SV_END (R261): the status record of the engine, once the thread's operation is over. -/
def svEndEff (t : ThreadId) (h : CmdHead) (refresh : Nat) (s : State) : State :=
  s.issue t 0x22 4 h (decide (refresh < 256)) (fun th j s =>
    match t with
    | .solver en nn =>
      let e := en.val
      let n := nn.val
      if (match (s.slvEngine e).op with | some o => o.thread == n | none => false) then s.hold t .waitOrder
      else
        match s.openOf e n, resolveAddr t th.bases (s.refreshStatus j refresh) with
        | some o, some a =>
          let a := a + 64 * e
          match s.access j ⟨6, e⟩ true true a 64 with
          | .bad c => s.haltAccess t c a
          | .wait => (s.wakeFor a).hold t .waitData
          | .ok => (s.closeOcc e o a).finish t h 1
        | _, _ => s.haltThread t 0x1113
    | _ => s)

/-! ### SV_RUN (R256, R264, R276) -/

/-- A pin holds a buffer of a slot (R276, R278). -/
def pinned (s : State) (slot buf : Nat) : Bool :=
  (List.range 4).any (fun d => (List.range 256).any (fun i =>
    s.flag (Regs.pin d i) 0 && s.pinSlot d i == slot && s.pinBuf d i == buf))

def svRunEff (t : ThreadId) (h : CmdHead) (rec : Nat) (s : State) : State :=
  let size := match s.findJob (s.thread t.key).job with | some j => j.image.bytes | none => 0
  s.issue t 0x21 4 h (rec % 128 == 0 && decide (rec + 128 ≤ size)) (fun th j s =>
    match t with
    | .solver en nn =>
      let e := en.val
      let n := nn.val
      match (s.slvEngine e).op with
      | some o => s.hold t (if o.thread = n then .waitOrder else .waitUnit)
      | none =>
        let bs := s.rd (j.image.base + rec) 128
        if !recGuard bs then s.haltGuard t 8 (rec / 128)
        else
          match readRec t th.bases bs with
          | none => s.haltThread t 0x1113
          | some r =>
            if !recStatic bs size ∨ (r.sparse && !s.schedOk j.image.base size r.sched) ∨ !s.recIssueOk j e r then s.haltThread t 0x2320
            else match (if r.outslot ∧ r.op ≠ 0x0F then s.access j ⟨6, e⟩ false true r.out 64 else .ok) with
            | .bad c => s.haltAccess t c r.out
            | .wait => (s.wakeFor r.out).hold t .waitData
            | .ok =>
              if r.outslot ∧ r.op ≠ 0x0F ∧ !s.curGuard r.out then s.haltGuard t 9 (r.out / 4096)
              else if r.outslot ∧ r.op ≠ 0x0F ∧ s.slotN r.out ≠ r.n then s.haltThread t 0x2320
              else
                let buf := 1 - s.curBuf r.out
                if r.outslot ∧ (s.solver.holds.any (fun x => x.1 == r.out) ∨ s.pinned r.out buf) then s.hold t .waitUnit
                else
                  let s := { s with
                    solver := { s.solver with holds := if r.outslot then s.solver.holds ++ [(r.out, e)] else s.solver.holds }
                    matrix := { s.matrix with
                      borrowed := r.tiles.foldl (fun m x => mset m x (mget m x [] ++ [e])) s.matrix.borrowed } }
                  let o : SlvOp := { thread := n, r := r, buf := buf, steps := 0, iter := 0, staged := false, overflow := false
                                     resid := none, sigma := none, result := [], tiles := r.tiles, cmd := th.pc }
                  (s.mapEngine e (fun x => { x with op := some o })).finish t h 1
    | _ => s)

/-! ### What an operation computes (R266 to R274) -/

def readVal (s : State) (a : Nat) : FVal := Num.rd (BitVec.ofNat 32 (s.loadNat a 4))

/-- Tiles of a block-sparse matrix: row, column and values, in table order. -/
def sparseTiles (s : State) (a t : Nat) : List (Nat × Nat × Rows) :=
  let data := sparseData a t
  (List.range t).map (fun i =>
    let w := s.rdNat (a + 4 + 4 * i) 4
    (w % 65536, w / 65536, (List.range 64).map (fun x => (List.range 64).map (fun y =>
      s.readVal (data + i * 16384 + x * 256 + 4 * y)))))

/-- Element of a lower block-sparse matrix. -/
def tileElem (ts : List (Nat × Nat × Rows)) (i j : Nat) : FVal :=
  match ts.find? (fun t => t.1 == i / 64 && t.2.1 == j / 64) with
  | some t => Lin.elem t.2.2 (i % 64) (j % 64)
  | none => .zero

/-- The symmetric matrix that a record's IN defines (R263). -/
def readSym (s : State) (j : Job) (r : SlvRec) : Rows :=
  let ts := if r.infmt = 2 then s.sparseTiles r.in1 (s.recTiles j r) else []
  (List.range r.n).map (fun i => (List.range r.n).map (fun j =>
    let lo := min i j
    let hi := max i j
    if r.infmt = 2 then tileElem ts hi lo
    else if r.infmt = 1 then
      let p := lo / 128
      let q := hi / 128
      let idx := p * (r.n / 128) - p * (p - 1) / 2 + (q - p)
      s.readVal (r.in1 + idx * 65536 + lo % 128 * 512 + 4 * (hi % 128))
    else s.readVal (r.in1 + (lo * r.n + hi) * 4)))

def readRows (s : State) (a rows cols : Nat) : Rows :=
  (List.range rows).map (fun i => (List.range cols).map (fun j => s.readVal (a + (i * cols + j) * 4)))

/-- A lower triangular factor: dense, or assembled from its tiles. -/
def readFactor (s : State) (j : Job) (r : SlvRec) : Rows :=
  if r.infmt = 2 then
    let ts := s.sparseTiles r.in1 (s.recTiles j r)
    (List.range r.n).map (fun i => (List.range r.n).map (fun j => if j ≤ i then tileElem ts i j else .zero))
  else s.readRows r.in1 r.n r.n

def toWord (tok site : Nat) (v : FVal) : W32 :=
  match v with
  | .nan => nan32
  | .inf n => inf32 n
  | .fin n m e => result (Config.freeBit tok site) n ⟨if n then -(m : Int) else m, e⟩

def wordsOf (tok : Nat) (v : List FVal) : List W32 := (List.range v.length).map (fun i => toWord tok i (v.getD i .zero))

/-- What a computation gives: result segments, σ, residual, replaced pivots, and a norm that is not finite. -/
structure SlvOut where
  segs : List (Nat × List W32)
  sigma : Option W32
  resid : Option W32
  small : Nat
  zero : Nat
  lost : Bool

/-- A value of the result or σ is not finite (R277); a block-sparse result begins with its table. -/
def SlvOut.overflows (y : SlvOut) (sparse : Bool) : Bool :=
  y.lost || (match y.sigma with | some v => !isFin32 v | none => false)
    || (y.segs.drop (if sparse then 1 else 0)).any (fun g => g.2.any (fun v => !isFin32 v))

def slvLost : SlvOut := ⟨[], none, none, 0, 0, true⟩

/-- The tiles of a sparse factorisation as the schedule's steps leave them (R273): FACTOR, SOLVE, UPDATE. For LDLT,
a solved tile is divided by the pivots of its diagonal tile, and an update takes them in (notes/assumptions/24). Admission
refuses any other KIND. -/
structure SparseSt where
  tiles : List (Nat × Nat × Rows)
  small : Nat
  zero : Nat

def sparseStep (c : Lin) (site : Nat) (ldlt : Bool) (tau : FVal) (w : Nat) (x : SparseSt) : SparseSt :=
  let kind := bits w 3 0
  let ia := bits w 23 4
  let ib := bits w 43 24
  let ic := bits w 63 44
  let tile := fun i => (x.tiles.getD i (0, 0, [])).2.2
  let put := fun i (m : Rows) => x.tiles.set i (((x.tiles.getD i (0, 0, [])).1), ((x.tiles.getD i (0, 0, [])).2.1), m)
  let diagOf := fun col => match x.tiles.find? (fun t => t.1 == col && t.2.1 == col) with | some t => t.2.2 | none => []
  if kind = 1 then
    let a := tile ia
    let f := c.factor (Lin.at' site 0) 64 ldlt tau ((List.range 64).map (fun i => (List.range 64).map (fun j =>
      if j ≤ i then Lin.elem a i j else Lin.elem a j i)))
    ⟨put ia f.rows, x.small + f.small, x.zero + f.zero⟩
  else if kind = 2 then
    let l := tile ib
    let d := (List.range 64).map (fun i => Lin.elem l i i)
    let rows := (List.range 64).map (fun i =>
      let y := c.substitute (Lin.at' (Lin.at' site 1) i) 64 l (if ldlt then none else some d) false ((tile ia).getD i [])
      if ldlt then (List.range 64).map (fun j => c.div (Lin.at' (Lin.at' site 2) (i * 64 + j)) (Lin.item y j) (Lin.item d j)) else y)
    { x with tiles := put ia rows }
  else if kind ≠ 3 then x
  else
    let col := (x.tiles.getD ib (0, 0, [])).2.1
    let dg := diagOf col
    let b := tile ib
    let b := if ldlt then (List.range 64).map (fun i => (List.range 64).map (fun k =>
      c.mul (Lin.at' (Lin.at' site 3) (i * 64 + k)) (Lin.elem b i k) (Lin.elem dg k k))) else b
    let p := c.matMul (Lin.at' site 4) b (Lin.transpose (tile ic) 64) 64
    { x with tiles := put ia (Lin.elementwise (Lin.at' site 5) 64 (fun u i j => c.sub u (Lin.elem (tile ia) i j) (Lin.elem p i j)) 64) }

/-- CHOL and LDLT (R272, R273). -/
def computeFactor (s : State) (j : Job) (r : SlvRec) : SlvOut :=
  let c : Lin := ⟨if r.pair then 45 else 24, s.freeCtr⟩
  let ldlt := r.op == 2
  let a := s.readSym j r
  let la := Num.rd r.lambda
  match (if r.scale then c.sigma (Lin.at' 0 0) r.n a else some Lin.one) with
  | none => slvLost
  | some sg =>
    let m := if r.scale then c.damped (Lin.at' 0 1) r.n false a sg la else a
    let tau := c.mul (Lin.at' 0 2) (Num.rd r.tauRel) (Lin.maxDiag ((List.range r.n).map (fun i => Lin.elem m i i)))
    let root := c.sqrt (Lin.at' 0 3) sg
    let fix := fun (u : Nat) (diag : Bool) (v : FVal) =>
      if !r.scale then v else if ldlt then (if diag then c.mul u v sg else v) else c.mul u v root
    let sw := if r.scale then some (toWord s.freeCtr 0 sg) else none
    if r.infmt = 2 then
      let nt := s.recTiles j r
      let ts := (s.sparseTiles r.in1 nt).map (fun t => (t.1, t.2.1, (List.range 64).map (fun x => (List.range 64).map (fun y =>
        let i := t.1 * 64 + x
        let k := t.2.1 * 64 + y
        if k ≤ i ∨ t.1 = t.2.1 then Lin.elem m i k else FVal.zero))))
      let f := (List.range (s.schedSteps j.image.base r.sched)).foldl (fun x i =>
        sparseStep c (Lin.at' 1 i) ldlt tau (s.schedStep j.image.base r.sched i) x) ⟨ts, 0, 0⟩
      let data := sparseData r.out nt - r.out
      let vals := f.tiles.flatMap (fun t => (List.range 4096).map (fun x =>
        fix (Lin.at' 2 x) (t.1 == t.2.1 && x / 64 == x % 64) (Lin.elem t.2.2 (x / 64) (x % 64))))
      ⟨[(0, (List.range (nt + 1)).map (fun i => BitVec.ofNat 32 (s.rdNat (r.in1 + 4 * i) 4))),
        (data, wordsOf s.freeCtr vals)], sw, none, f.small, f.zero, false⟩
    else
      let f := c.factor (Lin.at' 0 4) r.n ldlt tau m
      let vals := (List.range (r.n * r.n)).map (fun x => fix (Lin.at' 2 x) (x / r.n == x % r.n) (Lin.elem f.rows (x / r.n) (x % r.n)))
      ⟨[(0, wordsOf s.freeCtr vals)], sw, none, f.small, f.zero, false⟩

/-- TRSV and TRSM (R263, R272, R273) with `h` right-hand sides. The diagonal elements meet the rule of R272 whether or not TRI
uses them. -/
def computeSolve (s : State) (j : Job) (r : SlvRec) (h : Nat) : SlvOut :=
  let c : Lin := ⟨if r.pair then 45 else 24, s.freeCtr⟩
  let t := s.readFactor j r
  let raw := (List.range r.n).map (fun i => Lin.elem t i i)
  let (diag, sm, z) := Lin.solveDiag r.unit (Num.rd r.tauRel) c (Lin.at' 0 0) raw
  let b := s.readRows r.in2 r.n h
  let cols := (List.range h).map (fun k =>
    c.solveTri (Lin.at' (Lin.at' 0 1) k) r.n r.tri r.unit t diag ((List.range r.n).map (fun i => Lin.elem b i k)))
  ⟨[(0, wordsOf s.freeCtr (Lin.transpose cols r.n).flatten)], none, none, sm, z, false⟩

/-- INV_ROOT, INV and EIGBASIS (R268 to R270). -/
def computeRoot (s : State) (j : Job) (r : SlvRec) : SlvOut :=
  let c : Lin := ⟨if r.pair then 45 else 24, s.freeCtr⟩
  let a := s.readSym j r
  let la := Num.rd r.lambda
  match c.sigma (Lin.at' 0 0) r.n a with
  | none => slvLost
  | some sg =>
    let sw := some (toWord s.freeCtr 0 sg)
    if r.op = 6 then
      let m := c.damped (Lin.at' 0 1) r.n false a sg la
      let tau := c.mul (Lin.at' 0 2) (Num.rd r.tauRel) (Lin.maxDiag ((List.range r.n).map (fun i => Lin.elem m i i)))
      let (x, res, sm, z) := c.inverse (Lin.at' 0 3) r.n tau m sg
      ⟨[(0, wordsOf s.freeCtr x.flatten)], sw, some (toWord s.freeCtr 1 res), sm, z, false⟩
    else
      let m0 := c.damped (Lin.at' 0 1) r.n true a sg la
      if r.op = 5 then
        let (x, res) := c.invRoot (Lin.at' 0 3) r.n r.p r.iters m0 sg la
        ⟨[(0, wordsOf s.freeCtr x.flatten)], sw, some (toWord s.freeCtr 1 res), 0, 0, false⟩
      else
        let q0 := if r.seed && s.curValid r.out then s.readRows (s.bufAddr r.out (s.curBuf r.out)) r.n r.n else Lin.identity r.n
        let (q, d, res) := c.eigBasis (Lin.at' 0 3) r.n r.iters m0 q0 sg la
        ⟨[(0, wordsOf s.freeCtr (q.flatten ++ d))], sw, some (toWord s.freeCtr 1 res), 0, 0, false⟩

/-- SOLVE_LS (R271). -/
def computeLs (s : State) (r : SlvRec) : SlvOut :=
  let c : Lin := ⟨if r.pair then 45 else 24, s.freeCtr⟩
  let jm := s.readRows r.in1 r.mh r.n
  let rv := (s.readRows r.in2 1 r.mh).flatten
  let h := c.matMul (Lin.at' 0 0) (Lin.transpose jm r.n) jm r.n
  let la := Num.rd r.lambda
  match c.sigma (Lin.at' 0 1) r.n h with
  | none => slvLost
  | some sg =>
    let (x, sm, z) := c.leastSquares (Lin.at' 0 2) r.n r.qr (Num.rd r.tauRel) jm rv h sg la
    ⟨[(0, wordsOf s.freeCtr x)], some (toWord s.freeCtr 0 sg), none, sm, z, false⟩

/-- SLOT_LOAD: the matrix unchanged (R263). -/
def computeLoad (s : State) (r : SlvRec) : SlvOut :=
  ⟨[(0, (List.range (r.n * r.n)).map (fun i => BitVec.ofNat 32 (s.loadNat (r.in1 + 4 * i) 4)))], none, none, 0, 0, false⟩

def computeInit (_s : State) (_r : SlvRec) : SlvOut := ⟨[], none, none, 0, 0, false⟩

/-- The pattern check of R274: none where the table matches its schedule. -/
def patternFault (s : State) (j : Job) (r : SlvRec) : Option W16 :=
  if !r.sparse then none
  else
    let t := s.rdNat r.in1 4
    let sch := j.image.base + r.sched
    let hash := (Sha.bytes (s.rd r.in1 (4 + 4 * s.recTiles j r))).take 8
    if t ≠ s.recTiles j r ∨ leNat hash ≠ s.rdNat sch 8 then some 0x2321 else none

/-- The array of a borrowed tile is free of chunks that nothing asks for any more. -/
def freeChunk (t : Nat) (s : State) : State :=
  { s with matrix := { s.matrix with holder := s.matrix.holder.filter (fun c => !(c.1 == t && c.2 == 4)) } }

/-- An engine asks for no more chunks (R257): it leaves the array grants it waited in, and one it held is free. -/
def unborrow (e : Nat) (s : State) : State :=
  let held := (s.matrix.borrowed.filter (fun c => c.2.head? == some e)).map (fun c => c.1)
  let s := { s with matrix := { s.matrix with
    borrowed := (s.matrix.borrowed.map (fun (c : Nat × List Nat) => (c.1, c.2.filter (fun x => x != e)))).filter (fun c => !c.2.isEmpty) } }
  held.foldl (fun st t => st.freeChunk t) s

/-- The larger of two residuals (R261). -/
def worse (old : W32) (new : Option W32) : W32 :=
  match new with
  | some v => if ltF (fp32.decode old.toNat) (fp32.decode v.toNat) then v else old
  | none => old

/-- A code met while an operation runs: its fault register names the SV_RUN (R285), its thread halts and the job is
quenched. -/
def opFault (e : Nat) (o : SlvOp) (code : W16) (s : State) : State :=
  (s.recordFault (Regs.slvFault (e / 4) (e % 4)) (code.toNat + o.thread * 2 ^ 16 + o.cmd / 32 * 2 ^ 32)).haltKey (svKey e o.thread) code

/-- An operation works on: its job runs, or is held for a tile that left the operation (R281). -/
def opLives (j : Job) (o : SlvOp) : Bool := j.st == .running || (j.st == .held && decide (o.tiles.length < o.r.nbor))

/-- The operation of an engine runs its computation and stages the result in WORK. -/
def solverOpEff (op e : Nat) (f : State → Job → SlvRec → SlvOut) (s : State) : State :=
  match (s.slvEngine e).op with
  | none => s
  | some o =>
    let th := s.thread (svKey e o.thread)
    match s.findJob th.job with
    | none => s
    | some j =>
      if o.r.op ≠ op ∨ o.staged ∨ !opLives j o ∨ !s.stepsRun then s
      else
        let w : Who := ⟨6, e⟩
        let reads := s.readExtents j o.r
        match s.checkAll j w reads with
        | (.bad c, a) => (s.accessFault c a w).opFault e o c
        | (.wait, _) => reads.foldl (fun st x => st.wakeFor x.1) s
        | (.ok, _) =>
          match s.patternFault j o.r with
          | some c => s.opFault e o c
          | none =>
            let y := f s j o.r
            let die := e / 4
            let s := s.tick
            let s := if workBytes o.r = 0 then s else (s.wrFree o.r.work (workBytes o.r)).clearPoison o.r.work (workBytes o.r)
            let s := (s.count 0x2301 die j.handle y.small).count 0x2302 die j.handle y.zero
            let s := s.mapOcc e o.thread (fun q => { q with small := q.small + y.small, zero := q.zero + y.zero
                                                            maxResid := worse q.maxResid y.resid })
            let s := s.bump (Regs.obsSolver die (e % 4) 12) o.r.iters
            (s.mapEngine e (fun x => { x with op := some { o with
              staged := true, iter := o.r.iters, overflow := y.overflows o.r.sparse
              resid := y.resid, sigma := y.sigma, result := y.segs } })).unborrow e

/-! ### Commit and discard (R276, R277), steps (R256), abandonment (R282, R283) -/

/-- The operation of an engine is over: its slot and its borrowed tiles are free. -/
def endOp (e : Nat) (s : State) : State :=
  let s := ({ s with solver := { s.solver with holds := s.solver.holds.filter (fun x => x.2 != e) } }).unborrow e
  (s.mapEngine e (fun x => { x with op := none })).wakeSolvers

/-- LAST_STATUS and LAST_GEN of a slot (R277, R282): a SLOT_INIT would have made generation 0 (R275; DEDUCED). -/
def writeLast (o : SlvOp) (code : Nat) (s : State) : State :=
  if o.r.outslot then
    (s.wrNat (o.r.out + 32) 2 code).wrNat (o.r.out + 34) 2 (if o.r.op = 0x0F then 0 else (s.curGen o.r.out + 1) % 65536)
  else s

/-- A generation becomes current (R276). A block-sparse result that is larger than the slot's buffer ends at the buffer's end
(DESIGN CHOICE, log 24). -/
def commitSlot (o : SlvOp) (s : State) : State :=
  let slot := o.r.out
  let size := slotBytes o.r.n o.r.op
  let gen := (s.curGen slot + 1) % 65536
  let tok := s.freeCtr
  let open_ := fun (i : Nat) (v : Option W32) => (v.getD (Config.freeWord tok i)).toNat
  let a := slot + 4096 + o.buf * size
  let s := o.result.foldl (fun st g =>
    let bs := (g.2.flatMap (fun (v : W32) => leBytes 4 v.toNat)).take (size - g.1)
    (st.wr (a + g.1) bs).clearPoison (a + g.1) bs.length) s
  let s := (((s.wrNat (slot + 16) 4 (open_ 0 o.sigma)).wrNat (slot + 20) 4 o.r.lambda.toNat).wrNat (slot + 24) 4 (open_ 1 o.resid)).wrNat
    (slot + 8) 8 s.beat.pos.toNat
  let cur := gen + o.buf * 65536 + 131072
  let s := (s.wrNat slot 4 cur).wrNat (slot + 4) 4 (2 ^ 32 - 1 - cur)
  (((s.wrNat (slot + 30) 1 o.r.op).wrNat (slot + 34) 2 gen).wrNat (slot + 32) 2 0).tick

/-- SLOT_INIT (R275). -/
def initSlot (o : SlvOp) (s : State) : State :=
  ((s.zero o.r.out 64).wrNat (o.r.out + 4) 4 (2 ^ 32 - 1)).wrNat (o.r.out + 28) 2 o.r.n

/-- A finished operation commits or is discarded (R276, R277). -/
def finishOp (e : Nat) (j : Job) (o : SlvOp) (s : State) : State :=
  let die := e / 4
  let tooLarge := match o.resid with
    | some v => ltF (fp32.decode o.r.resMax.toNat) (fp32.decode v.toNat)
    | none => false
  if o.overflow then
    ((((s.writeLast o 0x2303).count 0x2303 die j.handle 1).mapOcc e o.thread (fun q => { q with overflow := q.overflow + 1 })).endOp e)
  else if tooLarge then
    ((((s.writeLast o 0x2304).count 0x2304 die j.handle 1).mapOcc e o.thread (fun q => { q with highres := q.highres + 1 })).endOp e)
  else
    let w : Who := ⟨6, e⟩
    match s.checkAll j w [(o.r.out, s.outBytes j o.r, true)] with
    | (.bad c, a) => ((s.accessFault c a w).opFault e o c).endOp e
    | (.wait, _) => s.wakeFor o.r.out
    | (.ok, _) =>
      let s := if o.r.op = 0x0F then s.initSlot o
        else if o.r.outslot then (s.commitSlot o).loseReplay j.handle
        else o.result.foldl (fun st g => st.save (o.r.out + g.1) (g.2.flatMap (fun (v : W32) => leBytes 4 v.toNat))) s
      ((s.bump (Regs.obsSolver die (e % 4) 11) 1).mapOcc e o.thread (fun q => { q with committed := q.committed + 1 })).endOp e

/-- A step ends: the boundary where a quench and an abandonment act, and where a staged result is committed. -/
def solverStepEff (e : Nat) (s : State) : State :=
  match (s.slvEngine e).op with
  | none => s
  | some o =>
    if !s.stepsRun then s
    else
      let s := s.bump (Regs.obsSolver (e / 4) (e % 4) 15) 1
      match s.findJob (s.thread (svKey e o.thread)).job with
      | none => s.endOp e
      | some j =>
        if !opLives j o then s.endOp e
        else
          match s.openOf e o.thread with
          | some q =>
            if q.abandoned ≠ 0 then ((s.writeLast o q.abandoned).endOp e).skipToEnd e o.thread
            else if o.staged then s.finishOp e j o
            else s.mapEngine e (fun x => { x with op := some { o with steps := o.steps + 1 } })
          | none => if o.staged then s.finishOp e j o else s

/-- A DEADLINE_REFRESH entry on one engine (R282). -/
def abandonOn (h : W32) (refresh e : Nat) (s : State) : State :=
  let k := launchKey h e refresh
  let en := s.slvEngine e
  match en.opens.find? (fun o => o.refresh == refresh && o.abandoned == 0 && (s.thread (svKey e o.thread)).job == h) with
  | some q =>
    let s := (s.mapOcc e q.thread (fun x => { x with abandoned := 0x2310 })).count 0x2310 (e / 4) h 1
    if (match en.op with | some o => o.thread == q.thread | none => false) then s else s.skipToEnd e q.thread
  | none =>
    let begun := mget s.solver.begins k 0
    match ((List.range (mget s.solver.launches k 0 - begun)).map (fun i => begun + 1 + i)).find? (fun o => !s.solver.marks.contains (k, o)) with
    | some o => ({ s with solver := { s.solver with marks := s.solver.marks ++ [(k, o)] } }).count 0x2310 (e / 4) h 1
    | none => s

def deadlineRefreshAct (d : Nat) (en : SchedEntry) (s : State) : State :=
  match s.findJob en.owner with
  | none => s
  | some j => (s.refreshOn j en.flags d).foldl (fun st e => st.abandonOn j.handle en.flags e) s

def refreshLaunchAct (d : Nat) (en : SchedEntry) (s : State) : State :=
  match s.findJob en.owner with
  | none => s
  | some j => (s.refreshOn j en.flags d).foldl (fun st e => st.launchOn j.handle e en.flags) s

/-- Deep sleep or Off abandons an engine's operation (R283): its occurrence closes with its status record, and its thread
stands after the SV_END. -/
def abandonPower (e : Nat) (s : State) : State :=
  match (s.slvEngine e).op with
  | none => s
  | some o =>
    let k := svKey e o.thread
    let th := s.thread k
    let s : State := ((s.writeLast o 0x2311).count 0x2311 (e / 4) th.job 1).endOp e
    match s.findJob th.job, s.openOf e o.thread with
    | some j, some q =>
      let s : State := match resolveAddr (ThreadId.ofKey k) th.bases (s.refreshStatus j q.refresh) with
        | none => s
        | some a => if s.access j ⟨6, e⟩ true true (a + 64 * e) 64 == .ok then s.closeOcc e { q with abandoned := 0x2311 } (a + 64 * e) else s
      (s.skipToEnd e o.thread).mapThread k (fun x => if x.st = .halted ∨ x.st = .done ∨ x.st = .free then x else { x with pc := x.pc + 32 })
    | _, _ => s

/-- The occurrences and operations of an engine go with its job. -/
def clearEngine (e : Nat) (s : State) : State :=
  let s := s.endOp e
  { s with solver := { s.solver with
    engines := mdel s.solver.engines e } }

/-- A borrowed tile's array runs one chunk: its operands and results fill the lent banks, which the engine must own and which
must be ON (R139, R145, R257). Engines that borrow one tile take turns (DEDUCED: each is one requester of R194). -/
def chunkEff (e t : Nat) (s : State) : State :=
  match (s.slvEngine e).op with
  | none => s
  | some o =>
    let asks := mget s.matrix.borrowed t []
    if mfind s.matrix.holder t = some 4 ∧ asks.head? = some e ∧ o.tiles.contains t ∧ s.power.st = 0 ∧ !s.power.warn then
      match s.findJob (s.thread (svKey e o.thread)).job with
      | none => s
      | some j =>
        let w : Who := ⟨6, e⟩
        let lent := ((List.range 16).filter (fun b => bit o.r.lend b)).map (fun b => (bankAddr (t * 16 + b), bankSize (t * 16 + b), true))
        match s.checkAll j w lent with
        | (.bad c, a) => ((s.accessFault c a w).opFault e o c).freeChunk t
        | (.wait, _) => lent.foldl (fun st x => st.wakeFor x.1) s
        | (.ok, _) =>
          let s : State := lent.foldl (fun st x => st.wrFree x.1 x.2.1) s
          let s := { s with matrix := { s.matrix with
            holder := mdel s.matrix.holder t
            last := mset s.matrix.last t 4
            borrowed := mset s.matrix.borrowed t (asks.tail ++ [e]) } }
          s.bump (Regs.obsSolver (e / 4) (e % 4) 14) 1
    else s

/-- A borrowed tile leaves the operations that use it, which run on without it (R281). -/
def dropBorrowed (t : Nat) (s : State) : State :=
  { s with
    matrix := { s.matrix with
      borrowed := mdel s.matrix.borrowed t
      holder := s.matrix.holder.filter (fun c => !(c.1 == t && c.2 == 4)) }
    solver := { s.solver with engines := s.solver.engines.map (fun (c : Nat × Engine) =>
      (c.1, { c.2 with op := c.2.op.map (fun o => { o with tiles := o.tiles.filter (fun x => x != t) }) })) } }

/-! ### Pins (R278, R286) -/

/-- A write of a pin by a command list of the job that holds its engine: the code that halts the writer, or the new
state. -/
def pinWriteEff (j : Job) (d i : Nat) (v : Nat) (s : State) : Except W16 State :=
  let o := Regs.pin d i
  if !bit v 0 then .ok ((s.setRegNat o (setBits (v &&& 0xFFFFFFFFF000) 63 48 (s.field o 63 48) + s.field o 2 1 * 2)).wakeSolvers)
  else
    let slot := bits v 47 12 * 4096
    if !s.absoluteOk j slot 4096 then .error 0x2322
    else
      match (s.channelAcc slot 64).andThen (if s.poisonStack slot 64 then .bad 0x3211 else .ok) with
      | .bad c => .error c
      | _ =>
        if !s.curGuard slot then .error 0x8010
        else .ok ((s.setRegNat o (1 + (if s.curValid slot then 0 else 2) + s.curBuf slot * 4 + slot + s.curGen slot * 2 ^ 48)).wakeSolvers)

/-- SLV.STATUS as it reads (R284). -/
def slvStatusValue (s : State) (e : Nat) : Nat :=
  let en := s.slvEngine e
  let waits := fun (st : TSt) => [0, 1].any (fun n => (s.thread (svKey e n)).st == st && (s.thread (svKey e n)).beatTarget.isNone)
  let state := match en.op with
    | some o =>
      if (match s.openOf e o.thread with | some q => q.abandoned != 0 | none => false) then 4
      else if s.stepsRun then 3 else 5
    | none => if waits .waitUnit then 2 else if waits .waitBeat then 1 else 0
  state + (match en.opens.head? with | some q => q.refresh * 256 | none => 0)
    + (match en.op with | some o => o.r.op * 65536 + o.iter * 2 ^ 32 | none => 0)

end State

def execSvBegin (t : ThreadId) (h : CmdHead) (refresh : W16) (s : State) : Host.Outcome State Fault Refusal :=
  .next (s.svBeginEff t h refresh.toNat)
def execSvRun (t : ThreadId) (h : CmdHead) (r : W32) (s : State) : Host.Outcome State Fault Refusal := .next (s.svRunEff t h r.toNat)
def execSvEnd (t : ThreadId) (h : CmdHead) (refresh : W16) (s : State) : Host.Outcome State Fault Refusal :=
  .next (s.svEndEff t h refresh.toNat)
def execChol (e : Sys2Proof.Engine) (s : State) : Host.Outcome State Fault Refusal :=
  .next (s.solverOpEff 1 e.val State.computeFactor)
def execLdlt (e : Sys2Proof.Engine) (s : State) : Host.Outcome State Fault Refusal :=
  .next (s.solverOpEff 2 e.val State.computeFactor)
def execTrsv (e : Sys2Proof.Engine) (s : State) : Host.Outcome State Fault Refusal :=
  .next (s.solverOpEff 3 e.val (fun s j r => s.computeSolve j r 1))
def execTrsm (e : Sys2Proof.Engine) (s : State) : Host.Outcome State Fault Refusal :=
  .next (s.solverOpEff 4 e.val (fun s j r => s.computeSolve j r r.mh))
def execInvRoot (e : Sys2Proof.Engine) (s : State) : Host.Outcome State Fault Refusal :=
  .next (s.solverOpEff 5 e.val State.computeRoot)
def execInv (e : Sys2Proof.Engine) (s : State) : Host.Outcome State Fault Refusal :=
  .next (s.solverOpEff 6 e.val State.computeRoot)
def execEigbasis (e : Sys2Proof.Engine) (s : State) : Host.Outcome State Fault Refusal :=
  .next (s.solverOpEff 7 e.val State.computeRoot)
def execSolveLs (e : Sys2Proof.Engine) (s : State) : Host.Outcome State Fault Refusal :=
  .next (s.solverOpEff 8 e.val (fun s _ r => s.computeLs r))
def execSlotLoad (e : Sys2Proof.Engine) (s : State) : Host.Outcome State Fault Refusal :=
  .next (s.solverOpEff 0x0E e.val (fun s _ r => s.computeLoad r))
def execSlotInit (e : Sys2Proof.Engine) (s : State) : Host.Outcome State Fault Refusal :=
  .next (s.solverOpEff 0x0F e.val (fun s _ r => s.computeInit r))
def execSolverStepEnd (e : Sys2Proof.Engine) (s : State) : Host.Outcome State Fault Refusal := .next (s.solverStepEff e.val)
def execBorrowedChunk (e : Sys2Proof.Engine) (t : Tile) (s : State) : Host.Outcome State Fault Refusal := .next (s.chunkEff e.val t.val)
def execDeadlineRefresh (d : Die) (i : Fin 1024) (s : State) : Host.Outcome State Fault Refusal :=
  .next (s.fireEntry d.val i.val 4 (State.deadlineRefreshAct d.val))
def execRefreshLaunch (d : Die) (i : Fin 1024) (s : State) : Host.Outcome State Fault Refusal :=
  .next (s.fireEntry d.val i.val 6 (State.refreshLaunchAct d.val))

end Sys2Proof.Machine
end

