-- ==== Sys2Proof/Machine/StackMem.lean ====
section
/-! DEFINITION. Stacked memory (spec/06_wasan_stacks.md): the region table (R166, R178), patrol scrub (R171) and the
repairs (R173 to R177). -/

namespace Sys2Proof.Machine
namespace State

/-! ### The region table (R166, R178) -/

/-- First and last 2 MiB unit of an entry. -/
def rgnRange (lo hi : Nat) : Nat × Nat := (bits lo 38 21, bits hi 38 21)

/-- The entry `n` with words `lo` and `hi` would overlap another valid entry. -/
def rgnOverlaps (s : State) (n lo hi : Nat) : Bool :=
  bit lo 0 && (List.range 64).any (fun i =>
    i != n && s.flag (Regs.rgnLo i) 0 &&
      (let r := rgnRange (s.regNat (Regs.rgnLo i)) (s.regNat (Regs.rgnHi i))
       let m := rgnRange lo hi
       decide (m.1 ≤ r.2) && decide (r.1 ≤ m.2)))

/-- The entry's tag belongs to an admitted or running job. -/
def tagInUse (s : State) (tag : Nat) : Bool := s.jobs.any (fun j => j.block.tag.toNat == tag)

def regionEff (n : Nat) (hi : Bool) (v : Nat) (s : State) : State :=
  s.setRegNat (if hi then Regs.rgnHi n else Regs.rgnLo n) (v &&& (if hi then 0x7FFFE3FFFF else 0x7FFFE0000F))

/-- A refused write is recorded in MEM.ERR_LOG and logged (R166, R474). -/
def regionRefused (code : W16) (s : State) : State :=
  if code = 0 then s else (s.recordFault Regs.memErrLog code.toNat).log code 0x700 0 0

/-! ### Patrol scrub (R171) -/

def scrubEff (st off : Nat) (e : Ecc) (s : State) : State :=
  if (s.power.st = 0 ∨ s.power.st = 1) ∧ s.flag Regs.scrubCfg 0 ∧ off < 0xC00000000 then
    let s := if off < 64 then { s with stk := { s.stk with
        corrCh := s.stk.corrCh.filter (fun c => c.1 / 132 != st)
        corrRow := s.stk.corrRow.filter (fun c => c.1 / 2 ^ 20 / 132 != st) } } else s
    match e with
    | .clean => s
    | .single => (s.eccRead (stackAddr st off) 0 .single).1
    | e => ((s.eccRead (stackAddr st off) 0 e).1).log (if e = .double then 0x3211 else 0x3212) (0x600 + st) 0 (BitVec.ofNat 64 (stackAddr st off))
  else s

/-! ### Repairs (R173, R175, R176) -/

/-- A spare row is applied, in Run or Idle, while one of the bank's 8 is left. -/
def spareRowEff (st pch bank row : Nat) (s : State) : State :=
  let k := (st * 132 + pch) * 16 + bank
  if (s.power.st = 0 ∨ s.power.st = 1) ∧ mget s.stk.rowsUsed k 0 < 8 then
    { s with stk := { s.stk with
        rowsUsed := mset s.stk.rowsUsed k (mget s.stk.rowsUsed k 0 + 1)
        corrRow := mdel s.stk.corrRow ((st * 132 + pch) * 2 ^ 20 + row) } }
  else s

/-- A spare column group is applied in a Sleep window, while one of the bank's 2 is left. -/
def spareColEff (st pch bank : Nat) (s : State) : State :=
  let k := (st * 132 + pch) * 16 + bank
  if s.power.st = 2 ∧ mget s.stk.colsUsed k 0 < 2 then
    { s with stk := { s.stk with colsUsed := mset s.stk.colsUsed k (mget s.stk.colsUsed k 0 + 1) } }
  else s

/-- A spare via lane is applied in a Sleep window and the channel is retrained, while one of its 2 is left. -/
def spareLaneEff (st pch : Nat) (s : State) : State :=
  let k := st * 132 + pch
  if s.power.st = 2 ∧ mget s.stk.lanesUsed k 0 < 2 then
    { s with stk := { s.stk with lanesUsed := mset s.stk.lanesUsed k (mget s.stk.lanesUsed k 0 + 1) } }
  else s

/-- Logical channel `ch` moves to a spare channel (R175); a wake abandons the repair (R176). A DOWN channel is
filled with poison in place of the copy. -/
def replaceEff (st ch : Nat) (wake : Bool) (s : State) : State :=
  let p := s.physCh st ch
  let c := s.chState st p
  if s.power.st = 2 ∧ (c = .degraded ∨ c = .down) then
    match s.freeSpare st with
    | none => s.report 0x3223 (0x600 + st)
    | some q =>
      if wake then s
      else
        let s := if c = .down then { s with stk := { s.stk with
            filled := mset s.stk.filled (st * 128 + ch) [] } } else s
        let m := (mget s.stk.remap st []).filter (fun x => x.2 != ch)
        let s := { s with stk := { s.stk with remap := mset s.stk.remap st (m ++ [(q - 128, ch)]) } }
        ((s.setChannel st p .retired).setChannel st q .ok).report 0x3222 (0x600 + st)
  else s

def channelDownEff (st ch : Nat) (s : State) : State :=
  let p := s.physCh st ch
  if s.chState st p = .down then s else (s.setChannel st p .down).noteSpares st

/-! ### What the registers read (R181, R182) -/

def stkStatusValue (s : State) (st : Nat) : Nat :=
  let chans := List.range 132
  let spares := (chans.filter (fun p => s.chState st p == .spare)).length
  let bad := chans.find? (fun p => s.chState st p == .degraded || s.chState st p == .down)
  (if s.stk.trained then spares + 8 else 0)
    + (if chans.any (fun p => s.chState st p == .degraded) then 16 else 0)
    + (if chans.any (fun p => s.chState st p == .down) then 32 else 0)
    + (bad.getD 0xFF) * 64

def chRemapValue (s : State) (st : Nat) : Nat :=
  ((mget s.stk.remap st []).map (fun x => (x.2 + 128) * 2 ^ (8 * x.1))).sum

end State

def execScrubRead (st : Stack) (offset : BitVec 36) (ecc : Ecc) (s : State) : Host.Outcome State Fault Refusal :=
  .next (s.scrubEff st.val (offset.toNat / 64 * 64) ecc)
def execSpareRowRepair (st : Stack) (pch : Fin 132) (bank : Fin 16) (row : W32) (s : State) : Host.Outcome State Fault Refusal :=
  .next (s.spareRowEff st.val pch.val bank.val row.toNat)
def execSpareColumnGroupRepair (st : Stack) (pch : Fin 132) (bank : Fin 16) (s : State) : Host.Outcome State Fault Refusal :=
  .next (s.spareColEff st.val pch.val bank.val)
def execSpareTsvLaneRepair (st : Stack) (pch : Fin 132) (s : State) : Host.Outcome State Fault Refusal :=
  .next (s.spareLaneEff st.val pch.val)
def execChannelReplace (st : Stack) (ch : Fin 128) (wake : Bool) (s : State) : Host.Outcome State Fault Refusal :=
  .next (s.replaceEff st.val ch.val wake)
def execChannelDown (st : Stack) (ch : Fin 128) (s : State) : Host.Outcome State Fault Refusal :=
  .next (s.channelDownEff st.val ch.val)

end Sys2Proof.Machine
end

