-- ==== Sys2Proof/Machine/TileMem.lean ====
section
/-! DEFINITION. On-chip memory control (spec/05_tile_memory.md): bank-owner registers (R136 to R138), power modes
of banks (R144, R145, R150) and W1 retention (R147, R151). -/

namespace Sys2Proof.Machine

/-- A UNIT in range for its KIND (R136): `shared` for a shared-store bank. DESIGN CHOICE (log 85): R136 gives no range of
UNIT for KIND 0, and any value is taken. -/
def ownerFieldsOk (shared : Bool) (v : Nat) : Bool :=
  let kind := bits v 2 0
  let unit := bits v 13 8
  if kind = 7 then false
  else if kind = 0 then true
  else if kind ≤ 3 then shared || unit == 0
  else if kind = 4 then unit == 0
  else if kind = 5 then decide (unit ≤ 1)
  else decide (unit ≤ 3)

namespace State

/-- The admitted or running job that holds a bank: by its tile or by its bank mask (R61, R135). -/
def bankJob (s : State) (bank : Nat) : Option Job :=
  s.jobs.find? (fun j => j.st != .admitted &&
    (if bank < 4096 then j.block.tiles.contains (bank / 16) else j.ownsBank ((bank - 4096) / 64) (bank % 64)))

/-- A thread's job holds the bank. -/
def threadBank (s : State) (t : ThreadId) (bank : Nat) : Bool :=
  match s.bankJob bank with
  | some j => j.handle == (s.thread t.key).job
  | none => false

/-- A discarded owner-register write, in MEM_FAULT with CODE 0 (R136, R152). -/
def ownerDiscard (bank : Nat) (s : State) : State :=
  let o := if bank < 4096 then Regs.tilMemFault (bank / 16) else Regs.shsFault ((bank - 4096) / 64)
  s.recordFault o ((if bank < 4096 then bank % 16 else bank % 64) * 2 ^ 16)

/-- Every thread whose WAIT word lies in a bank that leaves ON halts (R145), as the access would (R152). -/
def haltWaits (bank : Nat) (s : State) : State :=
  s.threads.foldl (fun st c =>
    match c.2.wait with
    | some w =>
      if (c.2.st = .waitEvent ∨ c.2.st = .waitExt) ∧ bankOf (placeOf w.addr) = some bank then
        st.haltAccess (ThreadId.ofKey c.1) 0x3107 w.addr else st
    | none => st) s

/-- Threads, and accesses of the network interfaces, that wait for a bank or a buffer that is becoming ON go on (R145,
R147). -/
def wakeData (s : State) : State :=
  (s.threads.foldl (fun st c => if c.2.st = .waitData then st.goOn c.1 else st) s).retryNi

/-- A bank's MODE is set to a new value and its transition begins (R144, R145). The contents of one that goes OFF are lost:
before anything can read them again the bank holds zeros. -/
def moveBank (bank old new : Nat) (s : State) : State :=
  if old = new then s
  else
    let was := s.store.moves.find? (fun m => m.bank == bank)
    let off := old == 2 || (match was with | some m => m.zero | none => false)
    let rest := s.store.moves.filter (fun m => m.bank != bank)
    let s := { s with store := { s.store with moves := rest ++ [⟨bank, new, off⟩] } }
    let s := if new = 2 then (s.zero (bankAddr bank) (bankSize bank)).clearPoison (bankAddr bank) (bankSize bank) else s
    if new = 0 then s else s.haltWaits bank

/-- The MODE fields of a BANK_PWR register after a write: 3 leaves a field unchanged, and a field whose bank
`mine` excludes keeps its value (R150). -/
def pwrValue (old v : Nat) (mine : Nat → Bool) : Nat :=
  (List.range 16).foldl (fun acc k =>
    let m := bits v (2 * k + 1) (2 * k)
    if m = 3 ∨ !mine k then acc else setBits acc (2 * k + 1) (2 * k) m) old

/-- A write of TIL.BANK_PWR or SHS.BANK_PWRi whose first bank is `first`. -/
def bankPwrEff (o first v : Nat) (mine : Nat → Bool) (s : State) : State :=
  let old := s.regNat o
  if first < 4096 && s.flag (Regs.memCompat (first / 16)) 0 then s.setField (Regs.memCompat (first / 16)) 2 2 1
  else
    let new := pwrValue old v mine
    let s := s.setRegNat o new
    (List.range 16).foldl (fun st k => st.moveBank (first + k) (bits old (2 * k + 1) (2 * k)) (bits new (2 * k + 1) (2 * k))) s

/-- A bank's transition ends: one that came from OFF is zeroed, unless W1 retention took it over meanwhile (R147), and what
waits for it goes on. -/
def bankDoneEff (bank : Nat) (s : State) : State :=
  match s.store.moves.find? (fun m => m.bank == bank) with
  | none => s
  | some m =>
    let s := { s with store := { s.store with moves := s.store.moves.filter (fun m => m.bank != bank) } }
    let compat := decide (bank < 4096) && s.flag (Regs.memCompat (bank / 16)) 0
    let s := if m.zero && m.target ≠ 2 && !compat then
        (s.zero (bankAddr bank) (bankSize bank)).clearPoison (bankAddr bank) (bankSize bank) else s
    if m.target = 0 then s.wakeData else s

/-- Banks of a tile whose BANK_PWR mode is not ON make that transition as W1 retention ends (R147). -/
def leaveCompat (tile : Nat) (s : State) : State :=
  (List.range 16).foldl (fun st b => st.moveBank (tile * 16 + b) 0 (st.bankMode (tile * 16 + b))) s

/-- A write of TIL.MEM_COMPAT (R147, R151). -/
def memCompatEff (tile v : Nat) (s : State) : State :=
  let o := Regs.memCompat tile
  let s := if bit v 2 then s.setField o 2 2 0 else s
  let was := s.flag o 0
  if bit v 0 ∧ !was then ((s.cacheInvalidate orphanRequester tile 0 0).setField o 0 0 1).setField o 1 1 0
  else if !bit v 0 ∧ was then
    let s := s.setField o 0 0 0
    if s.flag o 1 then s.leaveCompat tile else s
  else s

/-- The wake of a tile's memories ends (R147): AWAKE reads 1 and waiting accesses proceed. -/
def compatDoneEff (tile : Nat) (s : State) : State :=
  let o := Regs.memCompat tile
  if !s.flag o 1 ∧ (s.store.compatWaking.contains tile ∨ !s.flag o 0) then
    let s := { s with store := { s.store with compatWaking := s.store.compatWaking.filter (fun t => t != tile) } }
    let s := s.setField o 1 1 1
    let s := if s.flag o 0 then s else s.leaveCompat tile
    s.wakeData
  else s

end State

/-- Number of a bank that a command names. -/
def bankNum : BankId → Nat
  | .scratch t b => t.val * 16 + b.val
  | .shared d b => 4096 + d.val * 64 + b.val

/-- Register offset of a bank-owner register and of a BANK_PWR register. -/
def pwrOff : PwrReg → Nat
  | .til t => Regs.tilPwr t.val
  | .shs d i => Regs.shsPwr d.val i.val

def execBankTransitionDone (bank : BankId) (s : State) : Host.Outcome State Fault Refusal := .next (s.bankDoneEff (bankNum bank))
def execCompatWakeDone (t : Tile) (s : State) : Host.Outcome State Fault Refusal := .next (s.compatDoneEff t.val)

end Sys2Proof.Machine
end

