-- ==== Sys2Proof/Machine/Update.lean ====
section
/-! DEFINITION. The update units (spec/13_update_unit.md, R346 to R375): update descriptors and shard records,
the rules on a block of weights, the journal, and the update commands. -/

namespace Sys2Proof.Machine
open Sys2Proof.Num

/-! ### Descriptors and records (R347, R348, R350, R356) -/

/-- Bytes `o` to `o + k - 1` of a structure, as a number. -/
def recField (bs : List Byte) (o k : Nat) : Nat := leNat ((bs.drop o).take k)

/-- An update descriptor as stored in the image. -/
structure UpdDesc where
  bytes : List Byte
deriving DecidableEq, Repr

def UpdDesc.n (d : UpdDesc) (o k : Nat) : Nat := recField d.bytes o k
def UpdDesc.header (d : UpdDesc) : Nat := d.n 0 4
def UpdDesc.guarded (d : UpdDesc) : Bool := d.n 4 4 == 2 ^ 32 - 1 - d.n 0 4

/-- Fields of a HEADER, which the record keeps as HDR. -/
def hdrRule (h : Nat) : Nat := bits h 3 0
def hdrNesterov (h : Nat) : Bool := bit h 4
def hdrHasP (h : Nat) : Bool := bit h 5
def hdrFrozen (h : Nat) : Bool := bit h 6
def hdrWfmt (h : Nat) : Nat := bits h 11 7
/-- The rule reads the reduced gradient. -/
def hdrReadsG (h : Nat) : Bool := !hdrHasP h || hdrRule h == 4
/-- The rule keeps a first moment, a second moment (R349). -/
def hdrM1 (h : Nat) : Bool := hdrRule h != 0
def hdrM2 (h : Nat) : Bool := hdrRule h == 2 || hdrRule h == 4

/-- The checks of R347 and R348 on the fields of a descriptor that need no job. -/
def UpdDesc.ok (d : UpdDesc) : Bool :=
  let h := d.header
  let read := fun (o : Nat) (b : Bool) => (d.n o 8 != 0) == b
  let unread := fun (o : Nat) (b : Bool) => b || d.n o 8 == 0
  d.guarded && decide (hdrRule h ≤ 4) && (hdrWfmt h == 1 || hdrWfmt h == 2) && bits h 31 12 == 0
    && decide (d.n 14 1 ≤ 1) && d.n 15 1 == 0 && decide (1 ≤ d.n 16 4) && decide (d.n 16 4 < 2 ^ 24)
    && (d.n 10 2 == 0xFFFF || decide (d.n 10 2 < 256)) && (d.n 12 2 == 0xFFFF || decide (d.n 12 2 < 256))
    && read 72 (hdrReadsG h) && read 80 (hdrHasP h)
    && unread 40 (hdrM1 h) && unread 48 (hdrM1 h) && unread 56 (hdrM2 h) && unread 64 (hdrM2 h)
    && read 96 (hdrFrozen h) && (hdrRule h != 4 || hdrHasP h)
    && (d.bytes.drop 160).all (fun b => b == 0) && d.bytes.length == 256

/-- What a record keeps of an update (R356): HDR, NBLK, SHARD, its nine addresses, the counter and DONE_VAL, the
scale, the parameters LR to UCLIP, TAG and OPEN_BEAT. -/
structure Snap where
  hdr : Nat
  nblk : Nat
  shard : Nat
  w : Nat
  m1 : Nat
  m1s : Nat
  m2 : Nat
  m2s : Nat
  gsrc : Nat
  psrc : Nat
  jrn : Nat
  frozen : Nat
  doneCtr : Nat
  doneVal : Nat
  scale : W32
  hyper : List W32
  tag : Nat
  openBeat : Nat
deriving DecidableEq, Repr

def Snap.rule (p : Snap) : Nat := hdrRule p.hdr
def Snap.par (p : Snap) (i : Nat) : W32 := p.hyper.getD i 0

/-- Bytes 8 to 255 of a record. -/
def Snap.bytes (p : Snap) (done replayed : Nat) : List Byte :=
  leBytes 4 done ++ leBytes 4 replayed ++ leBytes 4 p.nblk ++ leBytes 2 p.shard ++ leBytes 2 p.hdr
    ++ [p.w, p.m1, p.m1s, p.m2, p.m2s, p.gsrc, p.psrc, p.jrn, p.frozen, p.doneCtr].flatMap (leBytes 8)
    ++ leBytes 4 p.doneVal ++ leBytes 4 p.scale.toNat ++ (List.range 9).flatMap (fun i => leBytes 4 (p.par i).toNat)
    ++ leBytes 2 p.tag ++ leBytes 2 0 ++ leBytes 8 p.openBeat ++ List.replicate 96 0

/-- CUR and its complement (R356). -/
def curBytes (gen : Nat) (opened : Bool) : List Byte :=
  let v := gen % 65536 + (if opened then 65536 else 0)
  leBytes 4 v ++ leBytes 4 (2 ^ 32 - 1 - v)

/-- The value of a journal entry (R359). -/
def journalWord (phase block gen shard : Nat) : Nat :=
  phase % 4 + block % 2 ^ 24 * 2 ^ 8 + gen % 65536 * 2 ^ 32 + shard % 65536 * 2 ^ 48
def journalBytes (phase block gen shard : Nat) : List Byte :=
  leBytes 8 (journalWord phase block gen shard) ++ leBytes 8 (2 ^ 64 - 1 - journalWord phase block gen shard)

/-- Ranges of the hyperparameter record (R350). -/
def paramsOk (rule : Nat) (bs : List Byte) : Bool :=
  let f := fun i => fp32.decode (recField bs (4 * i) 4)
  let nonneg := fun i => match f i with | .fin n m _ => !n || m == 0 | _ => false
  let unit := fun i => nonneg i && !ltF (.fin false 1 0) (f i)
  nonneg 0 && nonneg 1 && unit 2 && unit 3
    && nonneg 4 && (!(rule == 2 || rule == 4) || ltF .zero (f 4))
    && nonneg 5 && nonneg 6 && (f 7).isFin && nonneg 8 && nonneg 9 && recField bs 40 4 == 0

/-- Index in the record's nine parameters, LR WD BETA1 BETA2 EPS BC1 BC2 GSCALE UCLIP, from the words of R350. -/
def hyperOf (bs : List Byte) : List W32 :=
  [0, 1, 2, 3, 4, 5, 6, 7, 9].map (fun i => BitVec.ofNat 32 (recField bs (4 * i) 4))

/-! ### The rules (R351, R354, R355) -/

/-- The new moments of an element before M8 encoding, from the direction (or the gradient, for GRAFT) and the old
moments. -/
def rawMoments (p : Snap) (tok i : Nat) (x m v : W32) : W32 × W32 :=
  let k := 64 * i
  let b1 := p.par 2
  let b2 := p.par 3
  let one := sub tok (k + 2) one32
  let m1 := fun (a b : W32) => add tok (k + 10) (mul tok (k + 6) a m) (mul tok (k + 8) b x)
  match p.rule with
  | 1 => (add tok (k + 10) (mul tok (k + 6) b1 m) x, 0)
  | 3 => (m1 b2 (one b2), 0)
  | 2 | 4 => (m1 b1 (one b1),
      add tok (k + 20) (mul tok (k + 12) b2 v) (mul tok (k + 18) (mul tok (k + 16) (sub tok (k + 14) one32 b2) x) x))
  | _ => (0, 0)

/-- sign(x), with sign(0) = 0. -/
def signOf (x : W32) : W32 :=
  match rd x with
  | .nan => nan32
  | .inf n => if n then 0xBF800000 else one32
  | .fin n m _ => if m = 0 then 0 else if n then 0xBF800000 else one32

/-- The step direction of an element from its decoded new moments. -/
def stepDir (p : Snap) (tok i : Nat) (xp m1 v1 : W32) : W32 :=
  let k := 64 * i + 22
  let b1 := p.par 2
  match p.rule with
  | 1 => if hdrNesterov p.hdr then add tok (k + 2) (mul tok k b1 m1) xp else m1
  | 3 => signOf (add tok (k + 6) (mul tok k b1 m1) (mul tok (k + 4) (sub tok (k + 2) one32 b1) xp))
  | 2 => div tok (k + 8) (mul tok k (p.par 5) m1) (add tok (k + 6) (sqrt tok (k + 4) (mul tok (k + 2) (p.par 6) v1)) (p.par 4))
  | _ => xp

/-- u after SCALE_EFF and UCLIP, and the new weight in FP32. -/
def stepWeight (p : Snap) (tok i : Nat) (u w : W32) : W32 × W32 :=
  let k := 64 * i + 40
  let u := mul tok k p.scale u
  let c := p.par 8
  let u := if ltF .zero (rd c) then minV (maxV u (negate c)) c else u
  (u, sub tok (k + 8) w (mul tok (k + 6) (p.par 0) (add tok (k + 4) u (mul tok (k + 2) (p.par 1) w))))

/-- The weight format of a shard. -/
def wFloat (p : Snap) : FF := if hdrWfmt p.hdr = 2 then fp16 else bf16

/-- A block's inputs as FP32 words: gradient, direction, weights, and moments decoded. -/
structure BlockIn where
  g : List W32
  p : List W32
  w : List Nat
  m : List W32
  v : List W32

/-- What a weight half gives: the weight codes, saturations, and groups held. -/
structure WeightHalf where
  codes : List Nat
  sat : Nat
  held : Nat

def recWords (bs : List Byte) : List W32 := (List.range (bs.length / 4)).map (fun i => BitVec.ofNat 32 (recField bs (4 * i) 4))

/-- x_g and x_p of an element. -/
def gradOf (p : Snap) (tok i : Nat) (b : BlockIn) : W32 × W32 :=
  let xg := if hdrReadsG p.hdr then mul tok (64 * i + 60) (p.par 7) (b.g.getD i 0) else 0
  (xg, if hdrHasP p.hdr then mul tok (64 * i + 62) (p.par 7) (b.p.getD i 0) else xg)

/-- The weight half of a block (R351, R354, R355): each group of 32 elements is stepped, or held where something is
not finite or a BF16 weight overflows; an FP16 weight saturates and is counted. -/
def weightHalf (p : Snap) (tok : Nat) (draws : Nat → Nat) (b : BlockIn) : WeightHalf :=
  let ff := wFloat p
  let elem := fun i =>
    let x := gradOf p tok i b
    let m1 := b.m.getD i 0
    let v1 := b.v.getD i 0
    let old := b.w.getD i 0
    let r := stepWeight p tok i (stepDir p tok i x.2 m1 v1) (toF32 tok (64 * i + 58) (ff.decode old))
    let c := ff.convert (.stochastic (draws i)) (fp32.decode r.2.toNat)
    let good := isFin32 x.1 && isFin32 x.2 && isFin32 m1 && isFin32 v1 && isFin32 r.1 && isFin32 r.2 && (ff.decode c.1).isFin
      && !(hdrWfmt p.hdr == 1 && satOf c.2 != 0)
    (c.1, satOf c.2, good, old)
  let groups := (List.range 64).map (fun g =>
    let es := (List.range 32).map (fun i => elem (32 * g + i))
    if es.all (fun e => e.2.2.1) then (es.map (fun e => e.1), (es.map (fun e => e.2.1)).sum, 0)
    else (es.map (fun e => e.2.2.2), 0, 1))
  ⟨groups.flatMap (fun g => g.1), (groups.map (fun g => g.2.1)).sum, (groups.map (fun g => g.2.2)).sum⟩

/-- Decoded M8 words of a block's 64 groups; with `fresh` a block of NaNs restarts from zero (R113, R355). -/
def momentsOf (second fresh : Bool) (tok : Nat) (codes scales : List Byte) : List W32 :=
  (List.range 64).flatMap (fun g =>
    let sc := recField scales (2 * g) 2
    (List.range 32).map (fun i =>
      match m8Decode second sc (codes.getD (32 * g + i) 0).toNat with
      | .nan => if fresh then 0 else nan32
      | v => toF32 tok (32 * g + i) v))

/-- Codes, scales and non-finite groups of a block's new moment (R113). A group whose values are those that its old codes and
scale decode to keeps both (R114; DEDUCED, log 79: the scale that R113 would choose for its decoded values can be another). -/
def encodeMoments (second : Bool) (ms old : List W32) (codes scales : List Byte) : List Byte × List Byte × Nat :=
  let gs := (List.range 64).map (fun g =>
    let same := (List.range 32).all (fun i =>
      let v := ms.getD (32 * g + i) 0
      v == old.getD (32 * g + i) 0 && isFin32 v && (m8Decode second (recField scales (2 * g) 2) (codes.getD (32 * g + i) 0).toNat).isFin)
    if same then (recField scales (2 * g) 2, (List.range 32).map (fun i => (codes.getD (32 * g + i) 0).toNat), false)
    else m8Encode second ((List.range 32).map (fun i => fp32.decode (ms.getD (32 * g + i) 0).toNat)))
  (gs.flatMap (fun g => g.2.1.map (fun c => BitVec.ofNat 8 c)), gs.flatMap (fun g => leBytes 2 g.1),
    (gs.filter (fun g => g.2.2)).length)

namespace State

/-! ### Reading descriptors and records -/

def updDesc (s : State) (j : Job) (off : Nat) : UpdDesc := ⟨s.rd (j.image.base + off) 256⟩

/-- A source location (R329, R348) of update unit `u`: a slot of the job's window on its die, or an address. -/
def sourceAt (s : State) (t : ThreadId) (j : Job) (v : Nat) : Option Nat :=
  if v = 0 then some 0
  else if bit v 63 then
    if bits v 62 21 = 0 ∧ bits v 10 9 = t.die then
      some (stagingAddr t.die (j.niBase t.die * 65536 + bits v 8 0 * 65536 + bits v 20 11 * 64)) else none
  else
    match resolveAddr t (s.thread t.key).bases (BitVec.ofNat 64 v) with
    | some a =>
      (match placeOf a with
        | .shared d _ => if d = t.die then some a else none
        | .staging d _ => if d = t.die then some a else none
        | .stack _ _ => some a
        | _ => none)
    | none => none

/-- The address of `n` bytes of a descriptor's in the unit's own stack, or none. -/
def ownStack (s : State) (t : ThreadId) (u v n : Nat) : Option Nat :=
  match resolveAddr t (s.thread t.key).bases (BitVec.ofNat 64 v) with
  | some a => if a / 0xC00000000 = u ∧ (a + n - 1) / 0xC00000000 = u then some a else none
  | none => none

/-- The snapshot that a descriptor gives, its addresses resolved (R347, R348, R356); none where one is not where
R348 wants it, or a moment array does not start on a 64-byte boundary (R112). -/
def snapOf (s : State) (t : ThreadId) (j : Job) (u : Nat) (d : UpdDesc) (hyper : List W32) (scale : W32) : Option Snap :=
  let own := fun o (b : Bool) k => if b then s.ownStack t u (d.n o 8) (d.n 16 4 * k) else some 0
  let codes := fun o (b : Bool) k => (own o b k).filter (fun a => a % 64 == 0)
  let h := d.header
  match own 32 true 4096, codes 40 (hdrM1 h) 2048, codes 48 (hdrM1 h) 128, codes 56 (hdrM2 h) 2048, codes 64 (hdrM2 h) 128,
      own 88 true 16 with
  | some w, some m1, some m1s, some m2, some m2s, some jrn =>
    match s.sourceAt t j (d.n 72 8), s.sourceAt t j (d.n 80 8),
        (if hdrFrozen h then resolveAddr t (s.thread t.key).bases (BitVec.ofNat 64 (d.n 96 8)) else some 0) with
    | some g, some p, some fr =>
      let c := d.n 136 4
      some ⟨h, d.n 16 4, d.n 8 2, w, m1, m1s, m2, m2s, g, p, jrn, fr, if c = noCounter then 0 else sharedAddr t.die c, d.n 20 4,
        scale, hyper, j.block.tag.toNat, s.beat.pos.toNat⟩
    | _, _, _ => none
  | _, _, _, _, _, _ => none

/-- The snapshot that a record holds. -/
def readSnap (s : State) (r : Nat) : Snap :=
  let n := fun o k => s.rdNat (r + o) k
  ⟨n 22 2, n 16 4, n 20 2, n 24 8, n 32 8, n 40 8, n 48 8, n 56 8, n 64 8, n 72 8, n 80 8, n 88 8, n 96 8, n 104 4,
    BitVec.ofNat 32 (n 108 4), (List.range 9).map (fun i => BitVec.ofNat 32 (n (112 + 4 * i) 4)), n 148 2, n 152 8⟩

def openEntry (s : State) (r : Nat) : Option OpenUpd := s.upd.opened.find? (fun o => o.recAt == r)
def mapOpen (r : Nat) (f : OpenUpd → OpenUpd) (s : State) : State :=
  { s with upd := { s.upd with opened := s.upd.opened.map (fun o => if o.recAt = r then f o else o) } }
def dropOpen (r : Nat) (s : State) : State :=
  { s with upd := { s.upd with opened := s.upd.opened.filter (fun o => o.recAt != r) } }

/-- CUR is written, and the GETs that wait for it are decided again (R356, R381). -/
def writeCur (r gen : Nat) (opened : Bool) (s : State) : State := ((s.wr r (curBytes gen opened)).clearPoison r 8).recheckServe r

/-- Threads of a unit that wait for a record, or for their own blocks, go on. -/
def wakeUpdates (u : Nat) (s : State) : State :=
  (List.range 4).foldl (fun st n =>
    let k := 7200 + u * 4 + n
    if (st.thread k).st = .waitUnit then st.fetchNext k else st.wakeIdle k) s

/-! ### Landing (R363) -/

/-- The last block of the group of 8 that `b` lies in has landed: DONE_VAL is added once. -/
def addDone (r b : Nat) (s : State) : State :=
  match s.openEntry r with
  | none => s
  | some o =>
    let p := s.readSnap r
    let g := (List.range 8).filterMap (fun i => if b / 8 * 8 + i < p.nblk then some (b / 8 * 8 + i) else none)
    if o.adds ∧ p.doneCtr ≠ 0 ∧ g.all (fun x => o.done.contains x) then
      match placeOf p.doneCtr with
      | .shared d off => s.addCounter ⟨d, off, p.doneVal, o.job, 0, 0⟩
      | _ => s
    else s

/-- A block is at DONE: noted once, with the addition of its group. -/
def blockDone (r b : Nat) (s : State) : State :=
  match s.openEntry r with
  | none => s
  | some o =>
    if o.done.contains b then s
    else (s.mapOpen r (fun o => { o with done := b :: o.done, started := if o.started.contains b then o.started else b :: o.started })).addDone r b

/-- The oldest group of 8 blocks that a unit has in flight lands. -/
def landGroup (u : Nat) (s : State) : State :=
  match s.upd.inflight.find? (fun x => (x.1 - 7200) / 4 == u) with
  | none => s
  | some x =>
    let mine := fun (y : Nat × Nat × Nat) => (y.1 - 7200) / 4 == u && y.2.1 == x.2.1 && y.2.2 / 8 == x.2.2 / 8
    let bs := (s.upd.inflight.filter mine).map (fun y => y.2.2)
    let s := { s with upd := { s.upd with
      inflight := s.upd.inflight.filter (fun y => !mine y)
      lastDone := mset s.upd.lastDone u ((s.readSnap x.2.1).shard, bs.getLastD x.2.2) } }
    bs.foldl (fun st b => st.blockDone x.2.1 b) s

def weightLandedEff (u : Nat) (s : State) : State :=
  let js := s.upd.opened.map (fun o => o.job)
  js.foldl (fun st h => st.checkComplete h) ((s.landGroup u).wakeUpdates u)

/-! ### UU_OPEN (R352, R358) -/

/-- A pin of a descriptor that must be enabled; whether it shows NOGEN. -/
def pinState (s : State) (d i : Nat) : Bool × Bool :=
  if i = 0xFFFF then (true, false) else (s.flag (Regs.pin d i) 0, s.flag (Regs.pin d i) 1)

/-- SCALE_EFF (R352) from the pins, IDSCALE and for GRAFT the sums at `gsum`; true where a sum is not finite. -/
def scaleEff (s : State) (rule : Nat) (nogen : Bool) (idscale : W32) (gsum : Nat) : W32 × Bool :=
  if rule = 4 then
    let na := BitVec.ofNat 32 (s.loadNat gsum 4)
    let np := BitVec.ofNat 32 (s.loadNat (gsum + 8) 4)
    if !isFin32 na || !isFin32 np then (0, true)
    else if (Num.rd np).dy.isZero then (0, false)
    else (sqrt s.freeCtr 2 (div s.freeCtr 0 na np), false)
  else if nogen then (idscale, false)
  else (one32, false)

/-- The place of a hyperparameter record or of graft sums: the shared store of the die, or stacked memory too. -/
def paramPlace (t : ThreadId) (stackToo : Bool) (a : Nat) : Bool :=
  match placeOf a with
  | .shared d _ => d == t.die
  | .stack _ _ => stackToo
  | _ => false

/-- A command on the descriptor at `off`: the record's place, or the thread halts. The descriptor itself may lie in a channel
that is DOWN, or be poisoned (R170, R174). -/
def withRecord (t : ThreadId) (j : Job) (off : Nat) (s : State) (f : UpdDesc → Nat → Nat → State) : State :=
  match t with
  | .update u _ =>
    let d := s.updDesc j off
    match s.recordAcc (j.image.base + off) 256 with
    | some c => s.haltAccess t c (j.image.base + off)
    | none =>
    if !d.guarded then s.haltGuard t 1 ((s.thread t.key).pc / 32)
    else if !d.ok || off % 64 != 0 then s.haltThread t 0x1113
    else match s.ownStack t u.val (d.n 24 8) 256 with
      | some r => if r % 64 = 0 then f d r u.val else s.haltThread t 0x1113
      | none => s.haltThread t 0x1113
  | _ => s

/-- The requests of accesses to stacked memory, reads in class 2 and writes in class 3 (R155, R158). -/
def moved (t : ThreadId) (j : Job) (l : List (Nat × Nat × Bool)) (s : State) : State :=
  l.foldl (fun st x => st.traffic t.key j.handle 2 x.2.2 x.1 x.2.1) s

/-- Check a list of extents; where all pass what is read is read and the rest goes on, else halt or wait. -/
def passing (t : ThreadId) (j : Job) (l : List (Nat × Nat × Bool)) (s : State) (f : State → State) : State :=
  match s.checkAll j (whoOf t) l with
  | (.bad c, a) => s.haltAccess t c a
  | (.wait, a) => (s.wakeFor a).hold t .waitData
  | (.ok, _) => f (s.moved t j (l.filter (fun x => !x.2.2)))

/-- The hyperparameters of a descriptor, or the code of what is wrong with them; a wait where the bank is not ON. -/
def readParams (s : State) (t : ThreadId) (j : Job) (d : UpdDesc) : Acc × Nat × List Byte :=
  match resolveAddr t (s.thread t.key).bases (BitVec.ofNat 64 (d.n 104 8)) with
  | none => (.bad 0x1113, 0, [])
  | some a =>
    if !paramPlace t true a then (.bad 0x1113, 0, [])
    else match s.access j (whoOf t) false true a 64 with
      | .ok => let bs := s.load a 64; if paramsOk (hdrRule d.header) bs then (.ok, a, bs) else (.bad 0x5105, 0, [])
      | x => (x, a, [])

/-- The graft sums' address, where the rule has them. -/
def graftAt (s : State) (t : ThreadId) (d : UpdDesc) (o : Nat) : Option Nat :=
  match resolveAddr t (s.thread t.key).bases (BitVec.ofNat 64 (d.n o 8)) with
  | some a => if paramPlace t false a then some a else none
  | none => none

/-- UU_OPEN NEW on a CLOSED record, once NOT_BEFORE has passed. -/
def openNew (t : ThreadId) (h : CmdHead) (j : Job) (d : UpdDesc) (r u : Nat) (s : State) : State :=
  match s.readParams t j d with
  | (.bad c, a, _) => if c = 0x5105 ∨ c = 0x1113 then s.haltThread t c else s.haltAccess t c a
  | (.wait, a, _) => (s.wakeFor a).hold t .waitData
  | (.ok, pa, ps) =>
    let l := s.pinState t.die (d.n 10 2)
    let p := s.pinState t.die (d.n 12 2)
    let rule := hdrRule d.header
    if !l.1 || !p.1 then s.haltThread t 0x5105
    else match (if rule = 4 then s.graftAt t d 120 else some 0) with
      | none => s.haltThread t 0x1113
      | some gsum =>
        s.passing t j ([(pa, 64, false)] ++ (if rule = 4 then [(gsum, 16, false)] else [])) (fun s =>
          let (scale, bad) := s.scaleEff rule (l.2 || p.2) (BitVec.ofNat 32 (recField ps 32 4)) gsum
          match s.snapOf t j u d (hyperOf ps) scale with
          | none => s.haltThread t 0x1113
          | some sn =>
            let gen := s.recGen r
            let s := if bad then s.count 0x5104 t.die j.handle 1 else s
            let s := ((s.tick.wr (r + 8) (sn.bytes 0 0)).clearPoison r 256).writeCur r gen true
            let s := (s.moved t j [(r, 256, true)]).dropOpen r
            let s := { s with upd := { s.upd with opened := s.upd.opened ++ [(⟨r, u, t.index, j.handle, gen, true, [], []⟩ : OpenUpd)] } }
            (s.mapJob j.handle (fun j => { j with replay := none })).finish t h 1)

def uuOpenEff (t : ThreadId) (h : CmdHead) (off mode : Nat) (s : State) : State :=
  s.issue t 0x20 5 h (decide (mode ≤ 1) && off % 64 == 0) (fun _ j s =>
    s.withRecord t j off (fun d r u =>
      s.passing t j [(r, 256, false), (r, 256, true)] (fun s =>
        if (match s.openEntry r with | some o => o.thread != t.index && s.recOpen r | none => false) then s.hold t .waitUnit
        else if !s.recCurOk r then s.haltGuard t 10 (d.n 8 2)
        else if s.recOpen r then
          if mode = 0 then s.haltThread t 0x5103
          else
            let s := match s.openEntry r with
              | some _ => s.mapOpen r (fun o => { o with adds := false })
              | none => { s with upd := { s.upd with opened := s.upd.opened ++
                  [(⟨r, u, t.index, j.handle, s.recGen r, false, [], []⟩ : OpenUpd)] } }
            s.finish t h 1
        else if mode = 1 then s.finish t h 1
        else if d.n 128 8 ≠ 0 ∧ s.beat.pos.toNat < d.n 128 8 then
          { (s.mapThread t.key (fun x => { x with st := .waitBeat, beatTarget := some (d.n 128 8) })) with
            upd := { s.upd with waitBeat := t.key :: s.upd.waitBeat } }
        else s.openNew t h j d r u)))

/-! ### UU_BLOCKS (R360 to R363) -/

/-- Extents that block `b` reads for its weight half, and for its moment half. -/
def blockReads (p : Snap) (b : Nat) : List (Nat × Nat × Bool) :=
  [(p.w + 4096 * b, 4096, false)]
    ++ (if hdrReadsG p.hdr then [(p.gsrc + 8192 * b, 8192, false)] else [])
    ++ (if hdrHasP p.hdr then [(p.psrc + 8192 * b, 8192, false)] else [])
    ++ (if hdrM1 p.hdr then [(p.m1 + 2048 * b, 2048, false), (p.m1s + 128 * b, 128, false)] else [])
    ++ (if hdrM2 p.hdr then [(p.m2 + 2048 * b, 2048, false), (p.m2s + 128 * b, 128, false)] else [])

def blockWrites (p : Snap) (r b : Nat) : List (Nat × Nat × Bool) :=
  [(p.jrn + 16 * b, 16, true), (r, 256, true), (p.w + 4096 * b, 4096, true)]
    ++ (if hdrM1 p.hdr then [(p.m1 + 2048 * b, 2048, true), (p.m1s + 128 * b, 128, true)] else [])
    ++ (if hdrM2 p.hdr then [(p.m2 + 2048 * b, 2048, true), (p.m2s + 128 * b, 128, true)] else [])

/-- A block's inputs; `fresh` reads old moments, else the new ones of a replay. -/
def blockIn (s : State) (p : Snap) (b : Nat) (fresh : Bool) (tok : Nat) : BlockIn :=
  let ws := fun a n => recWords (s.load a n)
  let m := fun (a as : Nat) second (on : Bool) => if on then momentsOf second fresh tok (s.load (a + 2048 * b) 2048) (s.load (as + 128 * b) 128) else []
  let w := s.load (p.w + 4096 * b) 4096
  ⟨if hdrReadsG p.hdr then ws (p.gsrc + 8192 * b) 8192 else [], if hdrHasP p.hdr then ws (p.psrc + 8192 * b) 8192 else [],
    (List.range 2048).map (fun i => recField w (2 * i) 2), m p.m1 p.m1s false (hdrM1 p.hdr), m p.m2 p.m2s true (hdrM2 p.hdr)⟩

/-- The moment group of a block: new codes and scales with the journal at MOMENTS_WRITTEN. Answers the block's
inputs with the decoded new moments. -/
def momentGroup (p : Snap) (t : ThreadId) (h : W32) (b gen : Nat) (inp : BlockIn) (s : State) : BlockIn × Nat × State :=
  if !hdrM1 p.hdr then (inp, 0, s)
  else
    let tok := s.freeCtr
    let raw := (List.range 2048).map (fun i =>
      let x := gradOf p tok i inp
      rawMoments p tok i (if p.rule = 4 then x.1 else x.2) (inp.m.getD i 0) (inp.v.getD i 0))
    let e1 := encodeMoments false (raw.map (fun x => x.1)) inp.m (s.load (p.m1 + 2048 * b) 2048) (s.load (p.m1s + 128 * b) 128)
    let e2 := encodeMoments true (raw.map (fun x => x.2)) inp.v (s.load (p.m2 + 2048 * b) 2048) (s.load (p.m2s + 128 * b) 128)
    let s := (s.save (p.m1 + 2048 * b) e1.1).save (p.m1s + 128 * b) e1.2.1
    let s := if hdrM2 p.hdr then (s.save (p.m2 + 2048 * b) e2.1).save (p.m2s + 128 * b) e2.2.1 else s
    let s := s.save (p.jrn + 16 * b) (journalBytes 1 b gen p.shard)
    let bad := e1.2.2 + (if hdrM2 p.hdr then e2.2.2 else 0)
    ({ inp with
        m := momentsOf false false (tok + 1) e1.1 e1.2.1
        v := if hdrM2 p.hdr then momentsOf true false (tok + 2) e2.1 e2.2.1 else [] },
      bad, (s.tick.tick.tick).count 0x2105 t.die h bad)

/-- The journal and DONE_BLOCKS of a weight group; the block is in flight until it lands. A unit holds at most 64:
older groups land first. -/
def issueWeights (t : ThreadId) (u : Nat) (p : Snap) (r b gen : Nat) (s : State) : State :=
  let s := if 64 ≤ (s.upd.inflight.filter (fun x => (x.1 - 7200) / 4 == u)).length then s.landGroup u else s
  let s := s.save (p.jrn + 16 * b) (journalBytes 0 b gen p.shard)
  let s := s.wrNat (r + 8) 4 (s.rdNat (r + 8) 4 + 1)
  let s := s.mapOpen r (fun o => { o with started := if o.started.contains b then o.started else b :: o.started })
  { s with upd := { s.upd with inflight := s.upd.inflight ++ [(t.key, r, b)] } }

/-- A block carried to generation `gen`: the whole update, or from MOMENTS_WRITTEN its weight half (R361). The thread
halts where TRAP_NONFINITE asks for it. -/
def carryBlock (t : ThreadId) (j : Job) (u : Nat) (p : Snap) (r b gen : Nat) (replay : Bool) (s : State) : State :=
  let inp := s.blockIn p b (!replay) s.freeCtr
  let s := s.tick
  let (inp, bad, s) := if replay then (inp, 0, s) else s.momentGroup p t j.handle b gen inp
  let wh := weightHalf p s.freeCtr (fun i => draw j.block.seed 0 (BitVec.ofNat 32 p.shard) gen (2048 * b + i)) inp
  let s := s.tick.save (p.w + 4096 * b) (wh.codes.flatMap (leBytes 2))
  let s := (s.count 0x2101 t.die j.handle wh.sat).count 0x5104 t.die j.handle wh.held
  let s := if replay then (s.wrNat (r + 12) 4 (s.rdNat (r + 12) 4 + 1)).count 0x5101 t.die j.handle 1 else s
  (s.issueWeights t u p r b gen).trapCheck t j.handle bad

/-- One block of a UU_BLOCKS, by its journal; the flag says whether the command goes on. -/
def blockStep (t : ThreadId) (j : Job) (u r b : Nat) (s : State) : Bool × State :=
  let p := s.readSnap r
  let gen := (s.recGen r + 1) % 65536
  let ja := p.jrn + 16 * b
  let fa := p.frozen + b / 8
  match s.checkAll j (whoOf t) ([(ja, 16, false), (ja, 16, true)] ++ (if hdrFrozen p.hdr then [(fa, 1, false)] else [])) with
  | (.bad c, a) => (false, s.haltAccess t c a)
  | (.wait, a) => (false, (s.wakeFor a).hold t .waitData)
  | (.ok, _) =>
    let s := s.moved t j ((ja, 16, false) :: (if hdrFrozen p.hdr then [(fa, 1, false)] else []))
    let v := s.loadNat ja 8
    if s.loadNat (ja + 8) 8 ≠ 2 ^ 64 - 1 - v then (false, s.haltGuard t 11 b)
    else if bits v 63 48 ≠ p.shard ∨ bits v 31 8 ≠ b then (false, s.haltThread t 0x5102)
    else
      let phase := bits v 1 0
      let g := bits v 47 32
      let carry := fun (replay : Bool) =>
        match s.checkAll j (whoOf t) (blockReads p b ++ blockWrites p r b) with
        | (.bad c, a) => (false, s.haltAccess t c a)
        | (.wait, a) => (false, (s.wakeFor a).hold t .waitData)
        | (.ok, _) =>
          let s := s.moved t j (blockReads p b ++ (blockWrites p r b).filter (fun x => !replay || x.1 == p.w + 4096 * b || x.1 == r || x.1 == ja))
          let s := (s.carryBlock t j u p r b gen replay).bump (Regs.obsUpdate u (if replay then 13 else 11)) 1
          ((s.thread t.key).st == .ready, s)
      if g = gen ∧ phase = 0 then
        (true, (if s.upd.inflight.any (fun x => x.2.1 == r && x.2.2 == b) then s else s.blockDone r b).bump (Regs.obsUpdate u 12) 1)
      else if g = gen ∧ phase = 1 then carry true
      else if (g + 1) % 65536 = gen ∧ phase = 0 then
        if hdrFrozen p.hdr && bit (s.loadNat fa 1) (b % 8) then
          (true, ((s.moved t j [(ja, 16, true), (r, 64, true)]).issueWeights t u p r b gen).bump (Regs.obsUpdate u 12) 1)
        else carry false
      else (false, s.haltThread t 0x5102)

def blocksRun (t : ThreadId) (j : Job) (u r n first : Nat) (s : State) : Bool × State :=
  match n with
  | 0 => (true, s)
  | k + 1 =>
    match s.blockStep t j u r first with
    | (true, s) => s.blocksRun t j u r k (first + 1)
    | (false, s) => (false, s)

/-- FIRST and COUNT of a block command against NBLK (R357). -/
def blockRangeOk (first count nblk : Nat) : Bool :=
  decide (1 ≤ count) && decide (count ≤ 1024) && first % 8 == 0 && decide (first + count ≤ nblk)
    && (count % 8 == 0 || first + count == nblk)

def uuBlocksEff (t : ThreadId) (h : CmdHead) (off first count : Nat) (s : State) : State :=
  s.issue t 0x21 5 h (off % 64 == 0 && decide (1 ≤ count) && decide (count ≤ 1024) && first % 8 == 0) (fun _ j s =>
    s.withRecord t j off (fun d r u =>
      if !blockRangeOk first count (d.n 16 4) then s.haltThread t 0x1113
      else s.passing t j [(r, 256, false), (r, 256, true)] (fun s =>
        if !s.recCurOk r then s.haltGuard t 10 (d.n 8 2)
        else if !s.recOpen r then (s.count 0x5106 t.die j.handle 1).finish t h 1
        else
          let s := match s.openEntry r with
            | some _ => s
            | none => { s with upd := { s.upd with opened := s.upd.opened ++
                [(⟨r, u, t.index, j.handle, s.recGen r, false, [], []⟩ : OpenUpd)] } }
          match s.blocksRun t j u r count first with
          | (true, s) => s.finish t h 1
          | (false, s) => s)))

/-! ### UU_CLOSE, UU_NORM, UU_INIT (R353, R357, R364) -/

def uuCloseEff (t : ThreadId) (h : CmdHead) (off : Nat) (s : State) : State :=
  s.issue t 0x22 5 h (off % 64 == 0) (fun _ j s =>
    s.withRecord t j off (fun d r u =>
      s.passing t j [(r, 256, false), (r, 256, true)] (fun s =>
        if !s.recCurOk r then s.haltGuard t 10 (d.n 8 2)
        else if !s.recOpen r then (s.count 0x5106 t.die j.handle 1).finish t h 1
        else if s.upd.inflight.any (fun x => x.2.1 == r) then s.hold t .waitOrder
        else if s.rdNat (r + 8) 4 ≠ s.rdNat (r + 16) 4 then s.haltThread t 0x5107
        else
          let s := ((s.writeCur r (s.recGen r + 1) false).moved t j [(r, 8, true)]).dropOpen r
          let s := { s with upd := { s.upd with retained := s.upd.retained.filter (fun c => c.2.2 != r) } }
          (s.finish t h 1).wakeUpdates u)))

/-- The two sums of a block for GRAFT (R353): a and x_p of every element. -/
def normTerms (s : State) (p : Snap) (b tok : Nat) : List W32 × List W32 :=
  let inp := s.blockIn p b true tok
  let raw := (List.range 2048).map (fun i => rawMoments p tok i (gradOf p tok i inp).1 (inp.m.getD i 0) (inp.v.getD i 0))
  let e1 := encodeMoments false (raw.map (fun x => x.1)) inp.m (s.load (p.m1 + 2048 * b) 2048) (s.load (p.m1s + 128 * b) 128)
  let e2 := encodeMoments true (raw.map (fun x => x.2)) inp.v (s.load (p.m2 + 2048 * b) 2048) (s.load (p.m2s + 128 * b) 128)
  let m1 := momentsOf false false (tok + 1) e1.1 e1.2.1
  let v1 := momentsOf true false (tok + 2) e2.1 e2.2.1
  ((List.range 2048).map (fun i => stepDir { p with hdr := 2 } tok i 0 (m1.getD i 0) (v1.getD i 0)),
    (List.range 2048).map (fun i => (gradOf p tok i inp).2))

def uuNormEff (t : ThreadId) (h : CmdHead) (off first count : Nat) (s : State) : State :=
  s.issue t 0x23 5 h (off % 64 == 0 && decide (1 ≤ count) && decide (count ≤ 1024) && first % 8 == 0) (fun _ j s =>
    s.withRecord t j off (fun d _ u =>
      if !blockRangeOk first count (d.n 16 4) ∨ hdrRule d.header ≠ 4 then s.haltThread t 0x1113
      else match s.readParams t j d with
        | (.bad c, a, _) => if c = 0x5105 ∨ c = 0x1113 then s.haltThread t c else s.haltAccess t c a
        | (.wait, a, _) => (s.wakeFor a).hold t .waitData
        | (.ok, pa, ps) =>
          match s.snapOf t j u d (hyperOf ps) one32, s.graftAt t d 112 with
          | some p, some gacc =>
            let blocks := (List.range count).map (fun i => first + i)
            s.passing t j ((pa, 64, false) :: (if hdrFrozen p.hdr then blocks.map (fun b => (p.frozen + b / 8, 1, false)) else [])) (fun s =>
              let live := blocks.filter (fun b => !(hdrFrozen p.hdr && bit (s.loadNat (p.frozen + b / 8) 1) (b % 8)))
              s.passing t j (live.flatMap (fun b => blockReads p b) ++ [(gacc, 16, false), (gacc, 16, true)]) (fun s =>
                let tok := s.freeCtr
                let terms := live.map (fun b => s.normTerms p b (tok + 4 * b))
                let sq := fun (l : List W32) => reduceDot tok (l.length + 1) (10 + (l.length + 511) / 512) (l.map (fun x => (Num.rd x, Num.rd x)))
                let a := sq (terms.flatMap (fun x => x.1))
                let x := sq (terms.flatMap (fun x => x.2))
                let s := s.save gacc (leBytes 4 (accum tok 0 (BitVec.ofNat 32 (s.loadNat gacc 4)) a).toNat)
                let s := s.save (gacc + 8) (leBytes 4 (accum tok 2 (BitVec.ofNat 32 (s.loadNat (gacc + 8) 4)) x).toNat)
                { (s.finish t h 1) with freeCtr := tok + 4 * (first + count) + 4 }))
          | _, _ => s.haltThread t 0x1113))

def uuInitEff (t : ThreadId) (h : CmdHead) (off first count gen : Nat) (s : State) : State :=
  s.issue t 0x24 5 h (off % 64 == 0 && decide (1 ≤ count) && decide (count ≤ 1024) && first % 8 == 0) (fun _ j s =>
    s.withRecord t j off (fun d r u =>
      if !blockRangeOk first count (d.n 16 4) then s.haltThread t 0x1113
      else match s.snapOf t j u d [] 0 with
        | none => s.haltThread t 0x1113
        | some p =>
          s.passing t j [(p.jrn + 16 * first, 16 * count, true), (r, 256, true)] (fun s =>
            let s := s.moved t j [(p.jrn + 16 * first, 16 * count, true), (r, 256, true)]
            let s := (List.range count).foldl (fun st i =>
              st.save (p.jrn + 16 * (first + i)) (journalBytes 0 (first + i) gen p.shard)) s
            let s := ((s.wr (r + 8) ({ p with openBeat := 0 }.bytes p.nblk 0)).clearPoison r 256).dropOpen r
            (((s.writeCur r gen false).finish t h 1)).wakeUpdates u)))

/-! ### Retained slots (R366, R374) -/

/-- Slots of NI staging that hold source data of a block of a record that is not at (T, DONE). -/
def unfinishedSlots (s : State) (r : Nat) : List Nat :=
  let p := s.readSnap r
  let gen := (s.recGen r + 1) % 65536
  let blocks := (List.range p.nblk).filter (fun b =>
    let v := s.rdNat (p.jrn + 16 * b) 8
    !(bits v 47 32 == gen && bits v 1 0 == 0))
  let slotOf := fun (base b : Nat) => match placeOf (base + 8192 * b) with
    | .staging d o => [d * 512 + o / 65536]
    | _ => []
  ((if hdrReadsG p.hdr then blocks.flatMap (slotOf p.gsrc) else [])
    ++ (if hdrHasP p.hdr then blocks.flatMap (slotOf p.psrc) else [])).eraseDups

/-- The slots that the open updates of a job leave behind become retained, and the updates are let go. -/
def retainSlots (h : W32) (s : State) : State :=
  let mine := s.upd.opened.filter (fun o => o.job == h && s.recOpen o.recAt)
  let s := mine.foldl (fun st o =>
    (st.unfinishedSlots o.recAt).foldl (fun st k =>
      { st with upd := { st.upd with retained := mset st.upd.retained k (BitVec.ofNat 16 (st.readSnap o.recAt).tag, o.recAt) } }) st) s
  { s with upd := { s.upd with opened := s.upd.opened.filter (fun o => o.job != h) } }

/-- A reduction slot is zeroed and its valid bits cleared. -/
def zeroSlot (k : Nat) (s : State) : State :=
  let a := stagingAddr (k / 512) (k % 512 * 65536)
  let s := (s.zero a 65536).clearPoison a 65536
  { s with ni := { s.ni with valid := s.ni.valid.filter (fun l => !(decide (k * 1024 ≤ l) && decide (l < k * 1024 + 1024))) } }

/-- Retained slots of a die, lowest first. -/
def retainedOf (s : State) (d : Nat) : List Nat :=
  (List.range 512).filter (fun i => (mfind s.upd.retained (d * 512 + i)).isSome)

def retainedTag (s : State) (d i : Nat) : Nat := match mfind s.upd.retained (d * 512 + i) with | some (t, _) => t.toNat | none => 0

/-- Release retained slots of a die, zeroed. -/
def releaseRetained (d : Nat) (l : List Nat) (s : State) : State :=
  l.foldl (fun st i => ({ st with upd := { st.upd with retained := mdel st.upd.retained (d * 512 + i) } }).zeroSlot (d * 512 + i)) s

/-- A write of UPD.RETAINd (R374). -/
def retainDiscardEff (d v : Nat) (s : State) : State := if bit v 26 then s.releaseRetained d (s.retainedOf d) else s

/-- A write of UPD.RETAIN_Qd: SLOT is stored, and DISCARD_TAG releases the slots of its tag. -/
def retainTagEff (d v : Nat) (s : State) : State :=
  let s := s.setRegNat (Regs.retainQ d) (v % 512)
  if bit v 26 ∧ (mfind s.upd.retained (d * 512 + v % 512)).isSome then
    s.releaseRetained d ((s.retainedOf d).filter (fun i => s.retainedTag d i == s.retainedTag d (v % 512)))
  else s

/-! ### What the registers read (R372, R374) -/

def updStatusValue (s : State) (u : Nat) : Nat :=
  let fly := (s.upd.inflight.filter (fun x => (x.1 - 7200) / 4 == u)).length
  let waits := fun (st : TSt) => (List.range 4).any (fun n => (s.thread (7200 + u * 4 + n)).st == st)
  let st := if fly ≠ 0 then 1
    else if (List.range 4).any (fun n => s.upd.waitBeat.contains (7200 + u * 4 + n)) then 2 else if waits .waitUnit then 3 else 0
  let (sh, b) := mget s.upd.lastDone u (0, 0)
  st + fly * 8 + sh * 65536 + b * 2 ^ 32

def retainValue (s : State) (d : Nat) : Nat :=
  let l := s.retainedOf d
  let tags := (l.map (fun i => s.retainedTag d i)).eraseDups
  l.length + (tags.headD 0) * 1024 + (if 1 < tags.length then 2 ^ 27 else 0)

def retainQValue (s : State) (d : Nat) : Nat :=
  let i := s.field (Regs.retainQ d) 8 0
  i + (if (mfind s.upd.retained (d * 512 + i)).isSome then 512 else 0) + s.retainedTag d i * 1024

end State

def execUuOpen (t : ThreadId) (h : CmdHead) (r : W32) (mode : BitVec 8) (s : State) : Host.Outcome State Fault Refusal :=
  .next (s.uuOpenEff t h r.toNat mode.toNat)
def execUuBlocks (t : ThreadId) (h : CmdHead) (r first : W32) (count : W16) (s : State) : Host.Outcome State Fault Refusal :=
  .next (s.uuBlocksEff t h r.toNat first.toNat count.toNat)
def execUuClose (t : ThreadId) (h : CmdHead) (r : W32) (s : State) : Host.Outcome State Fault Refusal := .next (s.uuCloseEff t h r.toNat)
def execUuNorm (t : ThreadId) (h : CmdHead) (r first : W32) (count : W16) (s : State) : Host.Outcome State Fault Refusal :=
  .next (s.uuNormEff t h r.toNat first.toNat count.toNat)
def execUuInit (t : ThreadId) (h : CmdHead) (r first : W32) (count gen : W16) (s : State) : Host.Outcome State Fault Refusal :=
  .next (s.uuInitEff t h r.toNat first.toNat count.toNat gen.toNat)
def execWeightGroupLanded (u : Stack) (s : State) : Host.Outcome State Fault Refusal := .next (s.weightLandedEff u.val)

end Sys2Proof.Machine
end

