-- ==== Sys2Proof/Machine/Reset.lean ====
section
/-! DEFINITION. What a reset clears (R465, R466), measurements (R484), and the cold boot (R485): the operations
that power states, recovery and management share. -/

namespace Sys2Proof.Machine

/-- The IDENTITY payload, with R483's items in the order named: the serial, the three MAC addresses and the PCI subsystem
identifiers. PRESUMED (log 66): the manual gives no layout. -/
def Identity.apply (p : List Byte) (i : Identity) : Identity :=
  { i with
    macs := (List.range 3).map (fun k => leNat ((p.drop (8 + 6 * k)).take 6))
    subVendor := BitVec.ofNat 16 (leNat ((p.drop 26).take 2)), subsystem := BitVec.ofNat 16 (leNat ((p.drop 28).take 2)) }

namespace State

/-! ### Stores and registers -/

/-- Registers in a set of BAR0 offsets return to their reset values. -/
def dropRegs (p : Nat → Bool) (s : State) : State := { s with setup := s.setup.filter (fun c => !p c.1) }

def inBlock (base size o : Nat) : Bool := decide (base ≤ o) && decide (o < base + size)

/-- Requests of a set of threads that wait for acceptance leave; an accepted one is never cancelled (R163) and goes on
without a requester. -/
def dropReqs (p : Nat → Bool) (s : State) : State :=
  { s with stk := { s.stk with
    queues := s.stk.queues.map (fun (c : Nat × List Req) =>
      (c.1, c.2.map (fun r => if p r.thread then { r with thread := orphanRequester } else r)))
    waiting := s.stk.waiting.map (fun (c : Nat × List Req) => (c.1, c.2.filter (fun r => !p r.thread))) } }

/-- Threads of a reset unit: bound ones are halted with nothing outstanding. -/
def haltUnit (p : Nat → Bool) (s : State) : State :=
  let s := s.dropReqs p
  { s with threads := s.threads.map (fun c =>
      if p c.1 ∧ c.2.st ≠ .free then (c.1, { c.2 with
        st := .halted, outstanding := 0, unissued := [], copy := none, tails := [], wait := none, beatTarget := none, markAt := none, slots := [], loops := [] })
      else c) }

/-- An extent of on-chip memory is zeroed, with its poison. -/
def wipe (a n : Nat) (s : State) : State := (s.zero a n).clearPoison a n

/-- The stores of a tile are zeroed (R96): scratchpad, tile buffers, data cache and list cache. -/
def wipeTile (t : Nat) (s : State) : State :=
  let s := (s.wipe (scratchAddr t 0) 0x400000).wipe (tbufAddr t 0) 0x40000
  { s with store := { s.store with dcache := mdel s.store.dcache t, listLines := mdel s.store.listLines t } }

/-- Everything of a tile returns to reset (R465): threads, stores, operand slots, sets and contexts, and its counters
(R517). -/
def clearTile (t : Nat) (s : State) : State :=
  let mine := fun k => decide (k < 7168) && k / 28 == t
  let s := ((s.haltUnit mine).wipeTile t).dropBorrowed t
  let s := s.dropRegs (fun o => inBlock (Regs.til t) 0x1000 o || inBlock (Regs.enf t) 0x1000 o || inBlock (Regs.obsTile t 0 0) 0x1000 o)
  { s with
    enf := s.enf.filter (fun c => c.1 / 2 != t)
    matrix := { s.matrix with
      holder := mdel s.matrix.holder t, chain := mdel s.matrix.chain t, osDrain := mdel s.matrix.osDrain t
      turned := s.matrix.turned.filter (fun c => c.1 / 28 != t), behind := mdel s.matrix.behind t, zskip := mdel s.matrix.zskip t
      fused := s.matrix.fused.filter (fun f => f.thread / 28 != t)
      flushing := s.matrix.flushing.filter (fun c => c.1 / 28 != t) }
    store := { s.store with
      moves := s.store.moves.filter (fun m => !(decide (m.bank < 4096) && m.bank / 16 == t))
      compatWaking := s.store.compatWaking.filter (fun x => x != t) } }

/-- A solver engine returns to reset: threads, operation, registers and counters; the Absolute store and CUR stay. -/
def resetEngine (e : Nat) (s : State) : State :=
  let mine := fun k => decide (7168 ≤ k) && decide (k < 7200) && (k - 7168) / 2 == e
  let s := (s.haltUnit mine).clearEngine e
  let s := s.dropRegs (fun o => inBlock (Regs.slvStatus (e / 4) (e % 4)) 0x40 o || inBlock (Regs.obsSolver (e / 4) (e % 4) 0) 0x100 o)
  { s with store := { s.store with listLines := mdel s.store.listLines (256 + e) } }

/-- An update unit stops at once (R365). -/
def resetUpdate (u : Nat) (s : State) : State :=
  let mine := fun k => decide (7200 ≤ k) && (k - 7200) / 4 == u
  let s := (s.haltUnit mine).dropRegs (fun o => inBlock (Regs.updStatus u) 0x40 o || inBlock (Regs.obsUpdate u 0) 0x100 o)
  { s with
    upd := { s.upd with
      inflight := s.upd.inflight.filter (fun x => !mine x.1), waitBeat := s.upd.waitBeat.filter (fun k => !mine k)
      lastDone := mdel s.upd.lastDone u }
    store := { s.store with listLines := mdel s.store.listLines (272 + u) } }

/-- A network interface returns to reset: occurrences, triggered operations and tables; retained slots stay (R366), and
so do those of the blocks of an open update that are not at DONE (R26). -/
def resetNi (d : Nat) (s : State) : State :=
  let keep := (s.retainedOf d).map (fun i => d * 512 + i)
    ++ (s.upd.opened.filter (fun o => s.recOpen o.recAt)).flatMap (fun o => s.unfinishedSlots o.recAt)
  let lines := s.ni.valid.filter (fun l => l / 524288 == d && !keep.contains (l / 1024))
  let s := lines.foldl (fun st l => st.wipe (stagingAddr d (l % 524288 * 64)) 64) s
  let s := s.dropRegs (fun o => inBlock (Regs.ni d) 0x2000 o || inBlock (Regs.obsNi d 0) 0x80 o)
  { s with ni := { s.ni with
    heads := s.ni.heads.filter (fun c => c.1 % 4 != d)
    launches := s.ni.launches.filter (fun c => c.1 / 256 % 4 != d)
    begun := s.ni.begun.filter (fun c => c.1 / 256 % 4 != d)
    waited := s.ni.waited.filter (fun k => k % 4 != d)
    shown := mdel s.ni.shown d
    occs := s.ni.occs.filter (fun o => o.die != d)
    finished := s.ni.finished.filter (fun x => x.1 != d)
    valid := s.ni.valid.filter (fun l => !lines.contains l)
    joins := s.ni.joins.filter (fun v => v.die != d)
    arrivals := s.ni.arrivals.filter (fun w => w.die.val != d)
    adds := s.ni.adds.filter (fun x => x.die != d)
    serve := s.ni.serve.filter (fun g => g.die != d)
    retries := s.ni.retries.filter (fun r => r.msg.die != d) } }

/-- Everything on a die returns to reset but stack contents, retained slots and the repair record. -/
def clearDie (d : Nat) (s : State) : State :=
  let s := (List.range 64).foldl (fun st i => st.clearTile (64 * d + i)) s
  let s := (List.range 4).foldl (fun st i => st.resetEngine (4 * d + i)) s
  let s := (List.range 2).foldl (fun st i => st.resetUpdate (2 * d + i)) s
  let s := (s.resetNi d).wipe (sharedAddr d 0) 0x8000000
  let s := s.dropRegs (fun o => inBlock (Regs.die d) 0x4000 o || inBlock (Regs.shs d) 0x1000 o || inBlock (Regs.slv d) 0x2000 o
    || inBlock (Regs.obsDie d) 0x10000 o)
  { s with store := { s.store with moves := s.store.moves.filter (fun m => decide (m.bank < 4096) || (m.bank - 4096) / 64 != d) } }

/-! ### The compute domain -/

/-- Registers of the management domain (R19, R442): BEAT, PWR, MGT and SEC. -/
def mgmtReg (o : Nat) : Bool := inBlock 0x10000 0x1000 o || inBlock 0x14000 0x4000 o || inBlock 0x20000 0x20000 o

/-- The compute domain is reset: jobs end without completion entries, and nothing of it is kept but, where `keep`
holds, stacked memory, and where `slots` holds, retained slots. The management domain, the host's memory, the repair
record and the wiring of the module stay. `up` keeps the host ports' links. -/
def clearCompute (keep slots up : Bool) (s : State) : State :=
  let s := if slots then s.jobs.foldl (fun st j => st.retainSlots j.handle) s else s
  let kept := if slots then s.upd.retained else []
  let lines := s.ni.valid.filter (fun l => kept.any (fun c => c.1 == l / 1024))
  let keepByte := fun (a : Nat) => (keep && decide (a < 0x006000000000)) || (match placeOf a with
    | .staging d o => lines.contains (stagingLine d o)
    | _ => false)
  { State.reset with
    setup := s.setup.filter (fun c => mgmtReg c.1)
    beat := s.beat
    sched := s.sched.filter (fun c => c.1 / 1024 == 4 && c.2.kind == 1)
    mem := s.mem.filter (fun c => keepByte c.1)
    hostMem := s.hostMem
    stk := { s.stk with
      queues := [], waiting := [], trained := keep
      poison := if keep then s.stk.poison else [], filled := if keep then s.stk.filled else [] }
    fabric := { State.reset.fabric with slot := s.fabric.slot, group := s.fabric.group, sysId := s.fabric.sysId }
    ni := { State.reset.ni with valid := lines }
    upd := { State.reset.upd with retained := kept }
    host := { State.reset.host with ports := if up then s.host.ports.map (fun (c : Nat × HostPort) =>
      (c.1, { HostPort.fresh with up := c.2.up, speed := c.2.speed, width := c.2.width })) else [] }
    power := s.power
    recov := { s.recov with hang := [], taking := [] }
    mgmt := s.mgmt
    obs := { s.obs with silSeq := [], silDropped := 0, slotFree := [] }
    freeCtr := s.freeCtr
    sent := s.sent
    pending := s.pending }

/-! ### Measurements (R484) -/

/-- The 32 bytes of a digest, first byte first. -/
def digestBytes (d : BitVec 256) : List Byte := (leBytes 32 d.toNat).reverse

/-- A measurement of a digest into Mi: Mi becomes SHA-256(Mi ‖ x). -/
def measure (i : Nat) (x : BitVec 256) (s : State) : State :=
  { s with mgmt := { s.mgmt with meas := mset s.mgmt.meas i (Sha.digest (digestBytes (mget s.mgmt.meas i 0) ++ digestBytes x)) } }

def clearMeas (l : List Nat) (s : State) : State :=
  { s with mgmt := { s.mgmt with meas := s.mgmt.meas.filter (fun c => !l.contains c.1) } }

/-! ### Debug sessions (R495) -/

/-- A debug session ends, where one is open. -/
def endDebug (expired : Bool) (s : State) : State :=
  match s.mgmt.debug with
  | none => s
  | some _ =>
    let s := { s with mgmt := { s.mgmt with debug := none } }
    (if expired then s.report 0x7302 0x700 else s).report 0x7304 0x700

/-! ### Firmware banks (R485, R488) -/

def bankOfKind (s : State) (kind : Nat) : Nat := mget s.mgmt.active kind 0
def fwBank (s : State) (kind bank : Nat) : Option FwBank := mfind s.mgmt.banks (kind * 2 + bank)

/-- The image of a kind that boots: the active bank's where it is good, else the other bank's, reported; none where
neither is. -/
def bootImage (kind : Nat) (s : State) : Option FwBank × State :=
  let good := fun (b : Option FwBank) => match b with | some x => x.valid && decide (mget s.mgmt.minSvn kind 0 ≤ x.svn) | none => false
  let a := s.bankOfKind kind
  if good (s.fwBank kind a) then (s.fwBank kind a, s)
  else
    let s' := s.report 0x7102 0x700
    if good (s.fwBank kind (1 - a)) then
      (s.fwBank kind (1 - a), ({ s' with mgmt := { s'.mgmt with active := mset s'.mgmt.active kind (1 - a) } }).report 0x8050 0x700)
    else (none, s')

/-- Load and measure the tile microcode and the solver firmware as a compute-domain boot does (R484, R485, R466);
true where both kinds boot. Every unit then has its new image, so that none waits for one. -/
def bootCompute (s : State) : Bool × State :=
  let s := s.clearMeas [4, 5]
  let (t, s) := s.bootImage 1
  let (v, s) := s.bootImage 2
  match t, v with
  | some t, some v =>
    let s := (s.measure 4 t.digest).measure 5 v.digest
    (true, { s with mgmt := { s.mgmt with reloads := s.mgmt.reloads.filter (fun r => r.kind == 0) } })
  | _, _ => (false, s)

/-- The key that a die derives does not match its certificate (R481). -/
def dieKeyBad (d : Nat) (s : State) : State :=
  (s.log 0x7101 (0x500 + d) 0 (BitVec.ofNat 64 d)).out (.report 0x7101 (0x500 + d))

/-- The cold boot (R485): everything but flash, the secure store, the repair record and the real-time clock starts
again; the stacks are zeroed (R167). Without a good image of each kind the compute domain stays off. -/
def bootModule (slot group : Nat) (s : State) : State :=
  let s := (s.endDebug false).clearCompute false false false
  let s := { s with
    setup := [], beat := State.reset.beat, sched := []
    power := { State.reset.power with held := false, lastWake := s.power.lastWake, inMv := s.power.inMv, inW := s.power.inW, phaseFloor := s.power.phaseFloor }
    fabric := { s.fabric with slot := slot, group := group, sysId := s.mgmt.sysId }
    recov := { s.recov with corrected := [], marked := s.recov.marked }
    obs := { State.reset.obs with log := s.obs.log, logSeq := s.obs.logSeq, dumps := s.obs.dumps }
    mgmt := { s.mgmt with
      serial := match mfind s.mgmt.records 1 with | some p => BitVec.ofNat 64 (leNat (p.take 8)) | none => s.mgmt.serial
      identity := match mfind s.mgmt.records 1 with | some p => s.mgmt.identity.apply p | none => s.mgmt.identity
      spdm := ⟨0, [], []⟩, challenge := none, reloads := [], activate := 0, noImage := false } }
  let s := s.clearMeas [0, 1, 2, 3, 4, 5]
  let (m, s) := s.bootImage 0
  match m with
  | none => { s with power := { s.power with held := true, hot := true }, mgmt := { s.mgmt with noImage := true } }
  | some m =>
    let s := if s.mgmt.lifecycle = 2 then [0, 1, 2, 3].foldl (fun st d => st.dieKeyBad d) s else s
    let s := (s.measure 0 (Sha.digest (digestBytes Config.romDigest ++ leBytes 1 (s.bankOfKind 0)))).measure 1 m.digest
    let s := s.mgmt.recDigests.foldl (fun st c => st.measure 2 c.2) s
    match s.bootCompute with
    | (false, s) => { s with power := { s.power with held := true, hot := true } }
    | (true, s) => { s with stk := { s.stk with trained := true } }

end State
end Sys2Proof.Machine
end

