-- ==== Sys2Proof/Machine/Power.lean ====
section
/-! DEFINITION. Supply, clock plans, temperature and the power states (spec/16_power_states.md, R423 to R446). -/

namespace Sys2Proof.Machine

namespace State

/-! ### Clock plans (R427, R428, R431) -/

/-- Admission clock of a job in units of MHz ÷ 200 (R46), against the frequency of a plan: each admitted job counts,
with a deadline or without (R50, R431). -/
def planBreaks (j : Job) (p : Nat) : Bool := decide (planMhz p * 200 < j.plan.fadm)

/-- A change of what limits the plan: DEADLINE_AT_RISK comes first for each job whose f_adm the new plan breaks and
the old one did not (R50, R431). -/
def changePlan (f : State → State) (s : State) : State :=
  let old := s.planNow
  let new := (f s).planNow
  f (s.jobs.foldl (fun st j => if planBreaks j new && !planBreaks j old then st.atRisk j.handle else st) s)

def setPower (f : Power → Power) (s : State) : State := { s with power := f s.power }

/-- One plan down, counted on a die (R430); at plan 5 there is no step to make. -/
def throttleEff (d : Nat) (s : State) : State :=
  if s.power.held ∨ s.power.off ∨ s.planNow = 5 then s
  else (s.changePlan (fun s => s.setPower (fun p => { p with therm := min 5 (s.planNow + 1) }))).count 0x6110 d 0 1

/-- One plan up, as far as the limits allow. -/
def planUpEff (s : State) : State := s.setPower (fun p => { p with therm := min p.therm s.planNow - 1 })

/-- The coolant inlet is above 45 °C: a floor of plan 3. -/
def coolantHighEff (s : State) : State :=
  if s.power.coolFloor ≠ 0 ∨ s.power.off then s
  else (s.report 0x6112 0x700).changePlan (fun s => s.setPower (fun p => { p with coolFloor := 3 }))

def coolantLowEff (s : State) : State := s.setPower (fun p => { p with coolFloor := 0 })

/-! ### Supply (R423 to R426) -/

/-- A sensor's published value (R476). -/
def setSensor (id v : Nat) (s : State) : State := { s with mgmt := { s.mgmt with sensors := mset s.mgmt.sensors id v } }

/-- The input voltage as PWR.STATE and sensor 0x0303 show it, in units of 4 mV (R443, R476). -/
def setInput (mv : Nat) (s : State) : State := (s.setPower (fun p => { p with inMv := mv / 4 })).setSensor 0x303 (mv / 4)

def supplyWarnEff (mv : Nat) (s : State) : State :=
  if s.power.off ∨ s.power.held ∨ 38000 ≤ mv then s
  else
    let s := s.setInput mv
    if s.power.warn then s
    else ((s.report 0x6101 0x700).atRiskAll.pauseUnits true).setPower (fun p => { p with warn := true })

def supplyRecoverEff (mv : Nat) (s : State) : State :=
  if 39000 ≤ mv then (s.setPower (fun p => { p with warn := false })).setInput mv else s

/-- The compute domain is reset and off; stacks and retained slots are lost and jobs end without entries (R425). -/
def supplyOff (code : W16) (hot : Bool) (s : State) : State :=
  let s := ((s.report code 0x700).freezeForReset code 0x700).clearCompute false false false
  s.setPower (fun p => { p with
    st := 0, target := 0, origin := 0, held := true, hot := hot, warn := false, therm := 0
    latched := none, queued := [], inProgress := none, pgFails := 0 })

def supplyResetEff (mv : Nat) (s : State) : State :=
  if s.power.off ∨ s.power.held ∨ 34000 ≤ mv then s
  else (s.supplyOff 0x6102 false).setInput mv

def overvoltEff (mv : Nat) (s : State) : State :=
  if s.power.off ∨ s.power.held ∨ mv ≤ 62000 then s else (s.supplyOff 0x6103 false).setInput mv

def tripEff (s : State) : State := if s.power.off ∨ s.power.held then s else s.supplyOff 0x6111 true

/-- The input has held for 100 ms after a supply reset or overvoltage: the module returns through a cold boot. -/
def inputHeldEff (s : State) : State :=
  if s.power.held ∧ !s.power.hot ∧ !s.power.leak then s.bootModule s.fabric.slot s.fabric.group else s

/-- Everything that Off loses (R432, R435): the compute domain, stacks, retained slots, set-up registers and the beat
count. Flash, the secure store and the real-time clock stay. -/
def loseAll (s : State) : State :=
  let s := (s.endDebug false).clearCompute false false false
  { s with
    setup := [], beat := State.reset.beat, sched := []
    obs := { State.reset.obs with log := s.obs.log, logSeq := s.obs.logSeq, dumps := s.obs.dumps }
    power := { State.reset.power with off := true, held := false, leak := s.power.leak, inMv := s.power.inMv, phaseFloor := s.power.phaseFloor }
    mgmt := { s.mgmt with spdm := ⟨0, [], []⟩, challenge := none } }

/-- The leak sensor is wet for 50 ms: as state Off. -/
def leakEff (s : State) : State :=
  if s.power.leak ∨ s.power.off then s
  else ((s.report 0x6113 0x700).loseAll.setPower (fun p => { p with leak := true })).setSensor 0x302 1

def leakDryEff (s : State) : State := (s.setPower (fun p => { p with leak := false })).setSensor 0x302 0

/-! ### Requests (R433, R438) -/

/-- A request completes: the entry of a POWER descriptor. A request by PWR.REQ answers where it is made. -/
def completePower (r : PwrReq) (code : W16) (s : State) : State :=
  match r.from_ with
  | some (p, n, i) => s.completeDesc p n i 5 2 code 0 0 0
  | none => s

/-- The WAKE entry of a request with WAKE_AT (R433). -/
def installWake (r : PwrReq) (s : State) : Except W16 State :=
  match r.wakeAt with
  | none => .ok s
  | some p =>
    if s.beat.mode = 0 ∨ s.beat.mode = 3 then .error 0x1302
    else if p.toNat < s.beat.pos.toNat then .error 0x1306
    else match s.installEntry 4 (SchedEntry.make 1 0 p 0 0 false) with
      | some s => .ok s
      | none => .error 0x1305

/-- A thread is bound to a job. -/
def anyBound (s : State) : Bool := s.threads.any (fun c => c.2.st != .free)

/-- Entry toward a state begins: Drydown's first step. Toward Deep sleep every accumulating Enfleurage set starts to
drain (R251); toward Deep sleep or Off the debug session ends (R495) and solver operations are abandoned (R283). -/
def beginEntry (r : PwrReq) (s : State) : State :=
  let s := if 2 ≤ r.target then s.pauseUnits false else s
  let s := if r.target = 3 then (s.enf.filter (fun x => x.2.st == .accumulating)).foldl (fun (st : State) x => st.drainSet (x.1 / 2) (x.1 % 2)) s
    else s
  let s := s.setPower (fun p => { p with
    origin := p.st, st := 4, target := BitVec.ofNat 3 r.target, inProgress := some r, latched := none, forceDone := false })
  if 3 ≤ r.target then (List.range 16).foldl (fun st e => st.abandonPower e) (s.endDebug false) else s

/-- A request is taken. Answers the code where it completes now, and none where it completes later. -/
def takeRequest (r : PwrReq) (s : State) : Option W16 × State :=
  let own := r.from_.isNone
  if s.power.off ∨ s.power.leak then (some 0, s)
  else if s.power.held then
    if own ∧ s.power.hot then (some 0, s.bootModule s.fabric.slot s.fabric.group) else (some 0, s)
  else if s.power.st = 4 ∨ s.power.st = 5 then (none, s.setPower (fun p => { p with queued := p.queued ++ [r] }))
  else if s.power.st.toNat = r.target then (some 0, s)
  else if r.target = 1 ∧ s.anyBound then (some 0x6121, s)
  else if 3 ≤ r.target ∧ !s.jobs.isEmpty ∧ !(own && r.force) then (some 0x6121, s)
  else match s.installWake r with
    | .error c => (some c, s)
    | .ok s =>
      if r.target = 0 then (none, s.setPower (fun p => { p with inProgress := some r }))
      else if r.target < s.power.st.toNat then
        (none, s.setPower (fun p => { p with st := 5, target := 0, origin := p.st, pgFails := 0, queued := p.queued ++ [{ r with wakeAt := none }] }))
      else
        let s := if own ∧ (r.target = 2 ∨ r.target = 3) then
            s.jobs.foldl (fun st j => if j.runs && hasDeadline j then st.atRisk j.handle else st) s else s
        (if r.target = 1 then some 0 else none, s.beginEntry r)

/-- A descriptor's request, completed at once where it ends at once. -/
def requestPower (r : PwrReq) (s : State) : State :=
  match s.takeRequest r with
  | (some c, s) => s.completePower r c
  | (none, s) => s

/-- The oldest request that waited for a sequence is taken. -/
def runQueued (s : State) : State :=
  match s.power.queued with
  | [] => s
  | r :: rest => (s.setPower (fun p => { p with queued := rest })).requestPower r

/-- A POWER descriptor or PWR.REQ asked for Run: exit starts. -/
def runRequestEff (s : State) : State :=
  match s.power.inProgress with
  | some r =>
    if r.target = 0 ∧ (s.power.st = 1 ∨ s.power.st = 2 ∨ s.power.st = 3) then
      s.setPower (fun p => { p with st := 5, target := 0, origin := p.st, pgFails := 0 }) else s
  | none => s

/-! ### Drydown (R434, R435) -/

/-- Nothing is in progress that Drydown waits for: requests, transfers, drains, fused steps and weight groups. -/
def drained (s : State) : Bool :=
  s.threads.all (fun c => c.2.outstanding == 0 && c.2.unissued.isEmpty)
    && s.stk.queues.all (fun c => c.2.isEmpty) && s.stk.waiting.all (fun c => c.2.isEmpty)
    && s.matrix.osDrain.isEmpty && s.matrix.fused.isEmpty
    && s.enf.all (fun c => c.2.st != .draining) && s.upd.inflight.isEmpty

/-- A request's state is reached: it completes, a wake kept during the entry starts the exit, else the next request
runs. -/
def reached (st : Nat) (s : State) : State :=
  let s := match s.power.inProgress with
    | some r => if r.target = 1 then s else s.completePower r 0
    | none => s
  let s := s.setPower (fun p => { p with st := BitVec.ofNat 3 st, target := 0, inProgress := none })
  match s.power.latched with
  | some src =>
    if st < 3 then s.setPower (fun p => { p with st := 5, origin := BitVec.ofNat 3 st, lastWake := src, latched := none, pgFails := 0 })
    else s
  | none => s.runQueued

def entering (s : State) (t : Nat) : Bool := s.power.st == 4 && s.power.target.toNat == t

def idleEntryEff (s : State) : State := if s.entering 1 then (s.pauseUnits true).reached 1 else s

/-- No thread has been bound for IDLE_US. -/
def autoIdleEff (s : State) : State :=
  if s.power.st = 0 ∧ s.field Regs.pwrPlan 31 16 ≠ 0 ∧ !s.anyBound ∧ !s.power.held ∧ !s.power.off then
    (s.pauseUnits true).setPower (fun p => { p with st := 1 }) else s

/-- Data caches are written back and lose their lines, and list caches lose theirs (R146). -/
def dropCaches (s : State) : State :=
  let s := (List.range 256).foldl (fun st t => if (mget st.store.dcache t []).isEmpty then st else st.cacheInvalidate orphanRequester t 0 0) s
  { s with store := { s.store with listLines := [] } }

/-- UP group ports send PARK and are parked (R300). -/
def parkPorts (s : State) : State :=
  (List.range 7).foldl (fun st p =>
    if (st.link p).st = .up then (st.sendCtl p 7 0).mapLink p (fun l => { l with st := .parked }) else st) s

def sleepEntryEff (s : State) : State :=
  if s.entering 2 ∧ s.drained then (s.dropCaches.parkPorts).reached 2 else s

/-- The contents that Deep sleep keeps on chip: banks whose MODE is RETENTION, and retained slots. -/
def keptDeep (s : State) (a : Nat) : Bool :=
  match placeOf a with
  | .stack _ _ => true
  | .scratch t o => s.bankMode (t * 16 + o / 0x40000) == 1
  | .shared d o => s.bankMode (4096 + d * 64 + o / 0x200000) == 1
  | .staging d o => (mfind s.upd.retained (d * 512 + o / 65536)).isSome
  | _ => false

/-- Every job that is left is quenched for the power request (R435). -/
def quenchForPower (s : State) : State := s.jobs.foldl (fun st j => st.quenchJob j.handle 0x6120) s

def portsDown (s : State) : State :=
  { s with fabric := { s.fabric with
    links := s.fabric.links.map (fun (c : Nat × Link) => (c.1, { Link.fresh with
      st := if c.2.st = .disabled then .disabled else .down
      spareUsed := c.2.spareUsed, badLane := c.2.badLane, good := c.2.good, departed := c.2.departed }))
    eth := [], pairs := [] } }

/-- Entry into Deep sleep once nothing is in progress and no job is left. -/
def deepEnter (s : State) : State :=
  let s := s.dropCaches
  let keep := s.keptDeep
  let s := { s with
    mem := s.mem.filter (fun c => keep c.1)
    store := { s.store with poison := s.store.poison.filter keep, moves := [], compatWaking := [] }
    ni := { s.ni with valid := s.ni.valid.filter (fun l => (mfind s.upd.retained (l / 1024)).isSome) } }
  s.portsDown

/-- The forced quench where no occurrence is started any more, else the entry where no job is left. -/
def deepStep (target : Nat) (done : State → State) (s : State) : State :=
  if !s.entering target ∨ !s.drained then s
  else if s.jobs.isEmpty then done s
  else if s.ni.occs.isEmpty then s.quenchForPower
  else s

def deepSleepEntryEff (s : State) : State := s.deepStep 3 (fun s => s.deepEnter.reached 3)

/-- The 10 ms of a forced entry have passed. -/
def forceTimeoutEff (s : State) : State :=
  if (s.entering 3 ∨ s.entering 4) ∧ !s.power.forceDone then
    (s.setPower (fun p => { p with forceDone := true })).quenchForPower else s

def offEntryEff (s : State) : State :=
  s.deepStep 4 (fun s =>
    let wake := s.power.latched
    (s.loseAll).setPower (fun p => { p with latched := wake }))

/-! ### Returning (R439 to R441) -/

/-- Run is reached: a request for Run completes, threads fetch again what the list caches lost, and the next request
runs. -/
def runReached (s : State) : State :=
  let s := match s.power.inProgress with
    | some r => if r.target = 0 then s.completePower r 0 else s
    | none => s
  let s := s.setPower (fun p => { p with st := 0, target := 0, origin := 0, inProgress := none, pgFails := 0 })
  let s := s.threads.foldl (fun st c => if c.2.st = .ready then st.fetchNext c.1 else st) s
  s.runQueued

def exiting (s : State) (from_ : Nat) : Bool := s.power.st == 5 && s.power.origin.toNat == from_

def idleExitEff (s : State) : State := if s.exiting 1 then s.runReached else s

def sleepExitEff (s : State) : State :=
  if s.exiting 2 then
    let s := (List.range 7).foldl (fun st p =>
      if (st.link p).st = .parked then (st.sendCtl p 6 1).mapLink p (fun l => { l with st := .up }) else st) s
    s.fabricChanged.runReached
  else s

/-- The power-good check of a return fails: back to the state that was left; after a second failure the compute domain
is off until a management command. -/
def powerGoodFail (s : State) : State :=
  if s.power.st ≠ 5 then s
  else
    let s := s.report 0x6122 0x700
    if s.power.pgFails = 0 then s.setPower (fun p => { p with st := p.origin, pgFails := 1 })
    else (s.clearCompute true true false).setPower (fun p => { p with
      st := 0, target := 0, origin := 0, held := true, hot := true, inProgress := none, queued := [], pgFails := 0 })

def powerGoodRetryEff (s : State) : State :=
  if s.power.pgFails ≠ 0 ∧ (s.power.st = 1 ∨ s.power.st = 2 ∨ s.power.st = 3) then
    s.setPower (fun p => { p with origin := p.st, st := 5 }) else s

/-- Banks that kept their contents go to ON (R441). -/
def retainedOn (s : State) : State :=
  let fix := fun (o : Nat) (st : State) =>
    st.setRegNat o ((List.range 16).foldl (fun v k => if bits v (2 * k + 1) (2 * k) = 1 then setBits v (2 * k + 1) (2 * k) 0 else v) (st.regNat o))
  let s := (List.range 256).foldl (fun st t => fix (Regs.tilPwr t) st) s
  (List.range 16).foldl (fun st i => fix (Regs.shsPwr (i / 4) (i % 4)) st) s

def deepSleepExitEff (ok : Bool) (s : State) : State :=
  if s.exiting 3 then
    if ok then
      let s := s.retainedOn
      { s with
        stk := { s.stk with trained := true }
        mgmt := { s.mgmt with reloads := s.mgmt.reloads.filter (fun r => r.kind == 0) } }.runReached
    else (s.report 0x7101 0x700).powerGoodFail
  else s

/-! ### Wakes -/

/-- WAKE_L has been low: at least 1 µs acts in every state; in Off it starts a cold boot. -/
def wakePinEff (ns : Nat) (s : State) : State :=
  if ns < 1000 then s
  else if s.power.off then (s.setPower (fun p => { p with lastWake := 6 })).bootModule s.fabric.slot s.fabric.group
  else s.wakeBy 6

/-- A wake kept through an entry into Deep sleep or Off is replayed (R437). -/
def wakeReplayedEff (s : State) : State :=
  match s.power.latched with
  | none => s
  | some _ =>
    if s.power.off then
      ((s.count 0x6123 3 0 1).setPower (fun p => { p with lastWake := 7 })).bootModule s.fabric.slot s.fabric.group
    else if s.power.st = 3 then
      (s.count 0x6123 3 0 1).setPower (fun p => { p with st := 5, origin := 3, lastWake := 7, latched := none, pgFails := 0 })
    else s

/-- A WAKE entry falls due (R41). -/
def wakeEntryEff (i : Nat) (s : State) : State := s.fireEntry 4 i 1 (fun _ s => s.wakeBy 4)

/-- PWR.STATE as it reads (R443). -/
def pwrStateValue (s : State) : Nat :=
  s.power.st.toNat + s.power.target.toNat * 8 + (if s.power.warn ∨ s.power.st = 1 then 7 else s.planNow) * 64
    + (if s.power.warn then 512 else 0) + s.power.lastWake % 16 * 1024 + s.planFloor * 2 ^ 14
    + s.power.inMv % 65536 * 2 ^ 32 + s.power.inW % 65536 * 2 ^ 48

end State

def execWakeEntry (i : Fin 256) (s : State) : Host.Outcome State Fault Refusal := .next (s.wakeEntryEff i.val)
def execSupplyWarn (mv : W16) (s : State) : Host.Outcome State Fault Refusal := .next (s.supplyWarnEff mv.toNat)
def execSupplyRecover (mv : W16) (s : State) : Host.Outcome State Fault Refusal := .next (s.supplyRecoverEff mv.toNat)
def execSupplyReset (mv : W16) (s : State) : Host.Outcome State Fault Refusal := .next (s.supplyResetEff mv.toNat)
def execSupplyOvervolt (mv : W16) (s : State) : Host.Outcome State Fault Refusal := .next (s.overvoltEff mv.toNat)
def execThermalThrottle (d : Die) (s : State) : Host.Outcome State Fault Refusal := .next (s.throttleEff d.val)
def execPlanStepUp (s : State) : Host.Outcome State Fault Refusal := .next s.planUpEff
def execCoolantHigh (s : State) : Host.Outcome State Fault Refusal := .next s.coolantHighEff
def execCoolantInletBelow42c (s : State) : Host.Outcome State Fault Refusal := .next s.coolantLowEff
def execThermalTrip (s : State) : Host.Outcome State Fault Refusal := .next s.tripEff
def execLeakDetected (s : State) : Host.Outcome State Fault Refusal := .next s.leakEff
def execLeakSensorDry (s : State) : Host.Outcome State Fault Refusal := .next s.leakDryEff
def execInputHeld40v (s : State) : Host.Outcome State Fault Refusal := .next s.inputHeldEff
def execIdleEntry (s : State) : Host.Outcome State Fault Refusal := .next s.idleEntryEff
def execAutoIdle (s : State) : Host.Outcome State Fault Refusal := .next s.autoIdleEff
def execSleepEntry (s : State) : Host.Outcome State Fault Refusal := .next s.sleepEntryEff
def execDeepSleepEntry (s : State) : Host.Outcome State Fault Refusal := .next s.deepSleepEntryEff
def execForceTimeout (s : State) : Host.Outcome State Fault Refusal := .next s.forceTimeoutEff
def execOffEntry (s : State) : Host.Outcome State Fault Refusal := .next s.offEntryEff
def execRunRequest (s : State) : Host.Outcome State Fault Refusal := .next s.runRequestEff
def execIdleExit (s : State) : Host.Outcome State Fault Refusal := .next s.idleExitEff
def execSleepExit (s : State) : Host.Outcome State Fault Refusal := .next s.sleepExitEff
def execDeepSleepExit (measuresOk : Bool) (s : State) : Host.Outcome State Fault Refusal := .next (s.deepSleepExitEff measuresOk)
def execWakePin (lowNs : W32) (s : State) : Host.Outcome State Fault Refusal := .next (s.wakePinEff lowNs.toNat)
def execWakeReplayed (s : State) : Host.Outcome State Fault Refusal := .next s.wakeReplayedEff
def execPowerGoodFailed (s : State) : Host.Outcome State Fault Refusal := .next s.powerGoodFail
def execPowerGoodRetry (s : State) : Host.Outcome State Fault Refusal := .next s.powerGoodRetryEff
def execColdBoot (slot : Fin 8) (group : BitVec 10) (s : State) : Host.Outcome State Fault Refusal :=
  .next (let s := s.bootModule slot.val group.toNat
    { s with mgmt := { s.mgmt with rtc := 0, rtcValid := false } })

end Sys2Proof.Machine
end

