-- ==== Sys2Proof/Machine/Fabric.lean ====
section
/-! DEFINITION. The group links, discovery, departure and the Ethernet ports (spec/11_fabric.md, R288 to R317). -/

namespace Sys2Proof.Machine

/-- The complement that guards a control flit's value (R292). -/
def compOk {w : Nat} (v c : BitVec w) : Bool := c == ~~~v

namespace State

/-- The compute domain runs its links (R300). -/
def linksOn (s : State) : Bool := !s.power.held && !s.power.off && s.power.st != 3

/-! ### Leaving service and lanes (R296, R304 to R306) -/

/-- A port leaves service for a state; leaving UP for DOWN or FAILED is a departure. Flits it forwarded for others
wait there for its return. -/
def leaveUp (p : Nat) (next : LinkSt) (s : State) : State :=
  let was := (s.link p).st.serves
  let gone := was && (next == .down || next == .failed)
  let s := s.mapLink p (fun l => { l with st := next, departed := l.departed || was, peerUp := 0, peerBeat := 0 })
  (if gone then s.fabReport 0x4104 p else s).fabricChanged

def goodLanes (mask : Nat) (spare : Bool) : Nat :=
  ((List.range 8).filter (fun i => bit mask i)).length + (if spare && bit mask 8 then 1 else 0)

/-- A lane fails its check: the spare takes it over, or the port retrains at width 4 on four good lanes, or fails.
DEDUCED (log 45): lane 8 that fails before it is used carries nothing, so the port stays UP, and lane 8 is no spare from
then on. -/
def laneFailEff (p lane : Nat) (s : State) : State :=
  let l := s.link p
  if !s.linksOn ∨ !(l.st = .up ∨ l.st = .swap) ∨ !bit l.good lane then s
  else
    let good := l.good - 2 ^ lane
    if lane = 8 ∧ !l.spareUsed ∧ l.st = .up then s.mapLink p (fun l => { l with good := good })
    else if lane < 8 ∧ !l.spareUsed ∧ l.st = .up ∧ bit l.good 8 ∧ s.flag (Regs.portCtrl p) 2 then
      s.mapLink p (fun l => { l with st := .swap, badLane := lane, good := good })
    else
      let s := s.mapLink p (fun l => { l with good := good })
      if goodLanes good (l.spareUsed || l.st == .swap) < 4 then s.leaveUp p .failed else s.leaveUp p .train

/-- The lane check that a lack of flits to replay or too many replays asks for (R291): a lane in use fails where its rate
of corrected symbols exceeds the limit. The manual gives neither the symbols of a flit nor what the millisecond holds, so
for a lane that corrected any a free bit says so (log 45). -/
def laneCheck (p : Nat) (s : State) : State :=
  let l := s.link p
  match (List.range 9).find? (fun k => bit l.good k && decide (0 < l.corrected.getD k 0) && Config.freeBit s.freeCtr k) with
  | some k => s.tick.laneFailEff p k
  | none => s.tick

/-! ### The link layer (R290 to R293) -/

/-- Flits behind an acknowledged sequence number; the acknowledged ones leave the retry buffer. -/
def behindAck (a : Nat) (l : List TxFlit) : List TxFlit :=
  match l with
  | [] => []
  | f :: r => if f.seq = a then r else behindAck a r

/-- Every flit of the retry buffer leaves again, and counts; at 64 in a millisecond the port runs its lane check (R291). -/
def replay (p : Nat) (s : State) : State :=
  let l := s.link p
  let n := l.retry.length
  let s := l.retry.foldl (fun (st : State) f => st.out (.flit p f l.rxSeq)) s
  let s := (s.bump (Regs.obsPort p 13) n).noteCounted 0x4110 p n
  if 64 ≤ l.replays + n then (s.mapLink p (fun l => { l with replays := 0 })).laneCheck p
  else s.mapLink p (fun l => { l with replays := l.replays + n })

/-- The CREDIT flit that waited is acknowledged: the counts it carried are cleared, and what is owed since then leaves
(R292). -/
def creditAcked (p : Nat) (s : State) : State :=
  let l := s.link p
  match l.creditSeq with
  | some q =>
    if l.retry.any (fun f => f.seq == q) then s
    else (s.mapLink p (fun l => { l with creditSeq := none, inCredit := noCounts })).offerCredit p
  | none => s

/-- What a received ACK does: it frees what it names and every flit before. With flits behind it, it is an ordinary ACK or
asks for them again, which the manual does not tell apart: a free bit (log 44). One that names no flit kept asks for
flits that cannot be replayed (R291). -/
def takeAck (p a : Nat) (s : State) : State :=
  let l := s.link p
  if a ≠ l.lastAck ∧ !l.retry.any (fun f => f.seq == a) then s.laneCheck p
  else
    let s := (s.mapLink p (fun l => { l with
      retry := if a = l.lastAck then l.retry else behindAck a l.retry, lastAck := a })).creditAcked p
    let s := if (s.link p).retry.isEmpty then s else if Config.freeBit s.freeCtr 0 then s.tick.replay p else s.tick
    if s.fabric.returning.isEmpty then s.pump p else s.fabricChanged

/-- Error correction's work on a flit adds to the lanes' counts of the millisecond (R296). -/
def noteSymbols (p : Nat) (h : LinkHead) (s : State) : State :=
  s.mapLink p (fun l => { l with
    corrected := (List.range 9).map (fun k => (if h.newMs then 0 else l.corrected.getD k 0) + h.corrected.getD k 0)
    replays := if h.newMs then 0 else l.replays })

/-- An ACK leaves in the next flit slot of a port in service. -/
def acknowledge (p : Nat) (s : State) : State := if (s.link p).st.serves then s.sendIdle p else s

/-- A flit that is sound and in order: counted on its channel, its number taken, its ACK applied, its content used, and
acknowledged (R291). -/
def accept (p vc : Nat) (h : LinkHead) (f : State → State) (s : State) : State :=
  ((f (((s.bump (Regs.obsPort p (6 + vc)) 1).mapLink p (fun l => { l with rxSeq := h.seq.toNat })).takeAck p h.ack.toNat))).acknowledge p

/-- The flit passes reception: the port is in service, the CRC holds, and it is in sequence (R291). -/
def inSequence (s : State) (p : Nat) (h : LinkHead) : Bool :=
  h.crcOk && h.seq.toNat == ((s.link p).rxSeq + 1) % 256

/-- A flit on a port in service; a bad one, or one out of sequence, is discarded, and the next ACK names the last good
one (R291). -/
def receive (p : Nat) (h : LinkHead) (f : State → State) (s : State) : State :=
  if !s.linksOn ∨ !(s.link p).st.serves then s
  else
    let s := s.noteSymbols p h
    if s.inSequence p h then f s else s.acknowledge p

/-- A control flit. One whose guard fails is discarded with an entry that names the port and the KIND; it is not
acknowledged, so that it comes again (R292). DEDUCED (log 45). -/
def takeCtl {w : Nat} (h : CtlFlit) (kind : Nat) (v c : BitVec w) (f : State → State) (s : State) : State :=
  let p := h.port.val
  s.receive p h.toLinkHead (fun s =>
    if compOk v c then s.accept p 0 h.toLinkHead f
    else (s.log 0x8010 (0x400 + p) 0 (BitVec.ofNat 64 (guardDetail 5 p + kind * 2 ^ 40))).acknowledge p)

/-! ### DATA (R290 to R295, R304) -/

/-- A DATA flit of VC0 to VC5: delivered here; or, from the port's partner itself and marked RELAY, forwarded on the port
to DST, where it stands in the relay buffer until it leaves (R293, R304); else dropped. -/
def deliverFlit (p : Nat) (h : FlitHead) (w : Option NiWrite) (s : State) : State :=
  let vc := h.vc.toNat
  if h.dst.val = s.fabric.slot then
    (match w with
      | some x => s.landWrite x
      | none => s).returnCredit p (if h.relay then relayVc vc else vc)
  else if h.relay ∧ 1 ≤ vc ∧ h.src.val = slotOf s.fabric.slot p then
    s.txOn (portTo s.fabric.slot h.dst.val) ⟨0, 1, vc, true, h.src.val, h.dst.val, h.len.toNat, 0, some p⟩
  else s.returnCredit p (if h.relay then relayVc vc else vc)

/-- A flit by its KIND: DATA is taken while the port is UP; IDLE carries only its ACK; one of a reserved KIND, or of a
reserved channel, is dropped and counted (R290). -/
def dataFlitEff (p : Nat) (h : FlitHead) (w : Option NiWrite) (s : State) : State :=
  if h.kind = 0 then
    if s.linksOn ∧ (s.link p).st.serves then
      let s := s.noteSymbols p h.toLinkHead
      if h.crcOk then s.takeAck p h.ack.toNat else s.acknowledge p
    else s
  else if h.kind = 1 ∧ h.vc.toNat < 6 then
    if (s.link p).st = .up then s.receive p h.toLinkHead (fun s => s.accept p h.vc.toNat h.toLinkHead (fun s => s.deliverFlit p h w))
    else s
  else s.receive p h.toLinkHead (fun s => s.accept p 0 h.toLinkHead (fun s => s.mapLink p (fun l => { l with errors := l.errors + 1 })))

/-- Returned credits, by channel. A count does not say which buffer of the channel is free again: a free value splits it
between the direct and the relay credits that are out (log 45). No credit exceeds its buffer (R293). -/
def addCredits (tok counts : Nat) (l : Link) : Link :=
  let n := fun k => bits counts (16 * k + 15) (16 * k)
  let out := fun k => fullCredits.getD k 0 - l.credits.getD k 0
  let outRelay := fun k => if k < 2 then 0 else fullRelay.getD (k - 2) 0 - l.relayCredits.getD (k - 2) 0
  let direct := fun k => min (out k) (max (n k - outRelay k) (Config.freeNat tok k % (n k + 1)))
  { l with
    credits := (List.range 6).map (fun k => l.credits.getD k 0 + direct k)
    relayCredits := (List.range 4).map (fun i => l.relayCredits.getD i 0 + min (outRelay (i + 2)) (n (i + 2) - direct (i + 2))) }

def creditEff (h : CtlFlit) (counts comp : BitVec 96) (s : State) : State :=
  s.takeCtl h 2 counts comp (fun s => ((s.tick.mapLink h.port.val (addCredits s.freeCtr counts.toNat)).pump h.port.val).pumpMsgs)

/-! ### Heartbeats and departure (R303 to R306) -/

def heartbeatEff (h : CtlFlit) (v c : W32) (s : State) : State :=
  s.takeCtl h 3 v c (fun s =>
    if (s.link h.port.val).st.serves then
      (s.mapLink h.port.val (fun l => { l with peerUp := bits v.toNat 6 0, peerBeat := bits v.toNat 9 7 })).fabricChanged
    else s)

/-- The UP mask of the group ports. -/
def upMask (s : State) : Nat := ((List.range 7).map (fun q => if (s.link q).st = .up then 2 ^ q else 0)).sum

def heartbeatSendEff (p : Nat) (s : State) : State :=
  if s.linksOn ∧ (s.link p).st = .up then s.sendCtl p 3 (s.upMask + s.beat.mode.toNat * 128) else s

def partnerDepartedEff (p : Nat) (s : State) : State :=
  if s.linksOn ∧ (s.link p).st = .up then s.leaveUp p .down else s

/-! ### QUENCH, WAKE and PARK (R292, R300, R340) -/

/-- A QUENCH that names a job of this module acts as a quench descriptor. -/
def quenchById (id : W32) (s : State) : State :=
  match s.findJobId id with
  | some j => if j.live then s.quenchJob j.handle 0x1401 else s
  | none => s

def quenchFlitEff (h : Option CtlFlit) (id comp : W32) (s : State) : State :=
  match h with
  | some h => s.takeCtl h 5 id comp (fun s => s.quenchById id)
  | none =>
    if !s.linksOn then s else if compOk id comp then s.quenchById id else s.logGuard 0x700 0 5 0

/-- WAKE on a parked port: the port is UP again, as it is within 50 µs of either end's leaving Sleep, and the flit is a
wake source (R300, R436). -/
def wakeFlitEff (h : CtlFlit) (v c : W32) (s : State) : State :=
  s.takeCtl h 6 v c (fun s =>
    if bit v.toNat 0 ∧ (s.link h.port.val).st = .parked then ((s.mapLink h.port.val (fun l => { l with st := .up })).fabricChanged).wakeBy 5
    else s)

def parkEff (h : CtlFlit) (v c : W32) (s : State) : State :=
  s.takeCtl h 7 v c (fun s =>
    if !bit v.toNat 0 ∧ (s.link h.port.val).st = .up then s.mapLink h.port.val (fun l => { l with st := .parked }) else s)

/-- A BEAT_MARKER flit (R32); one discarded counts as a missing edge (R292). -/
def markerFlitEff (h : CtlFlit) (v c : W64) (interval : Nat) (s : State) : State :=
  s.takeCtl h 4 v c (fun s => s.beatMarkerEff h.port.val v.toNat interval)

/-! ### Training and discovery (R297 to R301) -/

def signalDetectEff (p : Nat) (s : State) : State :=
  let l := s.link p
  if s.linksOn ∧ l.st = .down ∧ l.trainFails = 0 then s.mapLink p (fun l => { l with st := .train }) else s

def trainRetryEff (p : Nat) (s : State) : State :=
  let l := s.link p
  if s.linksOn ∧ l.st = .down ∧ l.trainFails ≠ 0 then s.mapLink p (fun l => { l with st := .train }) else s

/-- What a port sends in HELLO: the chains of the module and of the die that carries the port (R16), and the capability
record. The nonce and the signature are free values: their bits are not the manual's (log 2). -/
def helloRecord (s : State) (p : Nat) : Hello :=
  ⟨Config.chainBytes 0 ++ Config.chainBytes (p / 2 + 1), Config.freshNonce s.freeCtr, s.fabric.sysId, s.fabric.group, s.fabric.slot, p,
    0xB1, if (s.link p).width4 then 4 else 8,
    match s.fwBank 1 (s.bankOfKind 1) with | some b => b.version | none => 0,
    Config.slotSign (p / 2 + 1) (Config.freshNonce (s.freeCtr + 1))⟩

def sendHello (p : Nat) (s : State) : State :=
  ((s.out (.hello p (s.helloRecord p))).tick.tick).bump (Regs.obsPort p 0) 1

/-- Training ends at the width it found: eight good lanes, counting the spare in place of the lane it replaced, or
four, which is reported (R296). The port then sends its HELLO (R301). -/
def trainingCompleteEff (p : Nat) (width4 : Bool) (latency : Nat) (s : State) : State :=
  if s.linksOn ∧ (s.link p).st = .train then
    let s := if width4 then s.fabReport 0x4107 p else s
    (s.mapLink p (fun l => { l with
      st := .hello, width4 := width4, latency := latency
      good := if width4 then l.good else if l.spareUsed then 0x1FF - 2 ^ l.badLane % 0x200 else 0x1FF })).sendHello p
  else s

def trainFailEff (p : Nat) (s : State) : State :=
  let l := s.link p
  if l.st = .train ∨ l.st = .hello then
    if 2 ≤ l.trainFails then
      (s.mapLink p (fun l => { l with st := .failed, trainFails := l.trainFails + 1 })).fabReport 0x4101 p
    else s.mapLink p (fun l => { l with st := .down, trainFails := l.trainFails + 1 })
  else s

/-- Discovery succeeds at both ends: credits are full, sequence numbers start again, and what the port held for others
is sent again. -/
def linkUp (p : Nat) (i : HelloInfo) (s : State) : State :=
  (s.mapLink p (fun l => { l with
    st := .up, trainFails := 0, peerSlot := i.slot.val, peerGroup := i.group.toNat, peerSerial := i.serial
    txSeq := 0, rxSeq := 0, lastAck := 0, retry := [], held := (l.retry ++ l.held).filter (fun f => f.kind == 1)
    owed := noCounts, inCredit := noCounts, creditSeq := none, turn := 0, turnLeft := 0, replays := 0
    credits := fullCredits, relayCredits := fullRelay, peerUp := 0, peerBeat := 0 })).fabricChanged

/-- The checks of R301 in their order; the code of the first that fails. -/
def helloCheck (s : State) (p : Nat) (i : HelloInfo) : Option W16 :=
  if !i.chainOk ∨ i.expiredOrReturn ∨ !i.sigOk then some 0x4102
  else if i.sysId ≠ s.fabric.sysId ∨ i.group.toNat ≠ s.fabric.group ∨ i.slot.val ≠ slotOf s.fabric.slot p
      ∨ i.port.val ≠ 6 - p then some 0x4103
  else none

def helloEff (p : Nat) (i : HelloInfo) (s : State) : State :=
  if s.linksOn ∧ (s.link p).st = .hello then
    let s := s.bump (Regs.obsPort p 6) 1
    match s.helloCheck p i with
    | some c => (s.mapLink p (fun l => { l with st := .isolated })).fabReport c p
    | none => if i.confirmed then s.linkUp p i else s
  else s

def helloTimeoutEff (p : Nat) (s : State) : State :=
  if (s.link p).st = .hello then s.mapLink p (fun l => { l with st := .isolated }) else s

/-! ### Lanes and spares (R296) -/

def swapDoneEff (p : Nat) (s : State) : State :=
  if s.linksOn ∧ (s.link p).st = .swap then
    (((s.mapLink p (fun l => { l with st := .up, spareUsed := true })).fabReport 0x4106 p).fabricChanged)
  else s

/-! ### Remote memory access (R307) -/

/-- A request from another module: performed in stacked memory with the tag of the job of that identity, or refused. The
answer leaves on the port; the command of an Ethernet port names no sender, shown as 0xFFFF. -/
def remoteAccessEff (p : Nat) (id : W32) (write : Bool) (a n : Nat) (data : List Byte) (s : State) : State :=
  let who := if p < 7 then s.fabric.group * 8 + (s.link p).peerSlot else 0xFFFF
  let n := if write then data.length else n
  let deny := fun (s : State) => s.out (.message who kRemoteDenied id 0 0 [])
  if !s.linksOn ∨ (p < 7 ∧ (s.link p).st ≠ .up) ∨ (7 ≤ p ∧ mget s.fabric.eth (p - 7) 1 ≠ 4) then s
  else match s.findJobId id with
    | none => deny s
    | some j =>
      let s := s.quietRestart (fun x => x.handle == j.handle)
      let ok := j.live && decide (0 < n) && (match placeOf a with | .stack _ _ => true | _ => false)
        && (pieces a n).all (fun x => s.regionAcc j.block.tag.toNat false write x.1 x.2 == .ok)
        && s.channelAcc a n == .ok && (write || !s.poisonStack a n)
      if !ok then deny s
      else if write then (s.save a data).out (.message who kData id 0 0 [])
      else s.out (.message who kData id 0 0 (s.load a n))

/-! ### FAB.PORT_CTRL and port resets (R299, R311, R465) -/

/-- An Ethernet port leaves service: every message it has not had acknowledged goes to the other port (R310). -/
def ethResend (e : Nat) (s : State) : State :=
  s.fabric.pairs.foldl (fun st q =>
    q.sent.reverse.foldl (fun st m =>
      if m.port = e ∧ !st.ethUsable ((st.pairOf q.remote).getD q) m.vc e ∧ st.ethUsable ((st.pairOf q.remote).getD q) m.vc (1 - e) then
        (st.out (.ethMessage (7 + (1 - e)) m.vc q.remote m.seq m.len)).mapPair q.remote (fun q => { q with
          sent := q.sent.map (fun x => if x.vc = m.vc ∧ x.seq = m.seq then { x with port := 1 - e } else x) })
      else st) st) s

def setEth (e v : Nat) (s : State) : State := { s with fabric := { s.fabric with eth := mset s.fabric.eth e v } }

def ethDown (e : Nat) (s : State) : State := (s.setEth e 1).ethResend e

/-- A write of FAB.PORT_CTRL. -/
def portCtrlEff (p v : Nat) (s : State) : State :=
  let s := s.setRegNat (Regs.portCtrl p) (v &&& 5)
  if p < 7 then
    let st := (s.link p).st
    if !bit v 0 then (if st = .disabled then s else s.leaveUp p .disabled)
    else if bit v 1 then
      let s := s.mapLink p (fun l => { l with trainFails := 0 })
      s.leaveUp p .down
    else if st = .disabled then s.mapLink p (fun l => { l with st := .down, trainFails := 0 })
    else s
  else if !bit v 0 ∨ bit v 1 then s.ethDown (p - 7)
  else s

/-- A port returns to reset and trains again; the queue pairs of an Ethernet port close (R309). -/
def portResetEff (p : Nat) (s : State) : State :=
  if p < 7 then
    let off := (s.link p).st == .disabled
    let s := s.leaveUp p (if off then .disabled else .down)
    s.mapLink p (fun l => { Link.fresh with st := l.st, departed := l.departed })
  else
    let e := p - 7
    let s := s.ethDown e
    let pairs := s.fabric.pairs.map (fun (q : QPair) => { q with up := q.up.set e false, rate := q.rate.set e 1000000 })
    ({ s with fabric := { s.fabric with pairs := pairs.filter (fun q => q.up.any id) } }).askPairs

/-! ### Ethernet (R308 to R310) -/

/-- The messages of a channel that have their turn, oldest first, land. -/
def landEarly (fuel m vc : Nat) (s : State) : State :=
  match fuel with
  | 0 => s
  | f + 1 =>
    match s.pairOf m with
    | none => s
    | some q =>
      match q.early.find? (fun x => x.vc == vc && x.seq == q.rxSeq.getD vc 0) with
      | none => s
      | some x =>
        let s := s.mapPair m (fun q => { q with
          rxSeq := q.rxSeq.set vc (x.seq + 1), early := q.early.filter (fun y => !(y.vc == vc && y.seq == x.seq)) })
        (match x.write with | some w => s.landWrite w | none => s).landEarly f m vc

/-- A message arrives: one of its turn lands, with those that waited behind it; one at most 31 ahead waits; one that has
landed is dropped. -/
def ethMessageEff (e m vc seq : Nat) (w : Option NiWrite) (s : State) : State :=
  match s.pairOf m with
  | none => s
  | some q =>
    if !s.linksOn ∨ mget s.fabric.eth e 1 ≠ 4 ∨ !q.up.getD e false then s
    else
      let s := s.bump (Regs.obsPort (7 + e) (6 + vc)) (((match w with | some x => x.data.length | none => 1) + 255) / 256)
      let next := q.rxSeq.getD vc 0
      let d := (seq + 2 ^ 32 - next % 2 ^ 32) % 2 ^ 32
      if d < 32 ∧ !q.early.any (fun x => x.vc == vc && x.seq == next + d) then
        (s.mapPair m (fun q => { q with early := ⟨vc, next + d, w⟩ :: q.early })).landEarly 32 m vc
      else s

/-- The exchange with a remote module ends: the queue pairs on both ports open where the chain, the signature and the
system identity hold. -/
def qpOpenEff (m : Nat) (i : HelloInfo) (s : State) : State :=
  if !s.linksOn ∨ m / 8 = s.fabric.group then s
  else if !i.chainOk ∨ i.expiredOrReturn ∨ !i.sigOk then s.fabReport 0x4102 7
  else if i.sysId ≠ s.fabric.sysId then s.fabReport 0x4103 7
  else if !i.confirmed then s
  else
    let s := match s.pairOf m with
      | some _ => s
      | none => { s with fabric := { s.fabric with pairs := s.fabric.pairs ++ [QPair.fresh m] } }
    (s.mapPair m (fun q => { q with up := [true, true], serial := i.serial, asked := true })).askPairs.pumpMsgs

def qpCloseEff (m : Nat) (s : State) : State :=
  ({ s with fabric := { s.fabric with pairs := s.fabric.pairs.filter (fun q => q.remote != m) } }).askPairs

/-- A congestion notification halves the rate of the pair on a port, at most once in 50 µs. -/
def cnpEff (e m : Nat) (recent : Bool) (s : State) : State :=
  if recent then s else s.mapPair m (fun q => { q with rate := q.rate.set e (q.rate.getD e 0 / 2) })
def rateRecoverEff (e m : Nat) (s : State) : State :=
  s.mapPair m (fun q => { q with rate := q.rate.set e (min 1000000 (q.rate.getD e 0 + 50000)) })

def ethLinkDownEff (e : Nat) (s : State) : State :=
  if mget s.fabric.eth e 1 = 4 then (s.fabReport 0x4120 (7 + e)).ethDown e else s

/-- The link of a port comes up: pairs that are open use it again, and what the other port could not send goes here. -/
def ethLinkUpEff (e : Nat) (s : State) : State :=
  if !s.linksOn ∨ !s.flag (Regs.portCtrl (7 + e)) 0 ∨ s.regNat Regs.ethPrefix = 0 then s
  else
    let s := s.setEth e 4
    let s := { s with fabric := { s.fabric with
      pairs := s.fabric.pairs.map (fun (q : QPair) => if q.up.any id then { q with up := q.up.set e true } else q) } }
    (s.ethResend (1 - e)).pumpMsgs

/-- A queue pair fails on a port: its traffic moves to the other. -/
def ethRetransmitEff (e m : Nat) (s : State) : State :=
  match s.pairOf m with
  | none => s
  | some q =>
    if q.up.getD e false then
      let s := (s.bump (Regs.obsPort (7 + e) 13) 1).noteCounted 0x4121 (7 + e) 1
      (s.mapPair m (fun q => { q with up := q.up.set e false })).ethResend e
    else s

/-- Priority flow control acts on the two priorities in use. -/
def pfcPauseEff (e prio : Nat) (paused : Bool) (s : State) : State :=
  if prio ≠ s.field Regs.ethCfg 2 0 ∧ prio ≠ s.field Regs.ethCfg 5 3 then s
  else
    let old := mget s.fabric.paused e 0
    let s := { s with fabric := { s.fabric with paused := mset s.fabric.paused e (setBits old prio prio (if paused then 1 else 0)) } }
    if paused then s else (s.ethResend (1 - e)).pumpMsgs

/-- The IPv6 address of a port: the prefix and group × 16 + slot × 2 + e. -/
def ethAddress (s : State) (e : Nat) : Nat :=
  s.regNat Regs.ethPrefix * 2 ^ 64 + s.fabric.group * 16 + s.fabric.slot * 2 + e

def solicitEff (e : Nat) (target : BitVec 128) (s : State) : State :=
  if mget s.fabric.eth e 1 = 4 ∧ target.toNat = s.ethAddress e then s.out (.advertise e (s.mgmt.identity.macs.getD e 0)) else s

/-! ### What the registers read (R312, R314, R316) -/

def portStatusValue (s : State) (p : Nat) : Nat :=
  if p < 7 then
    let l := s.link p
    l.st.code + (if l.width4 then 16 else 0) + (if l.spareUsed then 32 else 0)
      + (if l.spareUsed then l.badLane else 0xF) * 64 + l.peerSlot * 2 ^ 10 + l.peerGroup * 2 ^ 13 + l.latency * 2 ^ 32
  else mget s.fabric.eth (p - 7) 1 + 0xF * 64

def creditValue (s : State) (p : Nat) : Nat :=
  if p < 7 then ((List.range 6).map (fun k => (s.link p).credits.getD k 0 * 2 ^ (10 * k))).sum else 0

def strapValue (s : State) : Nat := s.fabric.slot + s.fabric.group * 8 + s.fabric.sysId.toNat % 65536 * 65536

def topoValue (s : State) (t : Nat) : Nat :=
  let r := s.route t
  r.1 + (if r.1 = 1 ∨ r.1 = 2 then r.2.1 * 4 else 0) + (if r.1 = 2 then r.2.2 * 32 else 0)
    + (if t = s.fabric.slot then 0 else (s.link (portTo s.fabric.slot t)).peerSerial.toNat * 2 ^ 32)

end State

def execDataFlit (p : GPort) (h : FlitHead) (landed : Option NiWrite) (s : State) : Host.Outcome State Fault Refusal :=
  .next (s.dataFlitEff p.val h landed)
def execCredit (p : CtlFlit) (counts comp : BitVec 96) (s : State) : Host.Outcome State Fault Refusal :=
  .next (s.creditEff p counts comp)
def execBeatMarker (p : CtlFlit) (value comp : W64) (interval : BitVec 48) (s : State) :
    Host.Outcome State Fault Refusal := .next (s.markerFlitEff p value comp interval.toNat)
def execHeartbeat (p : CtlFlit) (value comp : W32) (s : State) : Host.Outcome State Fault Refusal :=
  .next (s.heartbeatEff p value comp)
def execHeartbeatSend (p : GPort) (s : State) : Host.Outcome State Fault Refusal := .next (s.heartbeatSendEff p.val)
def execQuenchFlit (p : Option CtlFlit) (jobId comp : W32) (s : State) : Host.Outcome State Fault Refusal :=
  .next (s.quenchFlitEff p jobId comp)
def execWakeFlit (p : CtlFlit) (value comp : W32) (s : State) : Host.Outcome State Fault Refusal :=
  .next (s.wakeFlitEff p value comp)
def execPark (p : CtlFlit) (value comp : W32) (s : State) : Host.Outcome State Fault Refusal :=
  .next (s.parkEff p value comp)
def execHello (p : GPort) (i : HelloInfo) (s : State) : Host.Outcome State Fault Refusal := .next (s.helloEff p.val i)
def execHelloTimeout (p : GPort) (s : State) : Host.Outcome State Fault Refusal := .next (s.helloTimeoutEff p.val)
def execSignalDetect (p : GPort) (s : State) : Host.Outcome State Fault Refusal := .next (s.signalDetectEff p.val)
def execTrainingComplete (p : GPort) (width4 : Bool) (latencyNs : W16) (s : State) : Host.Outcome State Fault Refusal :=
  .next (s.trainingCompleteEff p.val width4 latencyNs.toNat)
def execTrainFail (p : GPort) (s : State) : Host.Outcome State Fault Refusal := .next (s.trainFailEff p.val)
def execTrainRetry (p : GPort) (s : State) : Host.Outcome State Fault Refusal := .next (s.trainRetryEff p.val)
def execLaneCheckFail (p : GPort) (lane : Fin 9) (s : State) : Host.Outcome State Fault Refusal :=
  .next (s.laneFailEff p.val lane.val)
def execSwapDone (p : GPort) (s : State) : Host.Outcome State Fault Refusal := .next (s.swapDoneEff p.val)
def execPartnerDeparted (p : GPort) (s : State) : Host.Outcome State Fault Refusal := .next (s.partnerDepartedEff p.val)
def execRemoteAccess (p : FPort) (jobId : W32) (write : Bool) (addr : W64) (length : W32) (data : List Byte) (s : State) :
    Host.Outcome State Fault Refusal := .next (s.remoteAccessEff p.val jobId write addr.toNat length.toNat data)
def execEthMessage (e : EPort) (remote : W16) (vc : Fin 6) (seq : W32) (landed : Option NiWrite) (s : State) :
    Host.Outcome State Fault Refusal := .next (s.ethMessageEff e.val remote.toNat vc.val seq.toNat landed)
def execQpOpen (remote : W16) (i : HelloInfo) (s : State) : Host.Outcome State Fault Refusal := .next (s.qpOpenEff remote.toNat i)
def execQpClose (remote : W16) (s : State) : Host.Outcome State Fault Refusal := .next (s.qpCloseEff remote.toNat)
def execCnpReceived (e : EPort) (remote : W16) (halvedWithin50us : Bool) (s : State) : Host.Outcome State Fault Refusal :=
  .next (s.cnpEff e.val remote.toNat halvedWithin50us)
def execRateRecover (e : EPort) (remote : W16) (s : State) : Host.Outcome State Fault Refusal :=
  .next (s.rateRecoverEff e.val remote.toNat)
def execEthLinkDown (e : EPort) (s : State) : Host.Outcome State Fault Refusal := .next (s.ethLinkDownEff e.val)
def execEthLinkUp (e : EPort) (s : State) : Host.Outcome State Fault Refusal := .next (s.ethLinkUpEff e.val)
def execEthRetransmit (e : EPort) (remote : W16) (s : State) : Host.Outcome State Fault Refusal :=
  .next (s.ethRetransmitEff e.val remote.toNat)
def execPfcPause (e : EPort) (priority : Fin 8) (paused : Bool) (s : State) : Host.Outcome State Fault Refusal :=
  .next (s.pfcPauseEff e.val priority.val paused)
def execNeighbourSolicitation (e : EPort) (target : BitVec 128) (s : State) : Host.Outcome State Fault Refusal :=
  .next (s.solicitEff e.val target)
def execPortReset (p : FPort) (s : State) : Host.Outcome State Fault Refusal := .next (s.portResetEff p.val)

end Sys2Proof.Machine
end

