-- ==== Sys2Proof/Machine/HostIf.lean ====
section
/-! DEFINITION. The host interface engine (spec/15_host_attachment.md): doorbells, descriptors and their checks,
TRANSFER, SOLVER, EXPORT (with spec/13, R369), POWER and ECHO, and the departure, return and adoption of a port. -/

namespace Sys2Proof.Machine

/-- KIND as the descriptor holds it. -/
def descKind (kind : Nat) (d : DescHead) : Nat :=
  match d.badKind with | none => kind | some i => if i.val = 0 then 0 else i.val + 6

/-- HEADER of a descriptor (R405). -/
def descHeader (kind : Nat) (d : DescHead) : W32 :=
  BitVec.ofNat 32 (descKind kind d + (if d.fence then 16 else 0) + d.rsv.toNat * 32)

/-- What the checks of R407 say of a descriptor's guard, KIND and reserved bytes. -/
def descCode (kind : Nat) (d : DescHead) : Option W16 :=
  if d.nhdr ≠ ~~~(descHeader kind d) then some 0x1101
  else if d.badKind.isSome ∨ d.rsv ≠ 0 ∨ d.bodyRsv then some 0x1102
  else none

namespace State

/-! ### Doorbells (R402, R403) -/

/-- The host interface engine works: in Run and Idle, and while a sequence is in progress. -/
def hifOn (s : State) : Bool := !s.power.held && !s.power.off && s.power.st != 2 && s.power.st != 3

def portLive (s : State) (p : Nat) : Bool := (s.port p).up && !(s.port p).departed

/-- RING_OVERRUN, an event that names a ring (R403). -/
def overrun (p n : Nat) (s : State) : State :=
  let s := (s.mapRing p n (fun r => { r with stopped := true })).log 0x1103 0x700 0 (BitVec.ofNat 64 n)
  [0, 1].foldl (fun st q => if st.cqEnabled q 0 then st.postEvent q 0 (entryBytes 0x1103 0 0 n 0 0 0 0) else st) s

/-- A ring's doorbell record is read: CQ_HEAD frees entries, and SQ_TAIL shows new descriptors or an overrun. -/
def readDoorbell (p n : Nat) (tail head : W32) (s : State) : State :=
  let s := if s.cqEnabled p n then (s.mapRing p n (fun r => { r with cqHead := head })).drainHeld p n else s
  let r := s.ring p n
  if s.flag (Regs.sqCfg p n) 0 ∧ !r.stopped then
    if 2 ^ s.field (Regs.sqCfg p n) 4 1 < (tail - r.sqHead).toNat then s.overrun p n
    else
      let s := s.mapRing p n (fun r => { r with sqTail := tail })
      if tail ≠ r.sqHead then s.wakeBy 1 else s
  else s

def polls (s : State) (p n : Nat) : Bool :=
  s.portLive p && !s.power.held && !s.power.off && s.power.st != 3
    && (s.flag (Regs.sqCfg p n) 0 || s.cqEnabled p n)

def doorbellEff (p n : Nat) (tail head : W32) (s : State) : State :=
  if s.polls p n then s.readDoorbell p n tail head else s

/-- A write to the nudge window: a wake source in every low-power state, and a poll of the ring. -/
def nudgeEff (p off : Nat) (tail head : W32) (s : State) : State :=
  if s.portLive p then (s.doorbellEff p (off / 64) tail head).wakeBy 2 else s

def coalesceEff (p n : Nat) (s : State) : State :=
  if (s.ring p n).unsent ≠ 0 ∧ s.cqEnabled p n ∧ s.portLive p then s.signalCq p n true else s

/-! ### Consuming a descriptor (R403 to R407) -/

/-- The descriptor at the front of a ring can be consumed: the ring is in service and holds one, its completion ring has
`need` free entries, and a FENCE finds every earlier descriptor of the ring complete. -/
def canConsume (s : State) (d : DescHead) (need : Nat) : Bool :=
  let p := d.port.val
  let n := d.ring.val
  let r := s.ring p n
  s.hifOn && s.portLive p && s.flag (Regs.sqCfg p n) 0 && !r.stopped && r.sqHead != r.sqTail
    && decide (need ≤ s.cqFree p (s.boundCq p n)) && !(d.fence && r.openDescs != 0)

/-- The descriptor is consumed: SQ_HEAD moves on and is written, and `need` completion entries are reserved. -/
def consume (d : DescHead) (need : Nat) (s : State) : State :=
  let p := d.port.val
  let n := d.ring.val
  let h := (s.ring p n).sqHead + 1
  let s := s.mapRing p n (fun r => { r with sqHead := h, openDescs := r.openDescs + 1 })
  let s := s.mapRing p (s.boundCq p n) (fun r => { r with reserved := r.reserved + need })
  let s := s.quietRestart (fun j => j.port == p)
  s.hostWr p (s.regNat (Regs.ringDb p n) + 32) (leBytes 4 h.toNat ++ List.replicate 28 0)

/-- A FINAL entry for the descriptor at ring index `i`; a job descriptor gives back the place of its other entry. -/
def finishDesc (d : DescHead) (kind i : Nat) (code : W16) (aux detail : Nat) (h : W32) (s : State) : State :=
  let s := if kind = 1 then s.mapRing d.port.val (s.boundCq d.port.val d.ring.val) (fun r => { r with reserved := r.reserved - 1 }) else s
  s.completeDesc d.port.val d.ring.val i kind 2 code aux detail h

/-- One descriptor of a kind: consumed, checked, and carried out by `f` with its ring index. `waits` holds it back. -/
def takeDesc (kind : Nat) (d : DescHead) (waits fieldsOk : Bool) (f : Nat → State → State) (s : State) : State :=
  let need := if descKind kind d = 1 then 2 else 1
  if !s.canConsume d need then s
  else
    let i := (s.ring d.port.val d.ring.val).sqHead.toNat
    match descCode kind d with
    | some c => (s.consume d need).finishDesc d (descKind kind d) i c 0 0 0
    | none =>
      if !fieldsOk then (s.consume d need).finishDesc d kind i 0x1102 0 0 0
      else if waits then s
      else f i (s.consume d need)

/-- A live job that a descriptor of port `p` may name (R407, R409). -/
def jobFor (s : State) (p : Nat) (h : W32) : Option Job :=
  match s.findJob h with
  | some j => if j.live && s.ownsPort p j.port then some j else none
  | none => none

/-! ### ECHO, POWER, SOLVER (R405, R410, R433) -/

def echoEff (d : DescHead) (s : State) : State := s.takeDesc 5 d false true (fun i s => s.finishDesc d 5 i 0 0 0 0)

def powerEff (d : DescHead) (target : Nat) (wakeAt : W64) (s : State) : State :=
  s.takeDesc 5 d false (decide (target ≤ 3)) (fun i s =>
    s.requestPower ⟨target, false, if wakeAt = 0 then none else some wakeAt, some (d.port.val, d.ring.val, i)⟩)

def solverDescEff (d : DescHead) (h : W32) (r : Nat) (s : State) : State :=
  s.takeDesc 3 d false true (fun i s =>
    match s.jobFor d.port.val h with
    | none => s.finishDesc d 3 i 0x1102 0 0 h
    | some j =>
      if j.image.solverCount ≤ r ∨ s.refreshLaunch j r ≠ 1 then s.finishDesc d 3 i 0x1102 0 0 h
      else
        let es := (List.range 4).flatMap (fun x => s.refreshOn j r x)
        (es.foldl (fun st e => st.launchOn h e r) s).finishDesc d 3 i 0 0 0 h)

/-! ### TRANSFER (R409) -/

def onChip (p : Place) : Bool :=
  match p with | .scratch _ _ | .tbuf _ _ | .shared _ _ | .staging _ _ => true | _ => false

/-- Every piece of MOD lies on chip or in the stacks, an alias extent starts on a word (R141), and FLAG is 0 or names an aligned flag word on chip. -/
def transferPlaces (a n flag : Nat) : Bool :=
  (windowOf a == 0 || a % 4 == 0) && (pieces a n).all (fun x => onChip (placeOf x.1) || (match placeOf x.1 with | .stack _ _ => true | _ => false))
    && (flag == 0 || (decide (flag < 2 ^ 48) && flag % 4 == 0
      && (match placeOf flag with | .scratch _ _ | .shared _ _ | .staging _ _ => true | _ => false)))

/-- Check of one piece: on chip as a stealing non-owner within the job, in the stacks by the region of KIND 0 and its
tag. -/
def transferPiece (s : State) (j : Option Job) (tag : Nat) (write : Bool) (a n : Nat) : Acc :=
  match placeOf a with
  | .stack _ _ =>
    match s.regionOf a n with
    | some r =>
      if s.field (Regs.rgnLo r) 3 1 ≠ 0 then .bad 0x3201
      else (s.regionAcc tag false write a n).andThen ((s.channelAcc a n).andThen
        (if !write && s.poisonStack a n then .bad 0x3211 else .ok))
    | none => .bad 0x3201
  | _ =>
    match j with
    | none => .bad 0x3101
    | some j => s.pieceAcc j ⟨0, 0⟩ write true a n

/-- Check of the whole extent and of FLAG, with the address that fails. -/
def transferAcc (s : State) (j : Option Job) (tag : Nat) (write : Bool) (a n flag : Nat) : Acc × Nat :=
  let all := (pieces a n).foldl (fun (acc : Acc × Nat) x =>
    match acc.1 with
    | .bad _ => acc
    | _ => (acc.1.andThen (s.transferPiece j tag write x.1 x.2), x.1)) (.ok, a)
  match all.1 with
  | .bad _ => all
  | _ =>
    if flag = 0 then all
    else match j with
      | none => (.bad 0x3101, flag)
      | some j => (all.1.andThen (s.pieceAcc j ⟨0, 0⟩ true false flag 4), flag)

/-- The fields of a transfer in range. -/
def transferFieldsOk (a n dir flag : Nat) : Bool :=
  decide (64 ≤ n) && decide (n ≤ 2 ^ 31) && n % 64 == 0 && decide (dir ≤ 1) && decide (a + n ≤ 2 ^ 48) && transferPlaces a n flag

/-- The check of a transfer: under its job's tag where it names one, or its own tag. -/
def transferVerdict (s : State) (p : Nat) (h : W32) (tag : Nat) (write : Bool) (a n flag : Nat) : Acc × Nat :=
  let j := if h = 0 then none else s.jobFor p h
  if h ≠ 0 ∧ j.isNone ∧ !onChip (placeOf a) then (.bad 0x3201, a)
  else s.transferAcc j (match j with | some j => j.block.tag.toNat | none => tag) write a n flag

def transferEff (d : DescHead) (host a : Nat) (n dir tag : Nat) (h : W32) (bitsV : W32) (flag : Nat) (data : List Byte)
    (s : State) : State :=
  let p := d.port.val
  let ok := transferFieldsOk a n dir flag
  let acc := s.transferVerdict p h tag (dir == 0) a n flag
  let waits := ok && acc.1 == .wait && s.canConsume d 1 && (descCode 2 d).isNone
  let t := s.takeDesc 2 d waits ok (fun i s =>
    match acc with
    | (.bad c, x) => (s.accessFault c x ⟨0, 0⟩).finishDesc d 2 i c 0 0 h
    | _ =>
      let s := if dir = 0 then
          let s := s.hostWr p host (data.take n)
          s.save a (s.hostRd p host n)
        else s.hostWr p host (s.load a n)
      let s := if flag = 0 then s else s.signalAct flag 0 bitsV.toNat
      s.finishDesc d 2 i 0 0 0 h)
  if waits then t.wakeFor a else t

/-! ### EXPORT (R369, R410) -/

/-- The export waits: the record is OPEN and the job that opened it is running (R369). -/
def exportWaits (s : State) (r : Nat) : Bool :=
  s.recOpen r && (match s.openEntry r with
    | some o => (match s.findJob o.job with | some j => j.runs | none => false)
    | none => false)

/-- The extents of a shard's payload in order: weights, then the codes and scales of the moments the rule keeps. -/
def payloadExtents (p : Snap) : List (Nat × Nat) :=
  [(p.w, p.nblk * 4096)]
    ++ (if hdrM1 p.hdr then [(p.m1, p.nblk * 2048), (p.m1s, p.nblk * 128)] else [])
    ++ (if hdrM2 p.hdr then [(p.m2, p.nblk * 2048), (p.m2s, p.nblk * 128)] else [])

/-- The 128-byte header. TENSOR, the coordinates and LAYOUT stand in no record that an export names: free values. -/
def exportHeader (p : Snap) (gen tok : Nat) (payload : List Byte) : List Byte :=
  let free := fun i => leBytes 4 (Config.freeWord tok i).toNat
  leBytes 4 0x57534844 ++ leBytes 2 1 ++ leBytes 2 ((if hdrM1 p.hdr then 1 else 0) + (if hdrM2 p.hdr then 2 else 0))
    ++ free 0 ++ leBytes 2 p.shard ++ leBytes 2 gen ++ free 1 ++ free 2 ++ free 3 ++ free 4
    ++ leBytes 1 (hdrWfmt p.hdr) ++ leBytes 1 (if hdrM1 p.hdr then 0x0D else 0) ++ leBytes 1 (if hdrM2 p.hdr then 0x0E else 0)
    ++ [Config.freeByte tok 5] ++ leBytes 1 0 ++ leBytes 1 (hdrRule p.hdr) ++ leBytes 2 0
    ++ leBytes 4 p.nblk ++ leBytes 4 0 ++ leBytes 8 payload.length ++ digestBytes (Sha.digest payload)
    ++ List.replicate 40 0

/-- Read access of an export to an extent of the stacks by a tag. -/
def exportAcc (s : State) (tag a n : Nat) : Acc :=
  match placeOf a with
  | .stack _ _ => (pieces a n).foldl (fun acc x => acc.andThen ((s.regionAcc tag false false x.1 x.2).andThen
      ((s.channelAcc x.1 x.2).andThen (if s.poisonStack x.1 x.2 then .bad 0x3211 else .ok)))) .ok
  | _ => .bad 0x3202

/-- An export through a port: its code, its payload length ÷ 64, and the state. -/
def exportRun (p tag r host cap : Nat) (s : State) : W16 × Nat × State :=
  match s.exportAcc tag r 256 with
  | .bad c => (c, 0, s.stackFault c r)
  | _ =>
    if !s.recCurOk r then (0x8010, 0, s.logGuard (0x200 + r / 0xC00000000) 0 10 (s.recShard r))
    else if s.recOpen r then (0x5110, 0, s)
    else
      let snap := s.readSnap r
      let ext := payloadExtents snap
      match ext.foldl (fun (acc : Acc) x => acc.andThen (s.exportAcc tag x.1 x.2)) .ok with
      | .bad c => (c, 0, s.stackFault c snap.w)
      | _ =>
        let payload := ext.flatMap (fun x => s.load x.1 x.2)
        if cap < payload.length then (0x5111, 0, s)
        else if !s.portLive p then (0x1152, 0, s)
        else
          let tok := s.freeCtr
          let s := s.tick.hostWr p host (exportHeader snap (s.recGen r) tok payload ++ payload)
          (0, payload.length / 64, s.bump (Regs.obsUpdate (r / 0xC00000000 % 8) 14) (payload.length / 64))

def exportPlaceOk (r host : Nat) : Bool :=
  decide (r % 64 = 0) && decide (host % 4096 = 0) && (match placeOf r with | .stack _ _ => true | _ => false)

def exportDescEff (d : DescHead) (r host cap tag : Nat) (s : State) : State :=
  s.takeDesc 4 d (s.exportWaits r) (exportPlaceOk r host) (fun i s =>
    let s := s.jobs.foldl (fun st j => if j.block.tag.toNat = tag then st.loseReplay j.handle else st) s
    let (c, k, s) := s.exportRun d.port.val tag r host cap
    s.finishDesc d 4 i c 0 k 0)

/-- An EXPORT entry names an export descriptor of its job (R41, R408). One that fails is an event of the job. -/
def exportAct (e : SchedEntry) (s : State) : State :=
  match s.findJob e.owner with
  | none => s
  | some j =>
    match j.block.exports[e.flags]? with
    | none => s
    | some (r, host, cap, tag) =>
      let (c, _, s) := (s.loseReplay j.handle).exportRun j.port tag r host cap
      if c = 0 then s else s.jobEvent j.handle c 0 0

def exportEntryEff (d i : Nat) (s : State) : State :=
  match mfind s.sched (d * 1024 + i) with
  | none => s
  | some e =>
    let waits : Bool := match s.findJob e.owner with
      | some j => (match j.block.exports[e.flags]? with | some x => s.exportWaits x.1 | none => false)
      | none => false
    if e.guarded ∧ e.kind = 8 ∧ s.power.st = 0 ∧ waits then s else s.fireEntry d i 8 exportAct

/-! ### Departure, return and adoption (R415, R416) -/

def acc (s : State) (c : Nat) : AccordCtx := mget s.accord c ⟨0, 0, [], 0, 0, none⟩
def mapAcc (c : Nat) (f : AccordCtx → AccordCtx) (s : State) : State := { s with accord := mset s.accord c (f (s.acc c)) }

/-- A context rolls back: its staged writes and its pending entry are gone (R412, R414). -/
def rollback (c : Nat) (code : W16) (s : State) : State :=
  let s := s.mapAcc c (fun x => { x with st := 0, staged := [], failed := 0, lastCode := code })
  { s with sched := s.sched.filter (fun e => !(e.1 / 1024 == 4 && e.2.kind == 2 && bits e.2.target.toNat 17 16 == c)) }

/-- Port `p` departs: its rings stop, what falls due is held, its Accord context rolls back, and the other port is
told. -/
def departEff (p : Nat) (down : Bool) (s : State) : State :=
  if !s.portLive p then s
  else
    let mine := s.host.rings.filter (fun c => c.1 / 64 == p)
    let held := mine.flatMap (fun c => c.2.held.map (fun e => (c.1 % 64, e)))
    let s : State := { s with host := { s.host with rings := s.host.rings.map (fun (c : Nat × Ring) =>
      if c.1 / 64 = p then (c.1, { c.2 with stopped := true, held := [] }) else c) } }
    let s := s.mapPort p (fun q => { q with up := if down then false else q.up, departed := true, held := q.held ++ held })
    let s := if (s.acc p).st = 0 then s else s.rollback p (s.acc p).lastCode
    let s := s.log 0x1160 0x700 0 (BitVec.ofNat 64 p)
    if s.cqEnabled (1 - p) 0 then s.postEvent (1 - p) 0 (entryBytes 0x1160 0 0 0 0 p 0 0) else s

/-- What belongs to a departed port takes a number of its own, so that the port can come up at reset. -/
def moveRings (p k : Nat) (s : State) : State :=
  let moved := fun (q : Nat) => if q = p then k else q
  let req := fun (r : PwrReq) => { r with from_ := r.from_.map (fun x => (moved x.1, x.2)) }
  { s with
    host := { s.host with
      ports := (s.host.ports.map (fun (c : Nat × HostPort) => (moved c.1, { c.2 with adopter := c.2.adopter.map (fun x => (moved x.1, x.2)) })))
      rings := s.host.rings.map (fun (c : Nat × Ring) => (moved (c.1 / 64) * 64 + c.1 % 64, c.2)) }
    jobs := s.jobs.map (fun (j : Job) => { j with
      port := moved j.port, quenchers := j.quenchers.map (fun x => (moved x.1, x.2)) })
    images := s.images.map (fun (r : Resident) => { r with evicting := r.evicting.map (fun x => (moved x.1, x.2)) })
    power := { s.power with queued := s.power.queued.map req, inProgress := s.power.inProgress.map req } }

/-- The number that a departed port's holdings take: p + 2, p + 4 … -/
def oldPort (s : State) (p : Nat) : Nat :=
  (((List.range (s.host.ports.length + 1)).map (fun k => p + 2 * (k + 1))).find? (fun k => (mfind s.host.ports k).isNone)).getD (p + 2)

def portReturnsEff (p : Nat) (speed : BitVec 2) (width : BitVec 5) (s : State) : State :=
  if s.portLive p ∨ s.power.off then s
  else
    let s := if (s.port p).departed then (s.mapPort p (fun q => { q with up := false })).moveRings p (s.oldPort p) else s
    let s := s.dropRegs (fun o => inBlock (Regs.hifPort p) 0x2000 o)
    { s with host := { s.host with ports := mset s.host.ports p { HostPort.fresh with up := true, speed := speed, width := width } } }

/-- The holdings of port `src` that can be adopted: the port's own while it is departed, and what it left when it
returned. -/
def adoptable (s : State) (src : Nat) : List Nat :=
  (s.host.ports.filter (fun c => c.1 % 2 == src && c.2.departed && c.2.adopter.isNone)).map (fun c => c.1)

def reservedOf (s : State) (p : Nat) : Nat := ((s.host.rings.filter (fun c => c.1 / 64 == p)).map (fun c => c.2.reserved)).sum

/-- The checks of R416 on an adoption by port `q` onto completion ring `cq`. -/
def adoptOk (s : State) (q src cq : Nat) : Bool :=
  let l := s.adoptable src
  !l.isEmpty && s.portLive q && s.cqEnabled q cq
    && decide ((l.map (fun k => (s.port k).held.length + s.reservedOf k)).sum ≤ s.cqFree q cq)

def adoptEff (q src cq : Nat) (s : State) : State :=
  let s := (s.adoptable src).foldl (fun st k =>
    let held := (st.port k).held
    let res := st.reservedOf k
    let st := { st with host := { st.host with rings := st.host.rings.map (fun (c : Nat × Ring) =>
      if c.1 / 64 = k then (c.1, { c.2 with reserved := 0 }) else c) } }
    let st := st.mapPort k (fun x => { x with adopter := some (q, cq), adopted := true, held := [] })
    let st := st.mapRing q cq (fun r => { r with reserved := r.reserved + res })
    held.foldl (fun st e => st.writeEntry q cq e.2) st) s
  (s.log 0x1161 0x700 0 0).postEvent q cq (entryBytes 0x1161 0 0 0 0 0 0 0)

/-! ### Reads of host memory (R399, R415) -/

/-- What is left of a read once `n` bytes from `a` on have come. -/
def restOf (p a n : Nat) (r : HostRead) : Option HostRead :=
  if r.port = p ∧ r.addr = a ∧ 0 < n then
    if r.bytes ≤ n then none else some { r with addr := a + n, bytes := r.bytes - n }
  else some r

def hostReadEff (p a : Nat) (ok : Bool) (data : List Byte) (third : Bool) (s : State) : State :=
  let mine := s.host.reads.filter (fun r => r.port == p && r.addr == a)
  if mine.isEmpty then s
  else if !ok then
    let ks := (mine.map (fun r => r.thread)).eraseDups
    let s := { s with host := { s.host with reads := s.host.reads.filter (fun r => !ks.contains r.thread) } }
    let s := ks.foldl (fun st k => if (st.thread k).st = .waitData then st.haltKey k 0x1152 else st) s
    let s := s.mapPort p (fun q => { q with errors := q.errors + 1 })
    if third then s.departEff p false else s
  else
    let s := s.hostWr p a data
    let s := { s with host := { s.host with reads := s.host.reads.filterMap (restOf p a data.length) } }
    ((mine.map (fun r => r.thread)).eraseDups).foldl (fun st k =>
      if !(st.host.reads.any (fun r => r.thread == k)) ∧ (st.thread k).st = .waitData then
        (st.mapThread k (fun t => { t with hostDone := true })).fetchNext k else st) s

/-! ### Ring registers (R418, R419, R420) -/

/-- A write of SQ_CFG that R418 does not discard. -/
def sqCfgEff (p n v : Nat) (s : State) : State :=
  let o := Regs.sqCfg p n
  let v := v &&& 0x7FF
  let old := s.regNat o
  if bits v 4 1 < 6 ∨ 16 < bits v 4 1 ∨ (bit old 0 ∧ bits v 10 1 ≠ bits old 10 1) then s
  else
    let s := s.setRegNat o v
    if bit v 0 ∧ !bit old 0 then s.mapRing p n (fun r => { r with sqHead := 0, sqTail := 0, stopped := false }) else s

/-- A write of CQ_CFG: setting EN starts the ring at index 0 with what was held. -/
def cqCfgEff (p n v : Nat) (s : State) : State :=
  let o := Regs.cqCfg p n
  let v := v % 2 ^ 32
  let old := s.regNat o
  if bits v 4 1 < 6 ∨ 16 < bits v 4 1 ∨ (bit old 0 ∧ bits v 10 1 ≠ bits old 10 1) then s
  else
    let s := s.setRegNat o v
    if bit v 0 ∧ !bit old 0 then (s.mapRing p n (fun r => { r with cqTail := 0, cqHead := 0, unsent := 0 })).drainHeld p n else s

def ringStatusValue (s : State) (p n : Nat) : Nat :=
  let r := s.ring p n
  r.sqHead.toNat % 65536 + r.cqTail.toNat % 65536 * 65536 + (if r.stopped then 2 ^ 32 else 0) + r.lost % 65536 * 2 ^ 48

def portStatusHif (s : State) (p : Nat) : Nat :=
  let q := s.port p
  (if q.up then 1 else 0) + (if q.departed then 2 else 0) + q.speed.toNat * 4 + q.width.toNat * 16 + (if q.adopted then 512 else 0)

end State

def execDoorbellPoll (p : HPort) (ring : Fin 64) (sqTail cqHead : W32) (s : State) : Host.Outcome State Fault Refusal :=
  .next (s.doorbellEff p.val ring.val sqTail cqHead)
def execNudge (p : HPort) (offset : BitVec 12) (sqTail cqHead : W32) (s : State) : Host.Outcome State Fault Refusal :=
  .next (s.nudgeEff p.val offset.toNat sqTail cqHead)
def execCoalesceTimeout (p : HPort) (cq : Fin 64) (s : State) : Host.Outcome State Fault Refusal :=
  .next (s.coalesceEff p.val cq.val)
def execEcho (d : DescHead) (s : State) : Host.Outcome State Fault Refusal := .next (s.echoEff d)
def execPower (d : DescHead) (target : BitVec 8) (wakeAt : W64) (s : State) : Host.Outcome State Fault Refusal :=
  .next (s.powerEff d target.toNat wakeAt)
def execSolver (d : DescHead) (handle : W32) (refresh : W16) (s : State) : Host.Outcome State Fault Refusal :=
  .next (s.solverDescEff d handle refresh.toNat)
def execTransfer (d : DescHead) (host mod : W64) (bytes : W32) (dir : BitVec 8) (tag : W16) (handle flagBits : W32) (flag : W64)
    (data : List Byte) (s : State) : Host.Outcome State Fault Refusal :=
  .next (s.transferEff d host.toNat mod.toNat bytes.toNat dir.toNat tag.toNat handle flagBits flag.toNat data)
def execExportDesc (d : DescHead) (r host cap : W64) (tag : W16) (s : State) : Host.Outcome State Fault Refusal :=
  .next (s.exportDescEff d r.toNat host.toNat cap.toNat tag.toNat)
def execExportEntry (d : Die) (i : Fin 1024) (s : State) : Host.Outcome State Fault Refusal := .next (s.exportEntryEff d.val i.val)
def execHostDeparted (p : HPort) (cause : DepartCause) (s : State) : Host.Outcome State Fault Refusal :=
  .next (s.departEff p.val (cause != .hostErrors))
def execHostPortReturns (p : HPort) (speed : BitVec 2) (width : BitVec 5) (s : State) : Host.Outcome State Fault Refusal :=
  .next (s.portReturnsEff p.val speed width)
def execHostReadCompletion (p : HPort) (addr : W64) (ok : Bool) (data : List Byte) (thirdErrorIn10ms : Bool) (s : State) :
    Host.Outcome State Fault Refusal := .next (s.hostReadEff p.val addr.toNat ok data thirdErrorIn10ms)

end Sys2Proof.Machine
end

