-- ==== Sys2Proof/Machine/Vector.lean ====
section
/-! DEFINITION. The vector engine (spec/08_vector_engine.md): operand fields (R215, R216), elementwise commands
(R220 to R222), reductions (R223 to R225), moves (R226, R227) and scalar commands (R228). -/

namespace Sys2Proof.Machine
open Sys2Proof.Num

/-! ### Operands (R215 to R219) -/

/-- An operand field (R215). -/
structure VOp where
  loc : Nat
  mode : Nat
  rsv : Bool
deriving DecidableEq, Repr

def vopOf (w : W16) : VOp := ⟨bits w.toNat 11 0, bits w.toNat 14 12, bit w.toNat 15⟩

/-- The field is legal by itself. -/
def VOp.ok (o : VOp) : Bool :=
  !o.rsv && decide (o.mode ≤ 4) && !(o.mode == 1 && decide (8 ≤ o.loc)) && !(o.mode == 2 && o.loc != 0)

/-- The mode reads a tile buffer. -/
def VOp.inBuffer (o : VOp) : Bool := o.mode == 0 || o.mode == 3 || o.mode == 4

/-- The R101 code and the bytes of a 2-bit format code (R217). -/
def vecFmt (c : Nat) : Nat := [0x00, 0x01, 0x02, 0x0C].getD c 0
def vecBytes (c : Nat) : Nat := if c = 1 ∨ c = 2 then 2 else 4

/-- Elements that an operand names in a command of `count` elements. -/
def VOp.elems (o : VOp) (count rowlen : Nat) : Nat :=
  if o.mode = 3 then ceilDiv count (max 1 rowlen) else if o.mode = 4 then rowlen else count

/-- Offset and bytes of an operand's extent in the tile buffers. -/
def VOp.extent (o : VOp) (fmt count rowlen : Nat) : Nat × Nat := (o.loc * 64, o.elems count rowlen * vecBytes fmt)

/-- Index of the element that operand mode gives to element i (R216). -/
def VOp.index (o : VOp) (rowlen i : Nat) : Nat := if o.mode = 3 then i / max 1 rowlen else if o.mode = 4 then i % max 1 rowlen else i

/-- The operand shapes of a VE_OP operation: how many sources it has, or none where the op is reserved; whether
it takes floating point and INT32 (R221). -/
def veOpShape (op : Nat) : Option (Nat × Bool × Bool) :=
  if op = 0 then some (1, true, true)
  else if op ≤ 3 then some (2, true, false)
  else if op = 4 then some (3, true, false)
  else if op = 5 ∨ op = 6 then some (2, true, true)
  else if op = 7 ∨ op = 8 then some (1, true, true)
  else if op ≤ 0xB then some (2, true, true)
  else if op = 0xC then some (3, true, true)
  else if 0x10 ≤ op ∧ op ≤ 0x14 then some (1, true, false)
  else if 0x20 ≤ op ∧ op ≤ 0x27 then some (2, false, true)
  else none

/-- A vector command with its sources: format codes beside operand fields. -/
structure VCmd where
  op : Nat
  count : Nat
  rowlen : Nat
  d : VOp
  fd : Nat
  srcs : List (VOp × Nat)
  imm : W32
deriving DecidableEq, Repr

def VCmd.int (c : VCmd) : Bool := c.fd == 3

/-- Largest COUNT (R218): 16-bit operands throughout run 1,024 to a micro-operation. -/
def VCmd.maxCount (c : VCmd) (red : Bool) : Nat :=
  if (red || vecBytes c.fd == 2) && c.srcs.all (fun x => !x.1.inBuffer || vecBytes x.2 == 2) then 32768 else 16384

/-- D overlaps no source but one it coincides with exactly (R219). -/
def VCmd.overlapOk (c : VCmd) (dn : Nat) : Bool :=
  c.d.mode != 0 || c.srcs.all (fun x =>
    !x.1.inBuffer ||
      (let e := x.1.extent x.2 c.count c.rowlen
       !spansMeet (c.d.loc * 64) dn e.1 e.2 || (x.1.mode == 0 && e.1 == c.d.loc * 64 && e.2 == dn)))

/-- The checks common to VE_OP and VE_RED (R216 to R219); `dn` is the bytes of D's extent. -/
def VCmd.ok (c : VCmd) (red : Bool) (dn : Nat) : Bool :=
  let named := c.srcs.any (fun x => x.1.mode == 3 || x.1.mode == 4)
  decide (1 ≤ c.count) && decide (c.count ≤ c.maxCount red)
    && c.d.ok && c.srcs.all (fun x => x.1.ok)
    && (if named then decide (1 ≤ c.rowlen) && decide (c.rowlen ≤ 32768) else c.rowlen == 0)
    && (c.srcs.all (fun x => x.2 == 3) == c.int || red) && (c.int || c.srcs.all (fun x => x.2 != 3))
    && c.srcs.all (fun x => !x.1.inBuffer || (let e := x.1.extent x.2 c.count c.rowlen; decide (e.1 + e.2 ≤ 262144)))
    && (c.d.mode != 0 || decide (c.d.loc * 64 + dn ≤ 262144))
    && c.overlapOk dn

def veOpCmd (op fmt : BitVec 8) (count : Nat) (d a b c : W16) (rowlen : Nat) (imm : W32) : VCmd :=
  let f := fun i => bits fmt.toNat (2 * i + 1) (2 * i)
  let n := match veOpShape op.toNat with | some x => x.1 | none => 0
  ⟨op.toNat, count, rowlen, vopOf d, f 0, ([(vopOf a, f 1), (vopOf b, f 2), (vopOf c, f 3)]).take n, imm⟩

/-- VE_OP's checks (R219 to R221). -/
def veOpOk (op fmt : BitVec 8) (count : Nat) (d a b c : W16) (rowlen : Nat) (imm : W32) : Bool :=
  let x := veOpCmd op fmt count d a b c rowlen imm
  match veOpShape op.toNat with
  | none => false
  | some (n, fp, int) =>
    x.ok false (count * vecBytes x.fd) && x.d.mode == 0 && (if x.int then int else fp)
      && (n ≥ 2 || b == 0) && (n ≥ 3 || c == 0)

def veRedCmd (op fmt : BitVec 8) (count : Nat) (d a b : W16) : VCmd :=
  let f := fun i => bits fmt.toNat (2 * i + 1) (2 * i)
  ⟨op.toNat, count, 0, vopOf d, 0, ([(vopOf a, f 1), (vopOf b, f 2)]).take (if op = 2 then 2 else 1), 0⟩

/-- VE_RED's checks (R219, R223). -/
def veRedOk (op fmt : BitVec 8) (count : Nat) (d a b : W16) (seg : Nat) (flags : BitVec 8) : Bool :=
  let x := veRedCmd op fmt count d a b
  decide (op.toNat ≤ 5) && bits fmt.toNat 1 0 == 0 && bits fmt.toNat 7 6 == 0 && (op == 2 || b == 0)
    && decide (bits fmt.toNat 5 4 ≤ 2)
    && (List.range 16).any (fun k => seg == 2 ^ k) && count % max 1 seg == 0 && decide (flags.toNat ≤ 1)
    && x.srcs.all (fun s => s.1.mode == 0 && s.2 != 3)
    && (x.d.mode == 0 || (x.d.mode == 1 && count == seg))
    && x.ok true (count / max 1 seg * 4)

/-! ### What an operation computes -/

def bool32 (int b : Bool) : W32 := if b then (if int then 1 else one32) else 0

def signedLt (a b : W32) : Bool := decide (a.toInt < b.toInt)

/-- One element of a VE_OP (R221, R222). -/
def veCompute (op : Nat) (int : Bool) (tok idx : Nat) (a b c : W32) : W32 :=
  if int then
    match op with
    | 0x00 => a
    | 0x05 => if signedLt a b then b else a
    | 0x06 => if signedLt b a then b else a
    | 0x07 => 0 - a
    | 0x08 => if signedLt a 0 then 0 - a else a
    | 0x09 => bool32 true (signedLt b a)
    | 0x0A => bool32 true (!signedLt a b)
    | 0x0B => bool32 true (a == b)
    | 0x0C => if a ≠ 0 then b else c
    | 0x20 => a &&& b
    | 0x21 => a ||| b
    | 0x22 => a ^^^ b
    | 0x23 => a <<< (b.toNat % 32)
    | 0x24 => a >>> (b.toNat % 32)
    | 0x25 => a + b
    | 0x26 => a - b
    | _ => a * b
  else
    match op with
    | 0x00 => pass a
    | 0x01 => add tok idx a b
    | 0x02 => sub tok idx a b
    | 0x03 => mul tok idx a b
    | 0x04 => fma tok idx a b c
    | 0x05 => maxV a b
    | 0x06 => minV a b
    | 0x07 => negate (pass a)
    | 0x08 => if isNan32 a then nan32 else pass a &&& 0x7FFFFFFF
    | 0x09 => bool32 false (ltF (rd b) (rd a))
    | 0x0A => bool32 false (ltF (rd b) (rd a) || eqF (rd a) (rd b))
    | 0x0B => bool32 false (eqF (rd a) (rd b))
    | 0x0C => if eqF (rd a) .zero then pass c else pass b
    | 0x10 => exp tok idx a
    | 0x11 => log tok idx a
    | 0x12 => rcp tok idx a
    | 0x13 => rsqrt tok idx a
    | _ => tanh tok idx a

/-- Special-function cycles of a micro-operation of 512 elements (R221). -/
def sfuCycles (op : Nat) : Nat := if op = 0x10 ∨ op = 0x11 ∨ op = 0x14 then 4 else if op = 0x12 ∨ op = 0x13 then 2 else 0

/-- One segment of a reduction (R223 to R225). -/
def reduceSeg (op seg tok idx : Nat) (xs : List (W32 × W32)) : W32 :=
  let one := FVal.fin false 1 0
  let c := ceilDiv seg 512
  match op with
  | 0 => dot tok idx (9 + c) 0 (xs.map (fun x => (rd x.1, one)))
  | 1 => reduceDot tok idx (10 + c) (xs.map (fun x => (rd x.1, rd x.1)))
  | 2 => reduceDot tok idx (10 + c) (xs.map (fun x => (rd x.1, rd x.2)))
  | 3 => xs.tail.foldl (fun m x => maxV m x.1) (pass (xs.headD (0, 0)).1)
  | 4 => xs.tail.foldl (fun m x => minV m x.1) (pass (xs.headD (0, 0)).1)
  | _ =>
    let ab := fun (w : W32) => if isNan32 w then nan32 else pass w &&& 0x7FFFFFFF
    xs.tail.foldl (fun m x => maxV m (ab x.1)) (ab (xs.headD (0, 0)).1)

def reduceAcc (op tok idx : Nat) (old new : W32) : W32 :=
  if op ≤ 2 then accum tok idx old new else if op = 4 then minV old new else maxV old new

namespace State

/-- A tile-buffer extent meets a matrix command's hold, the tile's memory state and poison. -/
def bufferAcc (s : State) (j : Job) (tile : Nat) (write : Bool) (x : Nat × Nat) : Acc :=
  if x.2 = 0 then .ok else s.access j ⟨2, tile⟩ write false (tbufAddr tile x.1) x.2

/-- Value of a source operand at element i, as the 32-bit word it widens to (R216, R217). -/
def veSource (s : State) (t : ThreadId) (tile : Nat) (c : VCmd) (tok : Nat) (x : VOp × Nat) (i : Nat) : W32 :=
  match x.1.mode with
  | 1 => (s.thread t.key).sc.getD x.1.loc 0
  | 2 => c.imm
  | _ =>
    let n := vecBytes x.2
    let v := s.rdNat (tbufAddr tile (x.1.loc * 64 + x.1.index c.rowlen i * n)) n
    if n = 4 then BitVec.ofNat 32 v else toF32 tok 0 (decodeElem (vecFmt x.2) v 0)

/-- Extents that a command reads in the tile buffers. -/
def veReads (c : VCmd) : List (Nat × Nat) :=
  (c.srcs.filter (fun x => x.1.inBuffer)).map (fun x => x.1.extent x.2 c.count c.rowlen)

/-- What a command that stopped on a memory code was writing holds unspecified data (R232), where it may write at all: storage
of its job in banks that are ON, whoever owns them (DEDUCED, log 15). -/
def spoilRange (j : Job) (w : Who) (a n : Nat) (s : State) : State :=
  (pieces a n).foldl (fun st p => if s.pieceAcc j w true false p.1 p.2 == .ok then st.wrFree p.1 p.2 else st) s

/-- The same for a scalar register. -/
def spoilScalar (t : ThreadId) (i : Nat) (s : State) : State :=
  (s.mapThread t.key (fun x => { x with sc := x.sc.set i (Config.freeWord s.freeCtr i) })).tick

/-- What the accesses of a vector command meet: its reads, then its destination. -/
def buffersAcc (s : State) (j : Job) (tile : Nat) (reads : List (Nat × Nat)) (dst : Option (Nat × Nat)) : Acc :=
  (reads.foldl (fun a x => a.andThen (s.bufferAcc j tile false x)) Acc.ok).andThen
    (dst.toList.foldl (fun a x => a.andThen (s.bufferAcc j tile true x)) Acc.ok)

/-- A pending step of the tile's matrix engine holds one of the extents (R197). -/
def buffersHeld (s : State) (tile : Nat) (l : List (Nat × Nat)) : Bool :=
  l.any (fun x => s.meetsHeld tile (tbufAddr tile x.1, x.2))

/-- Run a vector command on buffers that are free and readable; otherwise wait or halt (R197, R230, R232), with `spoil` for
a destination outside the buffers. -/
def onBuffers (t : ThreadId) (j : Job) (reads : List (Nat × Nat)) (dst : Option (Nat × Nat)) (spoil : State → State)
    (f : Nat → State → State) (s : State) : State :=
  match t with
  | .tile tile _ =>
    if s.buffersHeld tile.val (reads ++ dst.toList) then s.hold t .waitUnit
    else
      match s.buffersAcc j tile.val reads dst with
      | .wait => (s.startWake tile.val).hold t .waitData
      | .bad c =>
        let s := match dst with
          | some d => s.spoilRange j ⟨2, tile.val⟩ (tbufAddr tile.val d.1) d.2
          | none => spoil s
        s.haltAccess t c (tbufAddr tile.val 0)
      | .ok => f tile.val s
  | _ => s

/-- An FP32 result in D's format, with what the rounding counts (R217, R222). -/
def veNarrow (fd tok idx : Nat) (v : W32) : List Byte × Counted :=
  if fd = 0 ∨ fd = 3 then (leBytes 4 v.toNat, .nothing)
  else
    let (code, k) := (if fd = 1 then bf16 else fp16).convert (.faithful (Config.freeBit tok idx)) (fp32.decode v.toNat)
    (leBytes 2 code, k)

/-- Value of source `k` of a command at element i; 0 where it has no such source. -/
def veOperand (s : State) (t : ThreadId) (tile : Nat) (x : VCmd) (tok k i : Nat) : W32 :=
  match x.srcs[k]? with | some y => s.veSource t tile x tok y i | none => 0

/-- The elements that a VE_OP writes, each with what its rounding counts (R216 to R222). -/
def veOut (s : State) (t : ThreadId) (tile : Nat) (x : VCmd) : List (List Byte × Counted) :=
  let tok := s.freeCtr
  (List.range x.count).map (fun i =>
    let src := fun k => s.veOperand t tile x tok k i
    veNarrow x.fd tok (8 * i + 7) (veCompute x.op x.int tok (8 * i) (src 0) (src 1) (src 2)))

/-- Events of one kind among them. -/
def veCount (k : Counted) (out : List (List Byte × Counted)) : Nat := (out.filter (fun y => y.2 == k)).length

/-- The word that a VE_RED gives for segment `g` where its destination holds `old` (R223 to R225). -/
def veSegment (s : State) (t : ThreadId) (tile : Nat) (x : VCmd) (seg : Nat) (acc : Bool) (g : Nat) (old : W32) : W32 :=
  let tok := s.freeCtr
  let v := reduceSeg x.op seg tok (8 * g) ((List.range seg).map (fun i =>
    (s.veOperand t tile x tok 0 (g * seg + i), s.veOperand t tile x tok 1 (g * seg + i))))
  if acc then reduceAcc x.op tok (8 * g + 4) old v else v

def veOpEff (t : ThreadId) (h : CmdHead) (op fmt : BitVec 8) (count : Nat) (d a b c : W16) (rowlen : Nat) (imm : W32)
    (s : State) : State :=
  s.issue t 0x20 2 h (veOpOk op fmt count d a b c rowlen imm) (fun _ j s =>
    let x := veOpCmd op fmt count d a b c rowlen imm
    let dst := (x.d.loc * 64, count * vecBytes x.fd)
    s.onBuffers t j (veReads x) (some dst) id (fun tile s =>
      let out := s.veOut t tile x
      let sat := veCount .saturated out
      let nan := veCount .nan out
      let groups := ceilDiv count (x.maxCount false / 32)
      let s := (s.save (tbufAddr tile dst.1) (out.flatMap (fun y => y.1))).tick
      let s := s.bump (Regs.obsTile tile 1 12) (groups * sfuCycles x.op * (x.maxCount false / 16384))
      (s.countNumeric (tile / 64) j.handle sat nan 0 0).finishNan t h j.handle nan false))

def veRedEff (t : ThreadId) (h : CmdHead) (op fmt : BitVec 8) (count : Nat) (d a b : W16) (seg : Nat) (flags : BitVec 8)
    (s : State) : State :=
  s.issue t 0x21 2 h (veRedOk op fmt count d a b seg flags) (fun _ j s =>
    let x := veRedCmd op fmt count d a b
    let n := count / max 1 seg
    let dst := (x.d.loc * 64, 4 * n)
    let acc := bit flags.toNat 0
    let inBuf := x.d.mode == 0
    s.onBuffers t j (veReads x ++ (if inBuf && acc then [dst] else [])) (if inBuf then some dst else none)
        (State.spoilScalar t x.d.loc) (fun tile s =>
      let vals := (List.range n).map (fun g =>
        s.veSegment t tile x seg acc g (if inBuf then BitVec.ofNat 32 (s.rdNat (tbufAddr tile (dst.1 + 4 * g)) 4)
          else (s.thread t.key).sc.getD x.d.loc 0))
      let s := s.bump (Regs.obsTile tile 1 13) (ceilDiv count 512)
      let s := if inBuf then s.save (tbufAddr tile dst.1) (vals.flatMap (fun (v : W32) => leBytes 4 v.toNat))
        else s.mapThread t.key (fun y => { y with sc := y.sc.set x.d.loc (vals.headD 0) })
      s.tick.finish t h 1))

/-! ### Moves and scalars (R226 to R228) -/

/-- An address that VE_LD, VE_ST, LOAD and STORE may name (R227). -/
def vePlaceOk (tile a n : Nat) : Bool :=
  (areaOf tile a == 0 || areaOf tile a == 1) && areaOf tile (a + n - 1) == areaOf tile a

def moveFieldsOk (addr : W64) (tb : Nat) (n : Nat) : Bool :=
  bits addr.toNat 63 52 == 0 && decide (tb < 4096) && n % 64 == 0 && decide (64 ≤ n) && decide (tb * 64 + n ≤ 262144)

/-- VE_LD and VE_ST (R226, R227). -/
def veMoveEff (op : Nat) (t : ThreadId) (h : CmdHead) (addr : W64) (tb n : Nat) (s : State) : State :=
  let load := op == 0x22
  s.issue t op 2 h (moveFieldsOk addr tb n) (fun th j s =>
    match t, resolveAddr t th.bases addr with
    | .tile tile _, some a =>
      if a % 64 ≠ 0 ∨ !vePlaceOk tile.val a n then s.haltThread t 0x1113
      else
        let buf := (tb * 64, n)
        if s.meetsHeld tile.val (tbufAddr tile.val buf.1, n) then s.hold t .waitUnit
        else
          match (s.access j ⟨2, tile.val⟩ (!load) true a n).andThen (s.bufferAcc j tile.val load buf) with
          | .wait => ((s.wakeFor a).wakeFor (tbufAddr tile.val 0)).hold t .waitData
          | .bad c =>
            (s.spoilRange j ⟨2, tile.val⟩ (if load then tbufAddr tile.val buf.1 else a) n).haltAccess t c a
          | .ok =>
            let s := if load then s.save (tbufAddr tile.val buf.1) (s.load a n)
              else s.teSave t.key false tile.val a (s.rd (tbufAddr tile.val buf.1) n)
            (s.bump (Regs.obsTile tile.val 1 14) (n / 64)).finish t h 1
    | _, _ => s.haltThread t 0x1113)

/-- A scalar operation (R228). -/
def scCompute (op : Nat) (int : Bool) (tok : Nat) (a b imm : W32) : W32 :=
  match op with
  | 0 => imm
  | 3 => if int then a + b else add tok 0 a b
  | 4 => if int then a - b else sub tok 0 a b
  | 5 => if int then a * b else mul tok 0 a b
  | 6 => if int then (if signedLt a b then b else a) else maxV a b
  | 7 => if int then (if signedLt b a then b else a) else minV a b
  | 8 => rcp tok 0 a
  | 9 => rsqrt tok 0 a
  | 10 => exp tok 0 a
  | _ => Num.log tok 0 a

def scFieldsOk (op fmt d a b : BitVec 8) (addr : W64) : Bool :=
  decide (op.toNat ≤ 11) && decide (fmt.toNat ≤ 1) && !(fmt == 1 && decide (8 ≤ op.toNat))
    && decide (d.toNat < 8) && decide (a.toNat < 8) && decide (b.toNat < 8)
    && (if op = 1 ∨ op = 2 then bits addr.toNat 63 52 == 0 else addr == 0)

def veScEff (t : ThreadId) (h : CmdHead) (op fmt d a b : BitVec 8) (addr : W64) (imm : W32) (s : State) : State :=
  s.issue t 0x24 2 h (scFieldsOk op fmt d a b addr) (fun th j s =>
    let ra := th.sc.getD a.toNat 0
    let rb := th.sc.getD b.toNat 0
    let put := fun (v : W32) (s : State) => s.mapThread t.key (fun x => { x with sc := x.sc.set d.toNat v })
    if op = 1 ∨ op = 2 then
      match t, resolveAddr t th.bases addr with
      | .tile tile _, some x =>
        if x % 4 ≠ 0 ∨ !vePlaceOk tile.val x 4 then s.haltThread t 0x1113
        else
          match s.access j ⟨2, tile.val⟩ (op == 2) true x 4 with
          | .wait => (s.wakeFor x).hold t .waitData
          | .bad c =>
            (if op = 1 then s.spoilScalar t d.toNat else s.spoilRange j ⟨2, tile.val⟩ x 4).haltAccess t c x
          | .ok =>
            if op = 1 then (put (BitVec.ofNat 32 (s.loadNat x 4)) s).finish t h 1
            else (s.teSave t.key false tile.val x (leBytes 4 ra.toNat)).finish t h 1
      | _, _ => s.haltThread t 0x1113
    else
      ((put (scCompute op.toNat (fmt == 1) s.freeCtr ra rb imm) s).tick).finish t h 1)

end State

def execVeOp (t : ThreadId) (h : CmdHead) (op fmt : BitVec 8) (count : W16) (d a b c : W16) (rowlen : W16) (imm : W32) (s : State) :
    Host.Outcome State Fault Refusal := .next (s.veOpEff t h op fmt count.toNat d a b c rowlen.toNat imm)
def execVeRed (t : ThreadId) (h : CmdHead) (op fmt : BitVec 8) (count : W16) (d a b : W16) (seg : W16) (flags : BitVec 8) (s : State) :
    Host.Outcome State Fault Refusal := .next (s.veRedEff t h op fmt count.toNat d a b seg.toNat flags)
def execVeLd (t : ThreadId) (h : CmdHead) (addr : W64) (tb : W16) (bytes : W32) (s : State) :
    Host.Outcome State Fault Refusal := .next (s.veMoveEff 0x22 t h addr tb.toNat bytes.toNat)
def execVeSt (t : ThreadId) (h : CmdHead) (addr : W64) (tb : W16) (bytes : W32) (s : State) :
    Host.Outcome State Fault Refusal := .next (s.veMoveEff 0x23 t h addr tb.toNat bytes.toNat)
def execVeSc (t : ThreadId) (h : CmdHead) (op fmt d a b : BitVec 8) (addr : W64) (imm : W32) (s : State) :
    Host.Outcome State Fault Refusal := .next (s.veScEff t h op fmt d a b addr imm)

end Sys2Proof.Machine
end

