-- ==== Sys2Proof/Machine/Walk.lean ====
section
/-! DEFINITION. What admission checks of a program image (R89, R90, step 4 of R91): its header, the walk over every
reachable command (R68, R79 to R81, R259), update descriptors (R348, R357), and the key table with its records
(R321, R323, R328 to R333). -/

namespace Sys2Proof.Machine
open Sys2Proof.Num

/-! ### The header (R89) -/

def Image.ofHeader (base : Nat) (b : List Byte) : Image :=
  let n := fun o k => leNat ((b.drop o).take k)
  { base := base, bytes := n 8 8, flags := n 6 2, digest := BitVec.ofNat 256 (leNat ((b.drop 16).take 32).reverse)
    tileCount := n 48 4, threadOff := n 52 4, threadCount := n 56 4, keyOff := n 60 4, keyCount := n 64 4
    solverOff := n 68 4, solverCount := n 72 4, timingOff := n 76 4, timingCount := n 80 4, schedOff := n 84 4
    schedCount := n 88 4, solverMask := n 92 2, updateMask := n 94 1 }

/-- The header checks of step 3: MAGIC, VERSION, sizes, reserved bytes, and every table inside the image. -/
def headerOk (b : List Byte) : Bool :=
  let i := Image.ofHeader 0 b
  let inside := fun off count size => count == 0 || decide (off + count * size ≤ i.bytes)
  leNat (b.take 4) == 0x57503258 && leNat ((b.drop 4).take 2) == 2 && decide (i.flags < 4)
    && i.bytes % 256 == 0 && decide (256 ≤ i.bytes) && decide (i.bytes ≤ 2 ^ 30)
    && decide (i.tileCount ≤ 256) && decide (i.threadCount ≤ 7232) && decide (i.solverCount ≤ 256)
    && (b.drop 95).all (fun x => x == 0) && b.length == 256
    && inside i.threadOff i.threadCount 16 && inside i.keyOff i.keyCount 64 && inside i.solverOff i.solverCount 32
    && inside i.timingOff i.timingCount 32 && inside i.schedOff i.schedCount 32

/-! ### Commands (R66 to R68, R79 to R82) -/

/-- A command of an image: its offset, HEADER and 32 bytes. -/
structure RawCmd where
  off : Nat
  bs : List Byte

def RawCmd.n (c : RawCmd) (o k : Nat) : Nat := leNat ((c.bs.drop o).take k)
def RawCmd.w16 (c : RawCmd) (o : Nat) : W16 := BitVec.ofNat 16 (c.n o 2)
def RawCmd.w32 (c : RawCmd) (o : Nat) : W32 := BitVec.ofNat 32 (c.n o 4)
def RawCmd.w64 (c : RawCmd) (o : Nat) : W64 := BitVec.ofNat 64 (c.n o 8)
def RawCmd.b8 (c : RawCmd) (o : Nat) : BitVec 8 := BitVec.ofNat 8 (c.n o 1)
def RawCmd.op (c : RawCmd) : Nat := c.n 0 1
def RawCmd.eng (c : RawCmd) : Nat := bits (c.n 0 4) 10 8
/-- Bytes from `a` to before `b` are reserved and 0. -/
def RawCmd.clear (c : RawCmd) (a b : Nat) : Bool := c.n a (b - a) == 0

/-- Guard, ENGINE, SEQ and the reserved bits of a HEADER (R68). -/
def RawCmd.headOk (c : RawCmd) (eng : Nat) : Bool :=
  let h := c.n 0 4
  c.n 4 4 == 2 ^ 32 - 1 - h && (c.eng == 0 || c.eng == eng) && bits h 15 12 == c.off / 32 % 16
    && !bit h 11 && bits h 31 17 == 0

/-- Address operands of BASE 0, 14 and 15 are known at admission. -/
def staticBase (a : W64) : Bool :=
  let b := bits a.toNat 51 48
  b == 0 || b == 14 || b == 15

def mmaBody (c : RawCmd) : MmaBody := ⟨c.w16 8, c.w16 10, c.w32 12, c.b8 16, c.b8 17, c.b8 18, c.w16 20, c.w16 22⟩

/-- The checks of R68 on a common command's body, with the location rules that BASE 0, 14 and 15 let admission see. -/
def commonOk (t : ThreadId) (size : Nat) (c : RawCmd) : Bool :=
  let a := c.w64 8
  let addr := (resolveAddr t [] a).isSome
  let place := fun (p : Nat → Bool) => !staticBase a || (match resolveAddr t [] a with | some x => p x | none => false)
  match c.op with
  | 0x00 | 0x01 | 0x09 => c.clear 8 32
  | 0x02 => addr && decide (c.n 20 1 < 32) && !(bit (c.n 20 1) 2 && bit (c.n 20 1) 1) && c.clear 21 22 && c.clear 24 32
      && place (State.flagPlaceOk t)
  | 0x03 => addr && decide (c.n 20 1 ≤ 2) && c.clear 21 32 && place (State.signalPlaceOk (c.n 20 1))
  | 0x04 =>
    let f := c.n 16 1
    decide (f ≤ 2) && !(f == 1 && c.n 10 6 != 0) && !(f == 2 && c.n 12 4 != 0) && c.clear 17 32
  | 0x05 => addr && decide (c.n 20 1 < 4) && c.n 21 1 != 0 && c.clear 22 32 && place (State.flagPlaceOk t)
  | 0x06 => decide (c.n 12 1 ≤ 1) && c.clear 13 16 && c.clear 24 32
  | 0x07 | 0x08 => addr && c.clear 20 32
  | 0x0A => c.n 8 4 != 0 && decide (1 ≤ c.n 12 2) && decide (c.n 12 2 ≤ 4095) && decide (c.n 14 1 ≤ 13) && c.clear 15 16 && c.clear 20 32
  | 0x0B => c.n 8 8 % 32 == 0 && decide (c.n 8 8 < size) && decide (c.n 8 8 < 2 ^ 30) && c.clear 16 32
  | 0x0C => c.clear 12 32
  | _ => false

namespace State

/-- The update descriptor that an update command names, as R348 and R357 require it. -/
def updateOk (s : State) (t : ThreadId) (j : Job) (c : RawCmd) : Bool :=
  let off := c.n 8 4
  let d := s.updDesc j off
  let u := match t with | .update u _ => u.val | _ => 0
  off % 64 == 0 && decide (off + 256 ≤ j.image.bytes) && d.ok
    && (s.snapOf t j u d [] 0).isSome
    && (match s.ownStack t u (d.n 24 8) 256 with | some a => a % 64 == 0 | none => false)

def blocksOk (s : State) (j : Job) (c : RawCmd) : Bool :=
  blockRangeOk (c.n 12 4) (c.n 16 2) ((s.updDesc j (c.n 8 4)).n 16 4)

/-- The checks of R68 on an engine command's body. -/
def engineOk (s : State) (t : ThreadId) (j : Job) (c : RawCmd) : Bool :=
  let size := j.image.bytes
  let bases := j.block.bases
  let recAt := c.n 8 4
  let data := fun n => s.rd (j.image.base + recAt) n
  let enf := bit j.image.flags 0 || c.n 18 1 == 0
  match t.engine, c.op with
  | 1, 0x20 => opndFieldsOk (c.w64 8) (c.b8 16) (c.b8 17) (c.b8 18) && (resolveAddr t bases (c.w64 8)).isSome && c.clear 19 20 && c.clear 24 32
  | 1, 0x21 => mmaFieldsOk (mmaBody c) && enf && decide (admissionCount (prodOf (mmaBody c)) ≤ 24576) && c.clear 19 20 && c.clear 24 32
  | 1, 0x22 | 1, 0x23 =>
    fusedFieldsOk (mmaBody c) (c.b8 24) (c.w32 28) && enf && decide (admissionCount (prodOf (mmaBody c)) ≤ 24576) && c.clear 19 20 && c.clear 25 28
  | 1, 0x24 => c.clear 8 32
  | 2, 0x20 => veOpOk (c.b8 8) (c.b8 9) (c.n 10 2) (c.w16 12) (c.w16 14) (c.w16 16) (c.w16 18) (c.n 20 2) (c.w32 24) && c.clear 22 24 && c.clear 28 32
  | 2, 0x21 => veRedOk (c.b8 8) (c.b8 9) (c.n 10 2) (c.w16 12) (c.w16 14) (c.w16 16) (c.n 18 2) (c.b8 20) && c.clear 21 32
  | 2, 0x22 | 2, 0x23 => State.moveFieldsOk (c.w64 8) (c.n 16 2) (c.n 20 4) && (resolveAddr t bases (c.w64 8)).isSome && c.clear 18 20 && c.clear 24 32
  | 2, 0x24 => State.scFieldsOk (c.b8 8) (c.b8 9) (c.b8 10) (c.b8 11) (c.b8 12) (c.w64 16) && c.clear 13 16 && c.clear 28 32
  | 3, 0x20 => recAt % 64 == 0 && decide (recAt + 64 ≤ size) && c.clear 12 32
      && (match readCopyRec t bases (data 64) with | some r => copyFieldsOk (data 64) r | none => false)
  | 3, 0x38 => recAt % 64 == 0 && decide (recAt + 128 ≤ size) && c.clear 12 32
      && (match readDispRec t bases (data 128) with | some r => dispFieldsOk r | none => false)
  | 3, 0x39 => recAt % 64 == 0 && decide (recAt + 64 ≤ size) && c.clear 12 32 && (readRowRec t bases (data 64)).isSome
  | 4, 0x20 | 4, 0x22 => decide (c.n 8 2 < j.image.solverCount) && c.clear 10 32
      && (match t with | .solver e _ => bit (s.refreshEngines j (c.n 8 2)) e.val | _ => false)
  | 4, 0x21 => recAt % 128 == 0 && decide (recAt + 128 ≤ size) && c.clear 12 32 && recGuard (data 128) && recStatic (data 128) size
      && (!bit (leNat ((data 128).take 4)) 10 || s.schedOk j.image.base size (leNat (((data 128).drop 64).take 4)))
  | 5, 0x20 => s.updateOk t j c && decide (c.n 12 1 ≤ 1) && c.clear 13 32
  | 5, 0x21 => s.updateOk t j c && s.blocksOk j c && c.clear 18 32
  | 5, 0x22 => s.updateOk t j c && c.clear 12 32
  | 5, 0x23 => s.updateOk t j c && s.blocksOk j c && hdrRule (s.updDesc j recAt).header == 4 && c.clear 18 32
  | 5, 0x24 => s.updateOk t j c && s.blocksOk j c && c.clear 20 32
  | _, _ => false

def commandOk (s : State) (t : ThreadId) (j : Job) (c : RawCmd) : Bool :=
  decide (c.off + 32 ≤ j.image.bytes) && c.headOk t.engine
    && (if c.eng = 0 then commonOk t j.image.bytes c else s.engineOk t j c)

/-! ### The walk (R79 to R81, R259) -/

/-- Where a walk stands: ends of the open loop bodies, inner first; ends of the SKIP ranges entered; the open SV_BEGIN
with the loops it stands in; commands visited. -/
structure Walking where
  loops : List Nat
  skips : List Nat
  pair : Option (Nat × List Nat)
  seen : List Nat

/-- Walk a list from an offset: none where it is good, or the offset of the command that breaks a rule. -/
def walk (fuel : Nat) (s : State) (t : ThreadId) (j : Job) (off : Nat) (w : Walking) : Option Nat :=
  match fuel with
  | 0 => some off
  | f + 1 =>
    let c : RawCmd := ⟨off, s.rd (j.image.base + off) 32⟩
    let next := off + 32
    let skips := w.skips.filter (fun e => decide (off < e))
    let inLoop : Nat → Bool := fun e => (match w.loops with | [] => true | l :: _ => decide (e ≤ l))
    if w.seen.contains off ∨ !s.commandOk t j c then some off
    else
      let w := { w with seen := off :: w.seen, skips := skips }
      let goOn := fun (w : Walking) => s.walk f t j next { w with loops := w.loops.dropWhile (fun e => decide (e ≤ next)) }
      if c.eng = 0 then
        match c.op with
        | 0x01 => if w.loops.isEmpty ∧ skips.isEmpty ∧ w.pair.isNone then none else some off
        | 0x0B => if w.loops.isEmpty ∧ skips.isEmpty then s.walk f t j (c.n 8 8) w else some off
        | 0x0A =>
          let e := next + 32 * c.n 12 2
          if inLoop e ∧ w.loops.length < 4 ∧ skips.all (fun x => decide (e ≤ x)) then goOn { w with loops := e :: w.loops } else some off
        | 0x05 =>
          let e := next + 32 * c.n 21 1
          if inLoop e then goOn { w with skips := e :: skips } else some off
        | _ => goOn w
      else if t.engine = 4 then
        match c.op, w.pair with
        | 0x20, none => goOn { w with pair := some (c.n 8 2, w.loops) }
        | 0x22, some (r, ls) => if r = c.n 8 2 ∧ ls = w.loops then goOn { w with pair := none } else some off
        | 0x21, some _ => goOn w
        | _, _ => some off
      else goOn w

/-! ### Thread records (R90) -/

/-- The thread that a record names, with its tile from the job's list; none where the record is bad. -/
def threadOf (j : Job) (kind thr unit : Nat) : Option ThreadId :=
  if kind = 1 ∧ unit < j.image.tileCount then
    if h : thr < 28 then some (.tile (Fin.ofNat 256 (j.block.tiles.getD unit 0)) ⟨thr, h⟩) else none
  else if kind = 2 ∧ unit < 16 ∧ bit j.image.solverMask unit then
    if h : thr < 2 then some (.solver (Fin.ofNat 16 unit) ⟨thr, h⟩) else none
  else if kind = 3 ∧ unit < 8 ∧ bit j.image.updateMask unit then
    if h : thr < 4 then some (.update (Fin.ofNat 8 unit) ⟨thr, h⟩) else none
  else none

/-- KIND, THREAD and UNIT of thread record `i`, whether its reserved bytes are 0, and its START. -/
def threadRec (s : State) (j : Job) (i : Nat) : (Nat × Nat × Nat) × Bool × Nat :=
  let a := j.image.base + j.image.threadOff + 16 * i
  ((s.rdNat a 1, s.rdNat (a + 1) 1, s.rdNat (a + 2) 2), s.rdNat (a + 4) 4 == 0, s.rdNat (a + 8) 8)

/-- Check the thread records from `i` on and walk their lists: the index and the offset of what fails. -/
def checkThreads (n : Nat) (s : State) (j : Job) (i : Nat) (before : List (Nat × Nat × Nat)) : Option (Nat × Nat) :=
  match n with
  | 0 => none
  | k + 1 =>
    let (x, clean, start) := s.threadRec j i
    match threadOf j x.1 x.2.1 x.2.2 with
    | none => some (i, start)
    | some t =>
      if !clean ∨ start % 32 ≠ 0 ∨ j.image.bytes < start + 32 ∨ before.contains x then some (i, start)
      else
        let s' := s.mapThread t.key (fun th => { th with bases := j.block.bases })
        match s'.walk (j.image.bytes / 32 + 1) t j start ⟨[], [], none, []⟩ with
        | some off => some (i, off)
        | none => s.checkThreads k j (i + 1) (x :: before)

/-! ### The key table (R321, R323, R327) -/

end State

/-- A location's form (R329). -/
def locForm (w : W64) : Bool :=
  if bit w.toNat 63 then bits w.toNat 62 21 == 0 else bits w.toNat 62 52 == 0 && bits w.toNat 51 48 != 15

/-- Conversion of a data action (R101, R115): both formats on the path, or the same. A source in an MX format is whole
blocks; what goes into one is padded (R107, R111). -/
def convOk (r : TrigRec) : Bool :=
  let n := elemsOf r.fmtIn r.bytes
  fmtDefined r.fmtIn && fmtDefined r.fmtOut && ((fmtPath r.fmtIn && fmtPath r.fmtOut) || r.fmtIn == r.fmtOut)
    && (!fmtMx r.fmtIn || n % 32 == 0)

/-- The static checks of a record (R328 to R330, R333, R337, R339). -/
def trigStatic (r : TrigRec) : Bool :=
  let h := r.header.toNat
  let a := r.action
  let data := a == 1 || a == 2 || a == 3 || a == 6
  let noEf := r.ef == 0
  r.nheader == ~~~r.header && bits h 31 14 == 0 && r.ctr % 4 == 0 && locForm r.src && locForm r.dst
    && (r.rctr == noCounter || r.rctr % 4 == 0)
    && (!data || (decide (2 ≤ r.vc) && decide (r.vc ≤ 5)))
    && (!(data || a == 8) || (decide (64 ≤ r.bytes) && decide (r.bytes ≤ 4194304) && r.bytes % 64 == 0))
    && (match a with
      | 1 => convOk r && r.aux == 0 && noEf
      | 2 => convOk r && decide (r.fmtIn ≤ 0xA) && decide (r.fmtOut ≤ 0xA) && slotForm r.dst && noEf
          && (if r.norm then decide (r.aux < 256) else r.aux == 0)
      | 3 => convOk r && decide (r.ef.toNat < 2 ^ 32) && r.ef.toNat % 4 == 0
      | 4 => r.aux == 0 && noEf
      | 5 => r.aux == 0 && noEf && r.rctr != noCounter
      | 6 => r.fmtIn == 0 && decide (r.aux < 512) && slotForm r.src && !slotForm r.ef && locForm r.ef
          && r.bytes % (4 * atomVals r.aux) == 0
      | 7 => decide (r.aux < 128) && noEf && (bits r.aux 2 0 == 0) == (bits r.aux 6 3 == 0) && decide (bits r.aux 6 3 ≤ 8)
          && !slotForm r.src && !slotForm r.dst
      | 8 => decide (r.aux < 256) && noEf && slotForm r.src
      | 9 => decide (r.aux < 256) && noEf
      | 10 => r.aux == 0 && noEf
      | 15 => r.aux == 0 && noEf
      | _ => false)

def ascending (l : List Nat) : Bool :=
  match l with
  | a :: b :: r => decide (a < b) && ascending (b :: r)
  | _ => true

namespace State

/-- The member list and the records of collective record `i` hold. -/
def keyOk (s : State) (j : Job) (i : Nat) : Bool :=
  let a := j.image.base + j.image.keyOff + 64 * i
  let k := s.keyRec j i
  let count := s.rdNat (j.image.base + k.members) 4
  let members := s.memberList j k.members
  k.nkey == ~~~k.key && decide (1 ≤ k.rounds) && decide (k.first + k.rounds ≤ 2 ^ 32 - 1)
    && decide (s.rdNat (a + 16) 1 < 2) && (!k.launch || decide (i < 256)) && decide (1 ≤ k.groups)
    && s.rdNat (a + 18) 2 == 0 && s.rdNat (a + 60) 4 == 0
    && decide (k.members + 4 ≤ j.image.bytes) && decide (1 ≤ count) && decide (count ≤ 8192)
    && decide (k.members + 4 + 2 * count ≤ j.image.bytes) && ascending members && members.contains s.moduleNo
    && members.all (fun m => decide (m < 8192))
    && (List.range 4).all (fun d =>
      decide (k.firstSlot d + k.slots d ≤ 512) && decide (k.trig d ≤ 4096)
        && (k.trig d == 0 || decide (k.trigOff d + 64 * k.trig d ≤ j.image.bytes))
        && (!k.takesPart d
          || (let rs := (List.range (k.trig d)).map (fun x => s.trigRec (j.image.base + k.trigOff d + 64 * x))
              rs.all trigStatic && (rs.filter (fun r => r.action == 15)).length == 1)))

/-- Keys are strictly ascending. -/
def keysAscend (s : State) (j : Job) : Bool :=
  ascending ((List.range j.image.keyCount).map (fun i => (s.keyRec j i).key.toNat))

/-- Every claim is at most 512 slots of an interface. -/
def claimsOk (s : State) (j : Job) : Bool :=
  (List.range j.image.keyCount).all (fun i => (List.range 4).all (fun d => decide ((s.keyRec j i).slots d ≤ 512)))

/-- A refresh record (R258) and, against it, the image's REFRESH_LAUNCH entries (R260). -/
def refreshRecOk (s : State) (j : Job) (r : Nat) : Bool :=
  let a := j.image.base + j.image.solverOff + 32 * r
  decide (s.rdNat a 1 ≤ 1) && s.rdNat (a + 1) 1 == 0 && s.rdNat (a + 4) 4 == 0 && s.rdNat (a + 16) 16 == 0
    && (List.range 16).all (fun e => !bit (s.refreshEngines j r) e || bit j.image.solverMask e)
    && bits (s.refreshStatus j r).toNat 63 52 == 0 && bits (s.refreshStatus j r).toNat 51 48 != 15

/-- A schedule entry of the image as stored (R40). -/
def imageEntry (s : State) (j : Job) (i : Nat) : SchedEntry :=
  let a := j.image.base + j.image.schedOff + 32 * i
  let n := fun o k => s.rdNat (a + o) k
  ⟨BitVec.ofNat 32 (n 0 4), BitVec.ofNat 32 (n 4 4), BitVec.ofNat 64 (n 8 8), BitVec.ofNat 64 (n 16 8),
    BitVec.ofNat 32 (n 24 4), BitVec.ofNat 32 (n 28 4), 0, false⟩

/-- Entries of a known kind with HEADER [31:16] at 0, naming what the image and the job block hold. -/
def entryOk (s : State) (j : Job) (i : Nat) : Bool :=
  let e := s.imageEntry j i
  !e.guarded || (decide (1 ≤ e.kind) && decide (e.kind ≤ 8) && e.header.toNat / 65536 == 0
    && (e.kind != 6 || (decide (e.flags < j.image.solverCount) && s.refreshLaunch j e.flags == 1))
    && (e.kind != 7 || decide (e.flags < j.image.keyCount))
    && (e.kind != 8 || decide (e.flags < j.block.exports.length)))

/-- The command at an offset breaks a rule whose breach refuses the job with CMD_BAD_FIELD: an ENF byte in an OS-mode product
(R235), or a nominal count over 24,576 cycles (R193, R241). -/
def fieldRefused (s : State) (j : Job) (off : Nat) : Bool :=
  let c : RawCmd := ⟨off, s.rd (j.image.base + off) 32⟩
  let p := prodOf (mmaBody c)
  c.headOk 1 && c.eng == 1 && (c.op == 0x21 || c.op == 0x22 || c.op == 0x23)
    && ((p.os && p.enf != 0) || decide (24576 < admissionCount p))

/-- Step 4 of R91 but for the digest: the refusal with AUX and DETAIL. -/
def validate (s : State) (j : Job) : Option (W16 × Nat × Nat) :=
  match s.checkThreads j.image.threadCount j 0 [] with
  | some (i, off) => some (if s.fieldRefused j off then 0x1113 else 0x1204, i % 65536, off / 32)
  | none =>
    if !s.keysAscend j then some (0x1205, 0, 0)
    else if !s.claimsOk j then some (0x1206, 0, 0)
    else if !((List.range j.image.keyCount).all (s.keyOk j)) ∨ !((List.range j.image.solverCount).all (s.refreshRecOk j)) then
      some (0x1204, 0, 0)
    else none

end State
end Sys2Proof.Machine
end

