-- ==== Sys2Proof/Machine/Job.lean ====
section
/-! DEFINITION. Jobs (spec/03_command_lists.md, R89 to R99; spec/02, R44 to R49; spec/15, R406 to R408): the job block,
the nine steps of admission, the start of a job, its release, quench descriptors and resident images. -/

namespace Sys2Proof.Machine

/-! ### The job block (R406) -/

structure RawBlock where
  bs : List Byte
deriving DecidableEq, Repr

def RawBlock.n (b : RawBlock) (o k : Nat) : Nat := leNat ((b.bs.drop o).take k)

/-- Fields of the job block in range, and its reserved bytes 0 (R406, R407). -/
def RawBlock.fieldsOk (b : RawBlock) : Bool :=
  b.n 0 4 == 0x10400 && decide (b.n 8 4 < 16) && b.n 12 2 != 0 && b.n 14 2 == 0
    && decide (b.n 20 4 ≤ 65536) && ((b.n 20 4 == 0) == (b.n 72 8 == 0)) && b.n 72 8 % 64 == 0
    && (bit (b.n 8 4) 0 || b.n 40 8 % 256 == 0)
    && (List.range 9).all (fun i => decide (b.n (112 + i) 1 ≤ 100)) && b.n 121 3 == 0
    && decide (b.n 124 4 ≤ 256)
    && (List.range 13).all (fun i => decide (b.n (128 + 8 * i) 8 < 2 ^ 48))
    && (List.range 4).all (fun d =>
      let w := b.n (272 + 8 * d) 8
      decide (bits w 8 0 + bits w 18 9 ≤ 512) && decide (bits w 31 19 ≤ 4096) && bits w 63 32 == 0)
    && (List.range 4).all (fun r => b.n (304 + 16 * r) 8 % 4096 == 0 && decide (b.n (316 + 16 * r) 4 < 8))
    && b.n 368 144 == 0

/-- START and IMAGE as R406 places them: IMAGE at 32, START at 40. -/
def RawBlock.image (b : RawBlock) : Nat := b.n 32 8
def RawBlock.start (b : RawBlock) : Nat := b.n 40 8

/-- An export descriptor of the job block: its guard, then its fields (R405). -/
def exportCode (e : RawBlock) : Option W16 :=
  if e.n 4 4 ≠ 2 ^ 32 - 1 - e.n 0 4 then some 0x1101
  else if bits (e.n 0 4) 3 0 ≠ 4 ∨ bits (e.n 0 4) 31 5 ≠ 0 ∨ e.n 34 30 ≠ 0 ∨ !State.exportPlaceOk (e.n 8 8) (e.n 16 8) then some 0x1102
  else none

def RawBlock.toJobBlock (b : RawBlock) (tiles : Nat) (exps : List RawBlock) : JobBlock :=
  { flags := BitVec.ofNat 32 (b.n 8 4), tag := BitVec.ofNat 16 (b.n 12 2), jobId := BitVec.ofNat 32 (b.n 16 4)
    seed := BitVec.ofNat 64 (b.n 24 8), start := BitVec.ofNat 64 b.start, deadline := BitVec.ofNat 64 (b.n 48 8)
    serveCount := b.n 20 4, serve := b.n 72 8
    bases := (List.range 13).map (fun i => BitVec.ofNat 48 (b.n (128 + 8 * i) 8))
    banks := (List.range 4).map (fun d => BitVec.ofNat 64 (b.n (240 + 8 * d) 8))
    niw := (List.range 4).map (fun d => BitVec.ofNat 64 (b.n (272 + 8 * d) 8))
    hostr := (List.range 4).map (fun r =>
      let f := b.n (316 + 16 * r) 4
      (⟨b.n (304 + 16 * r) 8, b.n (312 + 16 * r) 4, if bit f 0 then 1 else 0, bit f 1, bit f 2⟩ : HostRange))
    tiles := (List.range tiles).map (fun i => b.n (512 + 2 * i) 2)
    shares := (List.range 9).map (fun i => b.n (112 + i) 1)
    exports := exps.map (fun e => (e.n 8 8, e.n 16 8, e.n 24 8, e.n 32 2)) }

/-! ### Deadline admission (R47, R48) -/

namespace State

/-- Link shares of the admitted jobs with this one exceed 100% on some port (R47). -/
def shareOver (s : State) (j : Job) : Bool :=
  (List.range 9).any (fun p => decide (100 < ((j :: s.jobs).map (fun o => o.block.shares.getD p 0)).sum))

/-- Deadline entries of the image that are past already, which are not installed (R43, R49): DL_INDEX and position. -/
def pastDeadlines (s : State) (j : Job) (bias : Nat) : List (Nat × Nat) :=
  (List.range j.image.schedCount).filterMap (fun i =>
    let e := s.imageEntry j i
    let p := (e.position + BitVec.ofNat 64 (bias * 65536)).toNat
    if e.guarded && (e.kind == 4 || e.kind == 5) && decide (p < s.beat.pos.toNat) then
      some (if e.kind = 5 then 1 else e.flags + 2, p) else none)

/-- What R47 finds wrong: the lowest DL_INDEX of a deadline that fails, with its shortfall, or 0 and 0 for the shares. -/
def planFails (s : State) (j : Job) (bias : Nat) (fin : SMap Nat) : Option (Nat × Nat) :=
  let worst := mget fin 1 0
  let bad := (jobDeadlines j).filterMap (fun x =>
    if 2 ≤ x.1 ∧ j.image.solverCount ≤ x.1 - 2 then some (x.1, 2 ^ 32 - 1)
    else
      let f := mget fin x.1 worst
      if f * 65536 ≤ x.2 then none else some (x.1, shortfall f x.2))
  let past := (s.pastDeadlines j bias).map (fun x => (x.1, shortfall (mget fin x.1 worst) x.2))
  match (bad ++ past).foldl (fun (b : Option (Nat × Nat)) x =>
      match b with | some y => if x.1 < y.1 then some x else b | none => some x) none with
  | some x => some x
  | none => if hasDeadline j ∧ s.shareOver j then some (0, 0) else none

/-! ### The program region and resident images (R91, R95, R408) -/

/-- The program region: base and end of the lowest-numbered valid region of KIND 1. -/
def programRegion (s : State) : Option (Nat × Nat) :=
  match (List.range 64).find? (fun n => s.flag (Regs.rgnLo n) 0 && s.field (Regs.rgnLo n) 3 1 == 1) with
  | some n => some (s.field (Regs.rgnLo n) 38 21 * 0x200000, (s.field (Regs.rgnHi n) 38 21 + 1) * 0x200000)
  | none => none

def imagesHeld (s : State) : List Image := s.images.map (fun r => r.img) ++ s.jobs.map (fun j => j.image)

/-- The first free space of the program region that is large enough. -/
def placeImage (s : State) (n : Nat) : Option Nat :=
  match s.programRegion with
  | none => none
  | some (lo, hi) =>
    let held := s.imagesHeld
    let fits := fun (a : Nat) => decide (lo ≤ a) && decide (a + n ≤ hi)
      && held.all (fun m => decide (a + n ≤ m.base) || decide (m.base + m.bytes ≤ a))
    let cands := (lo :: held.map (fun m => m.base + m.bytes)).filter fits
    cands.foldl (fun (b : Option Nat) a => match b with | some x => some (min x a) | none => some a) none

def imageUsed (s : State) (m : Image) : Bool := s.jobs.any (fun j => j.image.base == m.base)

/-- A resident image leaves the program region; the descriptor that asked for it completes. -/
def imageGone (r : Resident) (s : State) : State :=
  let s := { s with images := s.images.filter (fun x => x.img.base != r.img.base) }
  match r.evicting with
  | some (p, n, i) => s.completeDesc p n i 5 2 0 0 0 0
  | none => s

/-- The image of a job admitted with KEEP becomes resident where one of 16 places is free or can be freed. True where
it is kept. -/
def keepImage (m : Image) (s : State) : Bool × State :=
  if s.images.length < 16 then (true, { s with images := s.images ++ [⟨m, none⟩] })
  else
    match s.images.find? (fun r => !s.imageUsed r.img) with
    | none => (false, s)
    | some r =>
      let s := s.imageGone r
      (true, { s with images := s.images ++ [⟨m, none⟩] })

/-! ### Steps 5 to 8 of R91 -/

/-- A tile, solver engine or update unit is in service (R455, R456). -/
def tileInService (s : State) (t : Nat) : Bool := !s.recov.lost.contains t && !s.recov.retiredUnits.contains (24 + t / 64)

def unitsOk (s : State) (j : Job) : Bool :=
  s.mgmt.lifecycle != 2 && j.block.tiles.all (fun t => decide (t < 256) && s.tileInService t)
    && j.block.tiles.eraseDups.length == j.block.tiles.length
    && j.engines.all (fun e => !s.recov.retiredUnits.contains e && !s.recov.retiredUnits.contains (24 + e / 4))
    && j.updates.all (fun u => !s.recov.retiredUnits.contains (16 + u) && !s.recov.retiredUnits.contains (24 + u / 2))
    && (List.range 4).all (fun d => (s.retainedOf d).all (fun i =>
        !(decide (j.niBase d ≤ i) && decide (i < j.niBase d + j.niCount d)) || s.retainedTag d i == j.block.tag.toNat))

/-- A job that needs the beat (step 6). -/
def needsBeat (j : Job) : Bool := hasDeadline j || j.image.schedCount != 0 || usesBeat j

/-- The tables of an entry with the entry as R408 sets it (R44). -/
def placeEntry (s : State) (j : Job) (e : SchedEntry) : List (Nat × SchedEntry) :=
  let k := e.kind
  let e := if k = 3 ∨ k = 1 ∨ k = 2 then e else { e with target := j.handle, ntarget := ~~~j.handle }
  let e := { e with owner := j.handle }
  let tables := if k = 1 ∨ k = 2 then [4]
    else if k = 4 ∨ k = 6 then (List.range 4).filter (fun d => !(s.refreshOn j e.flags d).isEmpty)
    else if k = 7 then (List.range 4).filter (fun d => (s.keyRec j e.flags).takesPart d)
    else [j.lowDie]
  tables.map (fun t => (t, e))

/-- All entries of a job: its deadlines, then the image's with SCHED_BIAS beats added. -/
def jobEntries (s : State) (j : Job) (bias : Nat) : List (Nat × SchedEntry) :=
  let dl := if j.block.deadline = 0 then [] else s.placeEntry j (SchedEntry.make 5 0 j.block.deadline j.handle j.handle false)
  let rd := (List.range j.refreshDl.length).flatMap (fun i =>
    let p := j.refreshDl.getD i 0
    if p = 0 then [] else s.placeEntry j (SchedEntry.make 4 i p j.handle j.handle false))
  let im := (List.range j.image.schedCount).flatMap (fun i =>
    let e := s.imageEntry j i
    if e.guarded then
      let p := e.position + BitVec.ofNat 64 (bias * 65536)
      s.placeEntry j { e with position := p, nposition := ~~~p }
    else [])
  dl ++ rd ++ im

/-- Image entries whose guard fails are discarded and logged (R40). -/
def logBadEntries (j : Job) (s : State) : State :=
  (List.range j.image.schedCount).foldl (fun st i =>
    if (st.imageEntry j i).guarded then st else st.logGuard 0x700 j.handle 4 i) s

/-! ### Step 9 -/

/-- Each die that the job uses binds a free slot, the oldest freed first (R509). -/
def bindSlots (j : Job) (s : State) : State :=
  (List.range 4).foldl (fun st d =>
    if !j.usesDie d then st
    else
      let free := (List.range 16).filter (fun k => !st.flag (Regs.obsSlotH d k) 32)
      let queued := (st.obs.slotFree.filter (fun x => x / 16 == d)).map (fun x => x % 16)
      let pick := match free.find? (fun k => !queued.contains k) with
        | some k => some k
        | none => queued.find? (fun k => free.contains k)
      match pick with
      | none => st
      | some k =>
        let st := { st with obs := { st.obs with slotFree := st.obs.slotFree.filter (fun x => x != d * 16 + k) } }
        let st := st.dropRegs (fun o => inBlock (Regs.obsSlot d k 0) 0x100 o)
        st.setRegNat (Regs.obsSlotH d k) (j.handle.toNat + 2 ^ 32)) s

/-- Modules outside the group that the job's member lists and PEER fields name (R309). -/
def jobRemotes (s : State) (j : Job) : List Nat :=
  let peers := (List.range j.image.keyCount).flatMap (fun i =>
    let k := s.keyRec j i
    (List.range 4).flatMap (fun d => (List.range (k.trig d)).filterMap (fun x =>
      let r := s.trigRec (j.image.base + k.trigOff d + 64 * x)
      if r.action = 1 ∨ r.action = 2 ∨ r.action = 3 ∨ r.action = 6 then some r.peer else none)))
  ((s.jobPeers j ++ peers).eraseDups).filter (fun m => decide (m < 8192) && m / 8 != s.fabric.group)

def followHandle (h : W32) : W32 := if h + 1 = 0 then 1 else h + 1

/-- The job is admitted. -/
def admitJob (j : Job) (keep : Bool) (s : State) : State :=
  let s := { s with jobs := s.jobs ++ [j], nextHandle := followHandle s.nextHandle }
  let (kept, s) := if keep && !j.resident then s.keepImage j.image else (true, s)
  let s := s.bindSlots j
  let s := (s.jobRemotes j).foldl (fun st m => st.openPair m) s
  s.completeDesc j.port j.ring j.sqIndex 1 1 0 (if kept then 0 else 1) 0 j.handle

/-! ### Admission (R91) -/

/-- A refusal: its code with AUX and DETAIL, or the image and whether it was resident, with the state. -/
abbrev Admitted := Except (W16 × Nat × Nat) (Image × Bool)

/-- Steps 2 to 4 up to the digest: the image of the job in the program region. -/
def takeImage (p : Nat) (b : RawBlock) (s : State) : Admitted × State :=
  if bit (b.n 8 4) 0 then
    let dg := BitVec.ofNat 256 (leNat ((b.bs.drop 80).take 32).reverse)
    match s.images.find? (fun r => r.evicting.isNone && r.img.digest == dg) with
    | some r => (.ok (r.img, true), s)
    | none => (.error (0x1201, 0, 0), s)
  else
    let hdr := s.hostRd p b.image 256
    if !headerOk hdr then (.error (0x1201, 0, 0), s)
    else
      let size := (Image.ofHeader 0 hdr).bytes
      match s.placeImage size with
      | none => (.error (0x1202, 0, 0), s)
      | some a =>
        let data := s.hostRd p b.image size
        let m := Image.ofHeader a hdr
        let s := s.save a data
        if Sha.digest (data.take 16 ++ List.replicate 32 0 ++ data.drop 48) ≠ m.digest then (.error (0x1203, 0, 0), s)
        else (.ok (m, false), s)

/-- The candidate job, not yet planned. -/
def candidate (s : State) (p n i : Nat) (b : RawBlock) (exps : List RawBlock) (dls : List W64) (m : Image) (resident : Bool) : Job :=
  let j : Job :=
    { handle := s.nextHandle, port := p, ring := n, sqIndex := i, st := .admitted
      block := b.toJobBlock m.tileCount exps, image := m, resident := resident, named := []
      plan := ⟨0, 0, 0, false, 0, []⟩, segment := 0, refreshDl := dls, cause := 0, faults := 0, trapped := false
      replay := none, quenchers := [] }
  { j with named := ((List.range m.threadCount).filterMap (fun k =>
      let x := (s.threadRec j k).1
      (threadOf j x.1 x.2.1 x.2.2).map (fun t => t.key))).eraseDups }

/-- Steps 4 to 8 on a candidate, and step 9. The refusal stands with the state. -/
def admitCand (j : Job) (bias : Nat) (s : State) : Except (W16 × Nat × Nat) State :=
  match (if j.resident then none else s.validate j) with
  | some e => .error e
  | none =>
    if !j.resident ∧ !((List.range j.image.schedCount).all (s.entryOk j)) then .error (0x1204, 0, 0)
    else if !s.unitsOk j then .error (0x1207, 0, 0)
    else if needsBeat j ∧ (s.beat.mode = 0 ∨ s.beat.mode = 3) then .error (0x1302, 0, 0)
    else
      let (plan, fin) := s.planJob j
      let j := { j with plan := plan }
      match s.planFails j bias fin with
      | some (x, short) => .error (0x1208, x, short)
      | none =>
        match s.installAll (s.jobEntries j bias) with
        | none => .error (0x1305, 0, 0)
        | some s => .ok ((s.logBadEntries j).admitJob j (bit j.block.flags.toNat 1))

/-- The refresh-deadline table: none where it breaks R406. -/
def refreshTable (s : State) (p at_ : Nat) : Option (List W64) :=
  if at_ = 0 then some []
  else
    let c := s.hostNat p at_ 4
    if 254 < c ∨ s.hostNat p (at_ + 4) 4 ≠ 0 then none
    else some ((List.range c).map (fun i => BitVec.ofNat 64 (s.hostNat p (at_ + 8 + 8 * i) 8)))

/-- A job descriptor: job block, checks and the steps of R91. -/
def admitBlock (d : DescHead) (block i : Nat) (s : State) : State :=
  let p := d.port.val
  let b : RawBlock := ⟨s.hostRd p block 1024⟩
  let stop := fun (c : W16) (aux detail : Nat) (s : State) => s.finishDesc d 1 i c aux detail 0
  if b.n 4 4 ≠ 2 ^ 32 - 1 - b.n 0 4 then stop 0x1101 0 0 s
  else if !b.fieldsOk then stop 0x1102 0 0 s
  else
    let exps := (List.range (b.n 124 4)).map (fun k => (⟨s.hostRd p (b.n 232 8 + 64 * k) 64⟩ : RawBlock))
    match exps.findSome? exportCode, s.refreshTable p (b.n 56 8) with
    | some c, _ => stop c 0 0 s
    | none, none => stop 0x1102 0 0 s
    | none, some dls =>
      match s.takeImage p b with
      | (.error (c, x, y), s) => stop c x y s
      | (.ok (m, resident), s) =>
        match s.admitCand (s.candidate p d.ring.val i b exps dls m resident) (b.n 64 8) with
        | .error (c, x, y) => stop c x y s
        | .ok s => s

def jobEff (d : DescHead) (block : Nat) (data : List HostSeg) (s : State) : State :=
  s.takeDesc 1 d false (block % 64 == 0) (fun i s =>
    (data.foldl (fun st g => st.hostWr d.port.val g.addr.toNat g.bytes) s).admitBlock d block i)

/-! ### Start (R94, R61, R69, R137, R207) -/

/-- The units of an admitted job are free, every earlier job that shares one with it has started and been released, and
its start position is reached. -/
def startReady (s : State) (j : Job) : Bool :=
  j.st == .admitted && (j.block.start == 0 || decide (j.block.start.toNat ≤ s.beat.pos.toNat))
    && (s.jobs.takeWhile (fun o => o.handle != j.handle)).all (fun o => !j.shares o)
    && s.jobs.all (fun o => o.handle == j.handle || o.st == .admitted || !j.shares o)
    && s.mgmt.reloads.all (fun r => decide (j.handle.toNat < r.mark.toNat) || !j.holds r.unit)

/-- Every thread of a unit the job holds. -/
def jobKeys (j : Job) : List Nat :=
  j.block.tiles.flatMap (fun t => (List.range 28).map (fun k => t * 28 + k))
    ++ j.engines.flatMap (fun e => [7168 + 2 * e, 7168 + 2 * e + 1])
    ++ j.updates.flatMap (fun u => (List.range 4).map (fun k => 7200 + 4 * u + k))

/-- Registers that take their reset values with the job's stores: bank owners and the ENF blocks of its tiles. -/
def jobRegs (j : Job) (o : Nat) : Bool :=
  j.block.tiles.any (fun t => inBlock (Regs.tilOwner t 0) 0x80 o || inBlock (Regs.enf t) 0x1000 o)
    || (List.range 4).any (fun d => (List.range 64).any (fun k => j.ownsBank d k && inBlock (Regs.shsOwner d k) 8 o))

def startEff (h : W32) (s : State) : State :=
  match s.findJob h with
  | none => s
  | some j =>
    if !s.startReady j ∨ s.power.held ∨ s.power.off then s
    else if s.power.st = 1 then s.setPower (fun p => { p with st := 5, target := 0, origin := 1, pgFails := 0 })
    else if s.power.st ≠ 0 then s
    else
      let s := (s.mapJob h (fun x => { x with st := .running })).dropRegs (jobRegs j)
      let s := (jobKeys j).foldl (fun st k => st.setThread k { Thread.idle with st := .done, job := h, bases := j.block.bases }) s
      let s := (List.range 4).foldl (fun st d =>
        if j.usesDie d then (List.range 256).foldl (fun x l => x.gnsClear d l) st else st) s
      let s := (List.range j.image.threadCount).foldl (fun st i =>
        let (x, _, start) := st.threadRec j i
        match threadOf j x.1 x.2.1 x.2.2 with
        | none => st
        | some t =>
          let st := st.mapThread t.key (fun th => { th with st := .ready, pc := start })
          st.fillLine (listCache t.key) (st.listLine t.key)) s
      s.checkComplete h

/-! ### Release (R96, R98, R366, R411) -/

/-- Nothing of the job is under way: its threads are DONE or HALTED with no request outstanding, and its drains, fused
steps, solver operations and update blocks have ended. -/
def jobStill (s : State) (j : Job) : Bool :=
  let keys := jobKeys j
  s.threads.all (fun c => c.2.job != j.handle || ((c.2.st == .done || c.2.st == .halted) && c.2.outstanding == 0))
    && s.enf.all (fun c => !(c.2.job == j.handle && c.2.st == .draining))
    && s.matrix.osDrain.all (fun c => c.2.job != j.handle) && s.matrix.fused.all (fun f => f.job != j.handle)
    && s.upd.inflight.all (fun x => !keys.contains x.1)
    && j.engines.all (fun e => match (s.slvEngine e).op with | some o => !keys.contains (svKey e o.thread) | none => true)

/-- The stores that the job held are zeroed (R96), dirty lines of its data caches written back first
(R143); Enfleurage sets that still accumulate are discarded and counted (R251). -/
def zeroJob (j : Job) (s : State) : State :=
  let keys := jobKeys j
  let lost := s.enf.filter (fun c => c.2.job == j.handle && c.2.st == .accumulating)
  let s := lost.foldl (fun st c => st.count 0x2203 (c.1 / 2 / 64) j.handle 1) s
  let s := j.block.tiles.foldl (fun st t => st.cacheClean orphanRequester t 0 0) s
  let s := j.block.tiles.foldl (fun st t => st.wipeTile t) s
  let s := (List.range 4).foldl (fun st d =>
    let st := (List.range 64).foldl (fun x b => if j.ownsBank d b then x.wipe (sharedAddr d (b * 0x200000)) 0x200000 else x) st
    (List.range (j.niCount d)).foldl (fun x i =>
      let k := d * 512 + j.niBase d + i
      if (mfind x.upd.retained k).isSome then x else x.zeroSlot k) st) s
  let s := s.dropRegs (jobRegs j)
  { s with
    matrix := { s.matrix with
      chain := s.matrix.chain.filter (fun c => !j.block.tiles.contains c.1)
      holder := s.matrix.holder.filter (fun c => !(j.block.tiles.contains c.1 && c.2 != 4))
      last := (s.matrix.holder.filter (fun c => j.block.tiles.contains c.1 && c.2 != 4)).foldl (fun m c => mset m c.1 c.2) s.matrix.last
      turned := s.matrix.turned.filter (fun c => !keys.contains c.1)
      behind := s.matrix.behind.filter (fun c => !j.block.tiles.contains c.1)
      flushing := s.matrix.flushing.filter (fun c => !keys.contains c.1) }
    enf := s.enf.filter (fun c => c.2.job != j.handle)
    store := { s.store with
      listLines := s.store.listLines.filter (fun c => !(j.engines.any (fun e => c.1 == 256 + e) || j.updates.any (fun u => c.1 == 272 + u)))
      pinned := s.store.pinned.filter (fun c => !keys.contains c.1)
      watch := s.store.watch.map (fun (c : Nat × List Nat) => (c.1, c.2.filter (fun k => !keys.contains k))) } }

/-- The units of the job are let go. -/
def freeUnits (j : Job) (s : State) : State :=
  let keys := jobKeys j
  let s := j.engines.foldl (fun st e => st.clearEngine e) s
  let s := (s.releasePins j).dropReqs (fun k => keys.contains k)
  { s with
    threads := s.threads.filter (fun c => c.2.job != j.handle)
    upd := { s.upd with waitBeat := s.upd.waitBeat.filter (fun k => !keys.contains k) }
    host := { s.host with reads := s.host.reads.filter (fun r => !keys.contains r.thread) }
    recov := { s.recov with hang := s.recov.hang.filter (fun x => x.handle != j.handle) } }

def jobZeroedEff (h : W32) (s : State) : State :=
  match s.findJob h with
  | none => s
  | some j =>
    if !(j.st == .completing || j.st == .quenching) ∨ !s.jobStill j then s
    else
      let s := ((s.retainSlots h).zeroJob j).clearNi j
      let s := (s.freeUnits j).freeJobSlots h
      (s.finalEntry j (if j.st = .quenching then j.cause else 0)).dropJob h

/-! ### QUENCH, EVICT_IMAGE, IMAGE_EVICTED -/

def quenchDescEff (d : DescHead) (h : W32) (s : State) : State :=
  s.takeDesc 6 d false true (fun i s =>
    let finish := fun (c : W16) (s : State) => s.finishDesc d 6 i c 0 0 h
    match s.findJob h with
    | none => finish 0x1402 s
    | some j =>
      if !s.ownsPort d.port.val j.port then finish 0x1102 s
      else match j.st with
        | .completing => finish 0x1402 s
        | .quenching => finish 0x1401 s
        | .admitted => finish 0 (s.quenchJob h 0x1401)
        | .running | .held =>
          if s.threadsDone j then finish 0x1402 s
          else (s.quenchJob h 0x1401).mapJob h (fun x =>
            { x with quenchers := x.quenchers ++ [(d.port.val, d.ring.val, i)] }))

def evictEff (d : DescHead) (dg : BitVec 256) (s : State) : State :=
  s.takeDesc 5 d false true (fun i s =>
    match s.images.find? (fun r => r.evicting.isNone && r.img.digest == dg) with
    | none => s.finishDesc d 5 i 0x1201 0 0 0
    | some r => { s with images := s.images.map (fun (x : Resident) =>
        if x.img.base = r.img.base then { x with evicting := some (d.port.val, d.ring.val, i) } else x) })

def imageEvictedEff (dg : BitVec 256) (s : State) : State :=
  match s.images.find? (fun r => r.evicting.isSome && r.img.digest == dg && !s.imageUsed r.img) with
  | none => s
  | some r => s.imageGone r

end State

def execJob (d : DescHead) (block : W64) (data : List HostSeg) (s : State) : Host.Outcome State Fault Refusal :=
  .next (s.jobEff d block.toNat data)
def execJobStart (handle : W32) (s : State) : Host.Outcome State Fault Refusal := .next (s.startEff handle)
def execJobZeroed (handle : W32) (s : State) : Host.Outcome State Fault Refusal := .next (s.jobZeroedEff handle)
def execQuench (d : DescHead) (handle : W32) (s : State) : Host.Outcome State Fault Refusal := .next (s.quenchDescEff d handle)
def execEvictImage (d : DescHead) (digest : BitVec 256) (s : State) : Host.Outcome State Fault Refusal := .next (s.evictEff d digest)
def execImageEvicted (digest : BitVec 256) (s : State) : Host.Outcome State Fault Refusal := .next (s.imageEvictedEff digest)

end Sys2Proof.Machine
end

