-- ==== Sys2Proof/Machine/Recovery.lean ====
section
/-! DEFINITION. Faults, spares, the hang monitor and resets (spec/17_faults_and_recovery.md, R450 to R468). -/

namespace Sys2Proof.Machine

/-- Code of a unit in `Recovery.retiredUnits`: solver engines, update units, network interfaces. -/
def retireCode : UnitId → Option Nat
  | .solver e => some e.val
  | .update u => some (16 + u.val)
  | .ni d => some (24 + d.val)
  | _ => none

/-- Unit code of a log entry. -/
def unitLog : UnitId → Nat
  | .tile t => t.val
  | .solver e => 0x100 + e.val
  | .update u => 0x200 + u.val
  | .ni d => 0x300 + d.val
  | .die d => 0x500 + d.val

def unitDie : UnitId → Nat
  | .tile t => t.val / 64
  | .solver e => e.val / 4
  | .update u => u.val / 2
  | .ni d => d.val
  | .die d => d.val

namespace State

def quenchAll (p : Job → Bool) (code : W16) (s : State) : State :=
  (s.jobs.filter p).foldl (fun st j => st.quenchJob j.handle code) s

def setRecov (f : Recovery → Recovery) (s : State) : State := { s with recov := f s.recov }

/-! ### Tiles (R17, R451 to R455) -/

/-- The physical tile of a logical one, within its die (R17). -/
def physTile (s : State) (t : Nat) : Nat := mget s.recov.tileMap t (t % 64)

/-- The physical tile behind `t` is retired and a spare of its die takes its number; where none is left the logical
tile goes out of service. -/
def retireTile (t : Nat) (s : State) : State :=
  let d := t / 64
  let p := s.physTile t
  let used := mget s.recov.sparesUsed d 0
  let s := s.setRecov (fun r => { r with
    retiredTiles := r.retiredTiles ++ [d * 68 + p], lastRetired := mset r.lastRetired d p
    marked := r.marked.filter (fun x => x != t), corrected := mdel r.corrected t })
  if used < 4 then
    s.setRecov (fun r => { r with tileMap := mset r.tileMap t (64 + used), sparesUsed := mset r.sparesUsed d (used + 1) })
  else (s.setRecov (fun r => { r with lost := r.lost ++ [t] })).report 0x8022 t

/-- The job stops as a quench stops it, but does not end (R454). -/
def holdJob (j : Job) (s : State) : State :=
  ((s.mapJob j.handle (fun x => { x with st := .held })).mapThreadsOf j.handle (fun _ t => quenchThread t)).quenchTiles j

/-- Scratchpads, tile buffers and data caches of the job's tiles are zeroed; the faulty tile loses its list cache too. -/
def zeroTiles (j : Job) (bad : List Nat) (s : State) : State :=
  j.block.tiles.foldl (fun st t =>
    let st := (st.wipe (scratchAddr t 0) 0x400000).wipe (tbufAddr t 0) 0x40000
    { st with store := { st.store with
        dcache := mdel st.store.dcache t
        listLines := if bad.contains t then mdel st.store.listLines t else st.store.listLines } }) s

/-- DEADLINE_AT_RISK for a takeover that no allowance covers (R51). -/
def useAllowance (j : Job) (s : State) : State :=
  let s := if hasDeadline j ∧ (j.plan.a = 0 ∨ j.plan.aUsed) then s.atRisk j.handle else s
  s.mapJob j.handle (fun x => { x with plan := { x.plan with aUsed := true } })

/-- A job that loses a tile ends (R454, R455). -/
def tileLost (t : Nat) (h : W32) (s : State) : State :=
  let s := s.setRecov (fun r => { r with taking := r.taking.filter (fun x => (s.findJob h).all (fun j => !j.block.tiles.contains x)) })
  (s.report 0x8021 t).quenchJob h 0x8021

def tileFaultEff (t : Nat) (s : State) : State :=
  if s.power.held ∨ s.power.off ∨ s.recov.lost.contains t then s
  else match s.jobs.find? (fun j => j.runs && j.block.tiles.contains t) with
  | none => s.retireTile t
  | some j =>
    let s := ((if j.st = .running then s.holdJob j else s).dropBorrowed t).retireTile t
    if s.recov.lost.contains t ∨ j.replay.isNone then s.tileLost t j.handle
    else
      ((s.zeroTiles j [t]).useAllowance j).setRecov (fun r => { r with taking := t :: r.taking.filter (fun x => x != t) })

/-- Every thread of the job goes back to its replay point (R454); the threads of the new tile start from reset
contexts. -/
def restorePoint (j : Job) (r : ReplayPoint) (bad : List Nat) (s : State) : State :=
  let s := r.rowcnt.foldl (fun st c => st.setReg c.1 c.2) s
  (jobKeys j).foldl (fun st k =>
    let old := st.thread k
    let base : Thread := if k < 7168 ∧ bad.contains (k / 28) then { Thread.idle with job := j.handle, bases := j.block.bases } else old
    match mfind r.threads k with
    | some (pc, bases, loops) =>
      (st.setThread k { base with
        st := .ready, pc := pc, bases := bases, loops := loops, wait := none, beatTarget := none, outstanding := 0
        unissued := [], markAt := none }).fetchNext k
    | none => st.setThread k { base with st := .done, pc := old.pc, loops := [] }) s

def tileSparedEff (t : Nat) (measureOk testOk : Bool) (s : State) : State :=
  if !s.recov.taking.contains t then s
  else match s.jobs.find? (fun j => j.st == .held && j.block.tiles.contains t) with
  | none => s.setRecov (fun r => { r with taking := r.taking.filter (fun x => x != t) })
  | some j =>
    if !s.jobStill j then s
    else if !measureOk then (s.report 0x7101 t).tileFaultEff t
    else if !testOk then s.tileFaultEff t
    else
      let s := s.setRecov (fun r => { r with taking := r.taking.filter (fun x => x != t) })
      if s.recov.taking.any (fun x => j.block.tiles.contains x) then s.report 0x8020 t
      else match j.replay with
        | none => s.tileLost t j.handle
        | some r =>
          let s := (s.zeroTiles j []).mapJob j.handle (fun x => { x with st := .running })
          (s.restorePoint j r [t]).report 0x8020 t

/-- A marked tile is retired once no job holds it. -/
def tileRetireEff (t : Nat) (s : State) : State :=
  if s.recov.marked.contains t ∧ !(s.jobs.any (fun j => j.st != .admitted && j.block.tiles.contains t)) then s.retireTile t else s

/-! ### Units without spares, phases, the management core (R456 to R458) -/

def unitRetiredEff (u : UnitId) (s : State) : State :=
  match retireCode u with
  | none => s
  | some c =>
    if s.recov.retiredUnits.contains c then s
    else ((s.setRecov (fun r => { r with retiredUnits := r.retiredUnits ++ [c] })).report 0x8023 (unitLog u)).quenchAll
      (fun j => j.holds u && (j.runs || j.st == .admitted)) 0x8023

def phaseFailedEff (rail : Nat) (s : State) : State :=
  let n := mget s.recov.phases rail 0 + 1
  let s := (s.setRecov (fun r => { r with phases := mset r.phases rail n })).report 0x8030 0x700
  if n < 2 then s
  else (s.report 0x8031 0x700).changePlan (fun s => s.setPower (fun p => { p with phaseFloor := 2 }))

/-- The management domain restarts (R458, R465, R484, R490): its sessions are gone and M1 is measured again. -/
def restartMgmt (s : State) : State :=
  let s := s.endDebug false
  let s := ({ s with mgmt := { s.mgmt with spdm := ⟨0, [], []⟩, challenge := none } }).clearMeas [1]
  match s.bootImage 0 with
  | (some m, s) => s.measure 1 m.digest
  | (none, s) => { s with mgmt := { s.mgmt with noImage := true } }

def lockstepEff (s : State) : State := if s.power.off then s else s.freezeRecorder.restartMgmt

/-! ### The hang monitor (R459 to R464) -/

def enDies (s : State) (j : Job) : Bool := (List.range 4).all (fun d => !j.usesDie d || s.flag (Regs.hangCfg d) 0)

/-- The thread whose operation runs on a solver engine. -/
def opThread (s : State) (e : Nat) : List Nat :=
  match (s.slvEngine e).op with | some o => [svKey e o.thread] | none => []

/-- What a matrix-engine thread waits for: the holder of its array, or the thread whose chain lies on it. -/
def arrayEdges (s : State) (tile : Nat) : List Nat :=
  (match mfind s.matrix.holder tile with
    | some 4 => (match (mget s.matrix.borrowed tile []).head? with | some e => s.opThread e | none => [])
    | some n => [tile * 28 + n]
    | none => [])
    ++ (match mfind s.matrix.chain tile with | some c => [c.thread] | none => [])

/-- What a solver thread waits for: its engine's running operation, or the operation that holds the slot its command
names. An operation that borrows arrays waits for their holders. -/
def solverEdges (s : State) (t : ThreadId) (e n : Nat) : List Nat :=
  let th := s.thread t.key
  match (s.slvEngine e).op with
  | some o =>
    if o.thread = n then
      o.tiles.flatMap (fun x => if (mget s.matrix.borrowed x []).contains e ∧ mfind s.matrix.holder x ≠ some 4 then s.arrayEdges x else [])
    else [svKey e o.thread]
  | none =>
    match s.findJob th.job with
    | none => []
    | some j =>
      let off := s.rdNat (j.image.base + th.pc + 8) 4
      match readRec t th.bases (s.rd (j.image.base + off) 128) with
      | some r => (s.solver.holds.filter (fun x => x.1 == r.out)).flatMap (fun x => s.opThread x.2)
      | none => []

/-- What an update thread waits for: the thread that has its shard record open. -/
def updateEdges (s : State) (t : ThreadId) (u : Nat) : List Nat :=
  let th := s.thread t.key
  match s.findJob th.job with
  | none => []
  | some j =>
    let d := s.updDesc j (s.rdNat (j.image.base + th.pc + 8) 4)
    match s.ownStack t u (d.n 24 8) 256 with
    | some r => (match s.openEntry r with | some o => [7200 + o.unit * 4 + o.thread] | none => [])
    | none => []

/-- Edges of the wait-for graph out of a thread (R459). -/
def edgesOf (s : State) (k : Nat) : List Nat :=
  let st := (s.thread k).st
  let l := if k < 7168 then (if st = .waitUnit ∧ k % 28 < 4 then s.arrayEdges (k / 28) else [])
    else if k < 7200 then
      (if st = .waitUnit ∨ st = .waitOrder then
        s.solverEdges (.solver (Fin.ofNat 16 ((k - 7168) / 2)) (Fin.ofNat 2 (k % 2))) ((k - 7168) / 2) (k % 2) else [])
    else (if st = .waitUnit then s.updateEdges (.update (Fin.ofNat 8 ((k - 7200) / 4)) (Fin.ofNat 4 (k % 4))) ((k - 7200) / 4) else [])
  l.filter (fun x => x != k)

/-- Threads reached from a set by edges. -/
def reach (fuel : Nat) (s : State) (front seen : List Nat) : List Nat :=
  match fuel with
  | 0 => seen
  | f + 1 =>
    let new := (front.flatMap (fun k => s.edgesOf k)).eraseDups.filter (fun k => !seen.contains k)
    if new.isEmpty then seen else s.reach f new (seen ++ new)

/-- Threads of the job that stand on a cycle of edges (R460). -/
def cycleOf (s : State) (j : Job) : List Nat :=
  (s.threads.filter (fun c => c.2.job == j.handle && (s.reach (s.threads.length + 1) [c.1] []).contains c.1)).map (fun c => c.1)

/-- What a queue does at a sample: it works, waits inside the module, or waits for the outside (R459, R461). -/
inductive Wait where
  | works | inside | outside
deriving DecidableEq, Repr

def threadWait (s : State) (k : Nat) : Wait :=
  let t := s.thread k
  if s.busy k then .works
  else match t.st with
    | .ready | .waitList | .waitData => .works
    | .waitExt => .outside
    | .waitBeat => (match t.beatTarget with | some p => if s.beat.pos.toNat < p then .outside else .works | none => .works)
    | _ => .inside

/-- A fired record: a send waits for READY or a route and a GET or JOIN for its answers, outside; any other works. -/
def armedWait (s : State) (j : Job) (o : Occ) (a : Armed) : Wait :=
  if a.fired.isNone ∨ a.complete then .inside
  else
    let r := s.trigRec a.recAt
    let k := s.keyRec j o.keyIndex
    if a.asked then .outside
    else if (r.action = 1 ∨ r.action = 2 ∨ r.action = 6) ∧ !s.sendReadyFor j k o o.die r then .outside
    else if (r.action = 3 ∨ r.action = 10) ∧ !s.peerHere r ∧ !s.canSend r.peer 1 then .outside
    else .works

/-- A head that waits for a launch waits outside, for slots inside; one that can start works. -/
def niWait (s : State) (j : Job) (d : Nat) : Wait :=
  match s.headOcc j d with
  | none => .inside
  | some (_, ki) => match s.headWait j d ki with | 1 => .outside | 2 => .inside | _ => .works

/-- All waits of a running job at a sample. -/
def jobWaits (s : State) (j : Job) : List Wait :=
  j.named.map (fun k => s.threadWait k)
    ++ (List.range 4).map (fun d => s.niWait j d)
    ++ (s.ni.occs.filter (fun o => o.job == j.handle)).flatMap (fun o => o.armed.map (fun a => s.armedWait j o a))
    ++ (s.ni.retries.filter (fun r => r.job == j.handle)).map (fun _ => .outside)
    ++ (s.enf.filter (fun c => c.2.job == j.handle && c.2.st == .draining)).map (fun _ => .works)

def jobStalled (s : State) (j : Job) : Bool := (s.jobWaits j).all (fun w => w == .inside)
def quiet (s : State) (j : Job) : Bool :=
  let l := s.jobWaits j
  l.all (fun w => w != .works) && l.any (fun w => w == .outside)

/-- Samples and timers stand still in a low-power state and while tiles are held at IDLE (R464). -/
def samples (s : State) : Bool := s.power.st == 0 && !s.power.warn && !s.power.held && !s.power.off

def sampleJob (s : State) (j : Job) : HangJob :=
  let old := (s.recov.hang.find? (fun x => x.handle == j.handle)).getD ⟨j.handle, 0, [], 0, 0⟩
  let c := s.cycleOf j
  { handle := j.handle, sig := c
    cycles := if c.isEmpty then 0 else if c = old.sig then old.cycles + 1 else 1
    stall := if s.jobStalled j then old.stall + 1 else 0
    quiet := if s.quiet j then old.quiet + 1 else 0 }

def hangSampleEff (s : State) : State :=
  if !s.samples then s
  else s.setRecov (fun r => { r with hang := (s.jobs.filter (fun j => j.st == .running && s.enDies j)).map (fun j => s.sampleJob j) })

/-- A declaration: 1 cycle, 2 stall, 3 quiet (R463, R471). -/
def declareHang (last : Nat) (code : W16) (j : Job) (s : State) : State :=
  let s := (s.logAs 5 code 0x503 j.handle 0).out (.report code 0x503)
  let s := s.freezeRecorder
  let s := s.setRecov (fun r => { r with
    hang := r.hang.filter (fun x => x.handle != j.handle)
    taking := r.taking.filter (fun x => !j.block.tiles.contains x)
    hangLast := (List.range 4).foldl (fun m d =>
      if d = 3 ∨ j.usesDie d then mset m d (last, min 65535 ((mget m d (0, 0, 0)).2.1 + 1), j.handle) else m) r.hangLast })
  s.quenchJob j.handle code

def onHang (h : W32) (p : HangJob → Job → Bool) (f : Job → State → State) (s : State) : State :=
  match s.findJob h, s.recov.hang.find? (fun x => x.handle == h) with
  | some j, some x => if j.runs && s.samples && p x j then f j s else s
  | _, _ => s

def hangDeclaredEff (h : W32) (s : State) : State :=
  s.onHang h (fun x _ => decide (3 ≤ x.cycles)) (fun j s => s.declareHang 1 0x8001 j)
def stallDeclaredEff (h : W32) (s : State) : State :=
  s.onHang h (fun x j => x.stall != 0 && s.jobStalled j) (fun j s => s.declareHang 2 0x8001 j)
def fabricQuietEff (h : W32) (s : State) : State :=
  s.onHang h (fun x j => x.quiet != 0 && s.quiet j) (fun j s => s.declareHang 3 0x8002 j)

/-- DIE.HANG_STATUS as it reads (R471). -/
def hangStatusValue (s : State) (d : Nat) : Nat :=
  let x := mget s.recov.hangLast d (0, 0, 0)
  x.1 + x.2.1 * 65536 + x.2.2.toNat * 2 ^ 32

/-- DIE.SPARES as it reads (R472). -/
def sparesValue (s : State) (d : Nat) : Nat :=
  s.sparesLeft d + mget s.recov.lastRetired d 0xFF * 8
    + (if s.recov.lost.any (fun t => t / 64 == d) then 2 ^ 11 else 0)
    + (if s.recov.retiredUnits.any (fun c => (if c < 16 then c / 4 else if c < 24 then (c - 16) / 2 else c - 24) == d) then 2 ^ 12 else 0)

/-! ### Resets (R465, R466) -/

/-- A job that a reset takes its units from is quenched, as by a request. -/
def resetJobs (p : Job → Bool) (s : State) : State :=
  (s.jobs.filter (fun j => p j && (j.runs || j.st == .admitted))).foldl (fun st j => st.quenchNow j.handle 0x1401) s

/-- The Enfleurage sets of tiles that a reset takes are lost without a count (R251). -/
def loseSets (p : Nat → Bool) (s : State) : State := { s with enf := s.enf.filter (fun c => !p (c.1 / 2)) }

def compute (s : State) : Bool := !s.power.held && !s.power.off

def tileResetEff (t : Nat) (s : State) : State :=
  if !s.compute then s
  else ((s.loseSets (fun x => x == t)).resetJobs (fun j => j.st != .admitted && j.block.tiles.contains t)).clearTile t

def solverResetEff (e : Nat) (s : State) : State :=
  if !s.compute then s
  else
    let mine := s.jobs.filter (fun j => j.engines.contains e && j.st != .admitted)
    let s := s.resetJobs (fun j => j.st != .admitted && j.engines.contains e)
    (mine.foldl (fun st j => st.releasePins j) s).resetEngine e

def niResetEff (d : Nat) (s : State) : State :=
  if !s.compute then s
  else
    let has := fun (j : Job) => s.ni.occs.any (fun o => o.job == j.handle && o.die == d)
    (s.resetJobs has).resetNi d

/-- A channel is retrained; one that does not train is DOWN. Contents and counters stay. -/
def channelResetEff (st ch : Nat) (up : Bool) (s : State) : State :=
  if !s.compute then s
  else
    let p := s.physCh st ch
    let k := st * 132 + p
    let s := { s with stk := { s.stk with
      corrCh := mdel s.stk.corrCh k, corrRow := s.stk.corrRow.filter (fun c => c.1 / 2 ^ 20 != k) } }
    if !up then s.channelDownEff st ch
    else if s.chState st p = .down then s.setChannel st p .ok else s

/-- Group ports, Ethernet port and host port of a die (R16). -/
def dieGPorts (d : Nat) : List Nat := if d = 3 then [6] else [2 * d, 2 * d + 1]
def dieEPort (d : Nat) : List Nat := if d = 1 then [7] else if d = 3 then [8] else []
def dieHPort (d : Nat) : List Nat := if d = 0 then [0] else if d = 2 then [1] else []

/-- Everything on a die is reset; its jobs are quenched, and the slots they leave are retained first (R366). -/
def dieResetEff (d : Nat) (s : State) : State :=
  if !s.compute then s
  else
    let s := s.freezeForReset s.resetCause (0x500 + d)
    let hs := (s.jobs.filter (fun j => j.usesDie d)).map (fun j => j.handle)
    let s := (s.loseSets (fun x => x / 64 == d)).resetJobs (fun j => j.usesDie d)
    let s := hs.foldl (fun st h => if (st.findJob h).isSome then st.retainSlots h else st) s
    let s := s.clearDie d
    let s := { s with sched := s.sched.filter (fun c => c.1 / 1024 != d) }
    let s := (dieGPorts d ++ dieEPort d).foldl (fun st p => st.portResetEff p) s
    (dieHPort d).foldl (fun st p => st.departEff p true) s

/-- A module reset (R466): the compute domain and the set-up registers return to reset; stacks, retained slots and flash
stay; images are loaded and measured again. Without a good image of each kind the compute domain stays off. -/
def moduleResetEff (s : State) : State :=
  if s.power.off then s
  else
    let s := (s.freezeForReset s.resetCause 0x700).clearCompute true true true
    let s := { s with setup := s.setup.filter (fun c => inBlock 0x10000 0x1000 c.1) }
    let s := s.beatCfgWriteEff 0x271060
    let s := { s with setup := [], beat := { s.beat with cfgNew := none, delayNew := none }, power := { s.power with
      st := 0, target := 0, origin := 0, held := false, hot := false, latched := none, queued := [], inProgress := none
      pgFails := 0, therm := 0 } }
    match s.bootCompute with
    | (false, s) => s.setPower (fun p => { p with held := true, hot := true })
    | (true, s) =>
      let s := { s with obs := { s.obs with recFrozen := false, recorder := [] } }
      (s.setRecov (fun r => { r with recoveries := r.recoveries + 1 })).report 0x8042 0x700

/-- The unit of a declared job has not halted (R463). -/
def notHalted (s : State) (u : UnitId) (j : Job) : Bool :=
  j.st == .quenching && (j.cause == 0x8001 || j.cause == 0x8002) && j.holds u &&
    (s.threads.any (fun c => c.2.job == j.handle && !((c.2.st == .done || c.2.st == .halted) && c.2.outstanding == 0)
        && (match u with
          | .tile t => decide (c.1 < 7168) && c.1 / 28 == t.val
          | .solver e => decide (7168 ≤ c.1) && decide (c.1 < 7200) && (c.1 - 7168) / 2 == e.val
          | .update x => decide (7200 ≤ c.1) && (c.1 - 7200) / 4 == x.val
          | .ni _ => false
          | .die d => keyDie c.1 == d.val))
      || (match u with
        | .solver e => (s.slvEngine e.val).op.isSome
        | .ni d | .die d => s.ni.occs.any (fun o => o.job == j.handle && o.die == d.val)
        | _ => false))

/-- A unit still at work after a declared quench is reset in its domain, or with ESCALATE 0 only reported (R463). An
update unit has no domain of its own, so its die is reset. -/
def escalateEff (u : UnitId) (s : State) : State :=
  match s.jobs.find? (fun j => s.notHalted u j) with
  | none => s
  | some j =>
    if !s.flag (Regs.hangCfg (unitDie u)) 1 then s.report j.cause (unitLog u)
    else match u with
      | .tile t => s.tileResetEff t.val
      | .solver e => s.solverResetEff e.val
      | .update x => s.dieResetEff (x.val / 2)
      | .ni d => s.niResetEff d.val
      | .die d => s.dieResetEff d.val

/-! ### The summary of a second (R468) -/

/-- Log unit of a counted code's place: port, ring or die. -/
def countUnit (code place : Nat) : Nat :=
  if code = 0x4110 ∨ code = 0x4121 then 0x400 + (if place < 7 then place else place + 1)
  else if code = 0x1170 then 0x700 + place else 0x500 + place

/-- One entry for each counted code that rose; the recorder runs again, its copy to flash having completed (R467). -/
def logSummaryEff (s : State) : State :=
  if s.power.off then s
  else
    let s := s.obs.counted.foldl (fun st c =>
      if c.2 = 0 then st
      else st.log (BitVec.ofNat 16 (c.1 / 65536)) (countUnit (c.1 / 65536) (c.1 % 65536)) 0 (BitVec.ofNat 64 (min c.2 (2 ^ 64 - 1)))) s
    { s with obs := { s.obs with counted := [], recFrozen := false } }

end State

def execTileFault (t : Tile) (s : State) : Host.Outcome State Fault Refusal := .next (s.tileFaultEff t.val)
def execTileSpared (t : Tile) (measureOk selfTestOk : Bool) (s : State) : Host.Outcome State Fault Refusal :=
  .next (s.tileSparedEff t.val measureOk selfTestOk)
def execTileRetire (t : Tile) (s : State) : Host.Outcome State Fault Refusal := .next (s.tileRetireEff t.val)
def execUnitRetired (u : UnitId) (s : State) : Host.Outcome State Fault Refusal := .next (s.unitRetiredEff u)
def execPhaseFailed (rail : Fin 16) (s : State) : Host.Outcome State Fault Refusal := .next (s.phaseFailedEff rail.val)
def execLockstepMismatch (s : State) : Host.Outcome State Fault Refusal := .next s.lockstepEff
def execHangSample (s : State) : Host.Outcome State Fault Refusal := .next s.hangSampleEff
def execHangDeclared (handle : W32) (s : State) : Host.Outcome State Fault Refusal := .next (s.hangDeclaredEff handle)
def execStallDeclared (handle : W32) (s : State) : Host.Outcome State Fault Refusal := .next (s.stallDeclaredEff handle)
def execFabricQuiet (handle : W32) (s : State) : Host.Outcome State Fault Refusal := .next (s.fabricQuietEff handle)
def execEscalateReset (u : UnitId) (s : State) : Host.Outcome State Fault Refusal := .next (s.escalateEff u)
def execTileReset (t : Tile) (s : State) : Host.Outcome State Fault Refusal := .next (s.tileResetEff t.val)
def execSolverReset (e : Sys2Proof.Engine) (s : State) : Host.Outcome State Fault Refusal := .next (s.solverResetEff e.val)
def execNiReset (d : Die) (s : State) : Host.Outcome State Fault Refusal := .next (s.niResetEff d.val)
def execChannelReset (st : Stack) (ch : Fin 128) (up : Bool) (s : State) : Host.Outcome State Fault Refusal :=
  .next (s.channelResetEff st.val ch.val up)
def execDieReset (d : Die) (s : State) : Host.Outcome State Fault Refusal := .next (s.dieResetEff d.val)
def execModuleReset (s : State) : Host.Outcome State Fault Refusal := .next s.moduleResetEff
def execLogSummary (s : State) : Host.Outcome State Fault Refusal := .next s.logSummaryEff

end Sys2Proof.Machine
end

