-- ==== Sys2Proof/Machine/Observe.lean ====
section
/-! DEFINITION. Observation (spec/19_observation.md): Sillage samples (R510 to R512), queue-head snapshots (R513 to R515),
and what a write of the observation control registers does (R511, R512, R517, R518). -/

namespace Sys2Proof.Machine

/-- Bound threads of a unit that a sample records, as thread keys: a tile's by THREADS, every thread of a solver engine
or update unit (R510). -/
def sampledKeys (s : State) (u : UnitId) : List Nat :=
  let l := match u with
    | .tile t => ((List.range 28).filter (fun n => s.flag Regs.silCtrl (32 + n))).map (fun n => t.val * 28 + n)
    | .solver e => [7168 + e.val * 2, 7168 + e.val * 2 + 1]
    | .update x => (List.range 4).map (fun n => 7200 + x.val * 4 + n)
    | _ => []
  l.filter (fun k => (s.thread k).st != .free)

/-- One record of a queue-head snapshot (R513, R514). -/
structure SnapRec where
  die : Nat
  unit : Nat
  handle : W32
  qkind : Nat
  state : Nat
  reason : Nat
  waitKind : Nat
  thread : Nat
  holder : Nat
  cmdIndex : Nat
  waitAddr : Nat
  waitValue : Nat
  mask : Nat
  count : Nat
  key : Nat
deriving DecidableEq, Repr

/-- The 64 bytes of a snapshot record (R513, R514). -/
def SnapRec.bytes (r : SnapRec) (beat : W64) (seq : Nat) : List Byte :=
  leBytes 1 1 ++ leBytes 1 r.die ++ leBytes 2 r.unit ++ leBytes 4 0 ++ leBytes 8 beat.toNat ++ leBytes 4 r.handle.toNat
    ++ leBytes 4 seq
    ++ leBytes 1 r.qkind ++ leBytes 1 r.state ++ leBytes 1 r.reason ++ leBytes 1 r.waitKind ++ leBytes 1 r.thread ++ leBytes 3 0
    ++ leBytes 4 r.holder ++ leBytes 4 r.cmdIndex ++ leBytes 8 r.waitAddr ++ leBytes 4 r.waitValue ++ leBytes 4 r.mask
    ++ leBytes 4 r.count ++ leBytes 4 r.key

/-- HOLDER of a thread: die, KIND of R136, unit within the die, thread (R514). -/
def holderOf (k : Nat) : Nat :=
  let kind := match keyEngine k with | 1 => 1 | 2 => 2 | 3 => 3 | 4 => 6 | _ => 5
  let unit := if k < 7168 then k / 28 % 64 else if k < 7200 then (k - 7168) / 2 % 4 else (k - 7200) / 4 % 2
  keyDie k + kind * 4 + unit * 32 + keyIndex k * 2 ^ 13

/-- Die of a fabric port (R16). -/
def portDie (p : Nat) : Nat := if p < 7 then p / 2 else if p = 7 then 1 else 3

namespace State

/-! ### Samples (R510, R512) -/

/-- The unit is named by the Sillage set-up. -/
def silNames (s : State) (u : UnitId) : Bool :=
  match u with
  | .tile t => s.flag (Regs.silTiles (t.val / 64)) (t.val % 64)
  | .solver _ => s.flag Regs.silCtrl 2
  | .update _ => s.flag Regs.silCtrl 3
  | _ => false

/-- The unit's clock runs: tiles stand still in Idle and under a supply warning, every unit from Drydown of Sleep until
Run (R512). -/
def clockRuns (s : State) (u : UnitId) : Bool :=
  let tile := match u with | .tile _ => true | _ => false
  !s.power.off && !s.power.held &&
    (if s.power.st = 0 then !(tile && s.power.warn)
     else if s.power.st = 1 then !tile
     else if s.power.st = 4 then decide (s.power.target.toNat < 2)
     else if s.power.st = 5 then s.power.origin.toNat == 1 && !tile
     else false)

def silSampleEff (u : UnitId) (s : State) : State :=
  if !s.flag Regs.silCtrl 0 ∨ !s.silNames u ∨ !s.clockRuns u then s
  else
    let code := unitLog u
    let s := if s.obs.paused.contains code then
        let s := s.silRecord (unitDie u) 6 0 code .ready 0 0 0
        { s with obs := { s.obs with paused := s.obs.paused.filter (fun x => x != code) } }
      else s
    (sampledKeys s u).foldl (fun st k => st.silThread k 1 0) s

/-! ### Control registers (R511, R517, R518) -/

/-- A write of OBS.SIL_CTRL. LOG2_INT keeps its value while EN is 1; EN written 1 checks the whole ring first. -/
def silCtrlEff (v : Nat) (s : State) : State :=
  let old := s.regNat Regs.silCtrl
  let int := if bit old 0 then bits old 8 4 else bits v 8 4
  let s := s.setRegNat Regs.silCtrl
    ((if bit old 1 && !bit v 1 then 2 else 0) + bits v 3 2 * 4 + int * 16 + bits v 59 32 * 2 ^ 32)
  if !bit v 0 then s
  else
    let size := s.field Regs.silCfg 4 0
    if decide (12 ≤ size) && decide (size ≤ 28)
        && s.placementOk (s.field Regs.silCfg 6 5) (s.field Regs.silCfg 31 16) (s.regNat Regs.silBase) (32 * 2 ^ size) then
      s.setField Regs.silCtrl 0 0 1
    else s.setField Regs.silCtrl 1 1 1

/-- A write of SIL_RD beyond WR is discarded (R518). -/
def silRdEff (v : Nat) (s : State) : State :=
  let old := BitVec.ofNat 32 (s.regNat Regs.silRd)
  let wr := BitVec.ofNat 32 (s.regNat Regs.silWr)
  if (wr - old).toNat < (BitVec.ofNat 32 v - old).toNat then s else s.setRegNat Regs.silRd (v % 2 ^ 32)

/-- Registers that OBS.CTRL.CLEAR zeroes: the counters of R506 to R508, not the job slots. -/
def isCounter (o : Nat) : Bool :=
  inBlock Regs.obs 0x100000 o
    || (inBlock (Regs.obs + 0x100000) 0x40000 o && decide ((o - Regs.obs) % 0x10000 < 0xA00))
    || inBlock (Regs.obs + 0x200000) 0x10A00 o

/-- A write of OBS.CTRL: FREEZE is stored, a 1 in CLEAR zeroes the counters. -/
def obsCtrlEff (v : Nat) (s : State) : State :=
  let s := s.setRegNat Regs.obsCtrl (v % 2)
  if bit v 1 then s.dropRegs isCounter else s

/-! ### Snapshots (R513 to R515) -/

def snapBlank (die unit qkind : Nat) : SnapRec := ⟨die, unit, 0, qkind, 0, 0, 0, 0, 0, 0, 0, 0, 0, 0, 0⟩

/-- WAITKIND of a thread (R459). -/
def waitKind (s : State) (k : Nat) : Nat :=
  if !(s.edgesOf k).isEmpty then 1
  else match s.threadWait k with | .outside => 3 | .inside => 2 | .works => 0

def snapThread (s : State) (k : Nat) : SnapRec :=
  let t := s.thread k
  let w : Nat × Nat × Nat := match t.wait with
    | some w => (w.addr, (s.flagWord w.addr).toNat, w.mask.toNat)
    | none => (0, 0, 0)
  { snapBlank (keyDie k) (keyUnit k) (if k < 7168 then 1 else if k < 7200 then 2 else 3) with
    handle := t.job, state := t.st.code, reason := t.st.reason, waitKind := s.waitKind k, thread := Machine.keyIndex k
    holder := (match s.edgesOf k with | x :: _ => holderOf x | [] => 0), cmdIndex := t.pc / 32
    waitAddr := w.1, waitValue := w.2.1, mask := w.2.2 }

/-- The head of a job on an NI. -/
def snapHead (s : State) (j : Job) (d : Nat) : List SnapRec :=
  match s.headOcc j d with
  | none => []
  | some (round, ki) =>
    let w := s.headWait j d ki
    [{ snapBlank d 0x300 4 with
      handle := j.handle, state := if w = 0 then 0 else 1, reason := (match w with | 1 => 7 | 2 => 3 | _ => 0)
      waitKind := (match w with | 1 => 3 | 2 => 1 | _ => 0), holder := if w = 2 then d + 4 * 4 else 0
      cmdIndex := round % 2 ^ 32, key := (s.keyRec j ki).key.toNat }]

/-- The sends of an NI that wait. -/
def snapSends (s : State) (d : Nat) : List SnapRec :=
  (s.ni.occs.filter (fun o => o.die == d)).flatMap (fun o =>
    match s.findJob o.job with
    | none => []
    | some j => (o.armed.filter (fun a => a.fired.isSome && !a.complete && s.armedWait j o a == .outside)).map (fun a =>
        let r := s.trigRec a.recAt
        { snapBlank d 0x300 5 with
          handle := o.job, state := 1, reason := 6, waitKind := 3, count := r.peer, key := o.key.toNat }))

/-- The summary of an NI: its armed records, and counter and threshold of the first that has not fired. -/
def snapArmed (s : State) (d : Nat) : SnapRec :=
  let l := (s.ni.occs.filter (fun o => o.die == d)).flatMap (fun o =>
    (o.armed.filter (fun a => a.fired.isNone)).map (fun a => (o, s.trigRec a.recAt)))
  match l with
  | [] => snapBlank d 0x300 7
  | (o, r) :: _ =>
    { snapBlank d 0x300 7 with
      handle := o.job, state := 1, reason := 5, waitKind := 2, waitAddr := sharedAddr d r.ctr
      waitValue := s.rdNat (sharedAddr d r.ctr) 4, mask := r.thresh, count := l.length, key := o.key.toNat }

/-- The virtual channels of an UP group port. -/
def snapPort (s : State) (p : Nat) : List SnapRec :=
  let l := s.link p
  if l.st ≠ .up then [] else
  (List.range 6).map (fun vc =>
    let waits := l.held.any (fun f => f.vc == vc)
    { snapBlank (portDie p) (0x400 + portCode p) 6 with
      state := if waits then 1 else 0, waitKind := if waits then 3 else 0, thread := vc, count := l.credits.getD vc 0 })

/-- The records behind the header, in the order of R515. -/
def snapBody (s : State) : List SnapRec :=
  (((List.range 7232).filter (fun k => (s.thread k).st != .free)).map (fun k => s.snapThread k)
    ++ (List.range 4).flatMap (fun d => s.jobs.flatMap (fun j => if j.runs then s.snapHead j d else []) ++ s.snapSends d)
    ++ (List.range 4).map (fun d => s.snapArmed d)
    ++ (List.range 7).flatMap (fun p => s.snapPort p)).take 8191

/-- Write the records one after another; the first write that fails its check sets FAILED and ends the snapshot. -/
def snapWrite (a seq : Nat) (rs : List SnapRec) (s : State) : State :=
  match rs with
  | [] => s
  | r :: rest =>
    let dest := s.field Regs.snapCfg 1 0
    if s.placementOk dest (s.field Regs.snapCfg 31 16) a 64 then
      let r := if s.redacts dest r.handle then { r with waitValue := 0 } else r
      (s.save a (r.bytes s.beat.pos seq)).snapWrite (a + 64) (seq + 1) rest
    else s.setField Regs.snapCtrl 2 2 1

/-- A write of OBS.SNAP_CTRL. The whole snapshot is taken at once, so BUSY always reads 0. -/
def snapCtrlEff (v : Nat) (s : State) : State :=
  let s := if bit v 2 then s.setField Regs.snapCtrl 2 2 0 else s
  if !bit v 0 then s
  else
    let body := s.snapBody
    s.snapWrite (s.regNat Regs.snapBase) 0 ({ snapBlank 0xFF 0x700 0 with count := body.length } :: body)

end State

def execSillageSample (u : UnitId) (s : State) : Host.Outcome State Fault Refusal := .next (s.silSampleEff u)

end Sys2Proof.Machine
end

