-- ==== Sys2Proof/Machine/Mgmt.lean ====
section
/-! DEFINITION. Management and security (spec/18_management_and_security.md, R475 to R502): who may ask, configuration
records and the lifecycle, debug sessions, the log, SPDM, and firmware. -/

namespace Sys2Proof.Machine

/-- DOMAIN and UNIT of an error-log entry (R468) from a log unit: a tile, 0x100 + a solver engine, 0x200 + an update
unit, 0x300 + an NI, 0x400 + a port, 0x500 + a die, 0x600 + a stack, 0x700 the module. -/
def logPlace (u : Nat) : Nat × Nat :=
  let d := match u / 256 with | 0 => 2 | 1 => 3 | 2 => 4 | 3 => 5 | 4 => 7 | 5 => 1 | 6 => 6 | _ => 0
  (d, u % 256)

def crcStep (n : Nat) (c : W32) : W32 :=
  match n with
  | 0 => c
  | k + 1 => crcStep k (if c &&& 1 = 1 then (c >>> 1) ^^^ 0xEDB88320 else c >>> 1)

/-- CRC-32 of an error-log entry (R468). PRESUMED: the polynomial and form of IEEE 802.3. -/
def crc32 (bs : List Byte) : W32 := ~~~(bs.foldl (fun c b => crcStep 8 (c ^^^ b.zeroExtend 32)) 0xFFFFFFFF)

/-- The 32 bytes of an error-log entry (R468). -/
def LogRec.entry (r : LogRec) : List Byte :=
  let b := leBytes 2 r.code.toNat ++ leBytes 1 (logPlace r.unit).1 ++ leBytes 1 (logPlace r.unit).2 ++ leBytes 4 r.handle.toNat
    ++ leBytes 8 r.beat.toNat ++ leBytes 8 r.detail.toNat ++ leBytes 4 r.seq.toNat
  b ++ leBytes 4 (crc32 b).toNat

/-- The 64 bytes of a flight-recorder record (R467, R513). Its payload begins with DETAIL; R467 lays down no more of it. -/
def LogRec.dumpEntry (r : LogRec) : List Byte :=
  leBytes 1 r.kind ++ leBytes 1 (if (logPlace r.unit).1 = 0 then 0xFF else (logPlace r.unit).2 % 4) ++ leBytes 2 r.unit
    ++ leBytes 2 r.code.toNat ++ leBytes 2 0 ++ leBytes 8 r.beat.toNat ++ leBytes 4 r.handle.toNat ++ leBytes 4 r.seq.toNat
    ++ leBytes 8 r.detail.toNat ++ (List.range 32).map (fun i => Config.freeByte r.seq.toNat (64 + i))

namespace State

def setMgmt (f : Mgmt → Mgmt) (s : State) : State := { s with mgmt := f s.mgmt }

/-! ### Who may ask (R475, R478) -/

/-- The management controller runs: not in Off, and only where a management image booted (R475, R485). -/
def mgmtUp (s : State) : Bool := !s.power.off && !s.power.leak && !s.mgmt.noImage

/-- The message comes from I3C or inside a secured session of a requester that R478 accepts. -/
def authorised (s : State) (via : MsgVia) : Bool :=
  match via with
  | .i3c => true
  | .ethernet => false
  | .secured x => mget s.mgmt.spdm.sessions x.toNat false

def answer (code : W16) (data : List Byte) (s : State) : State := s.out (.answer code data)

/-- A refusal with DEBUG_DENIED. -/
def deny (s : State) : State := (s.report 0x7303 0x700).answer 0x7303 []

/-- A message for the management controller: `open_` marks what every source may ask. -/
def onMsg (via : MsgVia) (open_ : Bool) (f : State → State) (s : State) : State :=
  if !s.mgmtUp then s else if open_ || s.authorised via then f s else s.deny

def debugLevel (s : State) : Nat := match s.mgmt.debug with | some d => d.level.toNat | none => 0

/-! ### The log (R468, R479) -/

/-- LOG_READ: an entry of the error log by its sequence number, or a crash dump by its age; dumps need OBSERVE. -/
def logReadEff (via : MsgVia) (dumps : Bool) (index : Nat) (s : State) : State :=
  s.onMsg via (!dumps) (fun s =>
    if dumps then
      if s.debugLevel = 0 then s.deny
      else s.answer 0 ((s.obs.dumps.getD index []).flatMap (fun r => r.dumpEntry))
    else match s.obs.log.find? (fun r => r.seq.toNat == index) with
      | some r => s.answer 0 r.entry
      | none => s.answer 0 [])

/-! ### Configuration records and the lifecycle (R482, R483, R492, R493) -/

/-- A running job ends at once: its threads stop with nothing outstanding, and its stores are zeroed. -/
def forceEnd (h : W32) (s : State) : State :=
  let s := s.quenchNow h 0x1401
  match s.findJob h with
  | none => s
  | some j =>
    let keys := jobKeys j
    let s := s.haltUnit (fun k => keys.contains k)
    let s := { s with
      matrix := { s.matrix with
        osDrain := s.matrix.osDrain.filter (fun c => c.2.job != h), fused := s.matrix.fused.filter (fun f => f.job != h) }
      enf := s.enf.filter (fun c => c.2.job != h)
      upd := { s.upd with inflight := s.upd.inflight.filter (fun x => !keys.contains x.1) } }
    s.jobZeroedEff h

/-- Entering RETURN (R493): stacks, on-chip stores, staging, the dump SRAM and the dumps are zeroed, the dies' helper
data and the owner are erased. The error log and the identity key stay. -/
def enterReturn (s : State) : State :=
  { s with
    mem := []
    images := []
    store := { s.store with poison := [], dcache := [], listLines := [] }
    stk := { s.stk with poison := [], filled := [] }
    ni := { s.ni with valid := [] }
    upd := { s.upd with retained := [] }
    obs := { s.obs with recorder := [], dumps := [] }
    mgmt := { s.mgmt with ownerKey := false, records := mdel s.mgmt.records 2, recDigests := mdel s.mgmt.recDigests 2 } }

/-- Signers of each record kind in the lifecycle state (R483, R492): 0 Adeys, 1 owner, 2 module. -/
def signerOk (s : State) (r : ConfigRecord) : Bool :=
  let g := r.signer.toNat
  let owner := g == 1 && s.mgmt.ownerKey
  match r.kind.toNat with
  | 1 => g == 0 && s.mgmt.lifecycle == 0
  | 2 | 4 => g == 0 || owner
  | 3 => owner
  | 5 => match s.mgmt.lifecycle.toNat with | 0 | 2 => g == 0 | _ => g == 0 || owner
  | 6 => g == 2
  | _ => false

/-- A transition of the lifecycle that R492 lists, with its condition. -/
def lifecycleOk (s : State) (payload : List Byte) : Bool :=
  let target := (payload.getD 0 0).toNat
  match s.mgmt.lifecycle.toNat with
  | 0 => target == 1 && (s.mgmt.ownerKey || !Config.ownerRequired)
  | 1 => target == 2 && (s.jobs.isEmpty || payload.getD 1 0 == 1)
  | 2 => target == 0
  | _ => false

def changeLifecycle (payload : List Byte) (s : State) : State :=
  let target := (payload.getD 0 0).toNat
  let s := if target = 2 then (s.jobs.foldl (fun st j => st.forceEnd j.handle) s).enterReturn else s
  ((s.setMgmt (fun m => { m with lifecycle := BitVec.ofNat 2 target })).report 0x7401 0x700).endDebug false

/-- What an accepted record changes at once (R483). -/
def applyRecord (r : ConfigRecord) (s : State) : State :=
  match r.kind.toNat with
  | 2 => s.setMgmt (fun m => { m with ownerKey := true })
  | 3 =>
    let id := BitVec.ofNat 32 (leNat (r.payload.take 4))
    { s.setMgmt (fun m => { m with sysId := id }) with fabric := { s.fabric with sysId := id } }
  | 4 => s.setMgmt (fun m => { m with rtc := BitVec.ofNat 64 (leNat (r.payload.take 8) % 2 ^ 63), rtcValid := true })
  | 5 => s.changeLifecycle r.payload
  | _ => s

/-- RECORD: the checks of R483, then the record is stored, its counter raised, M3 extended and the record applied. -/
def recordEff (via : MsgVia) (r : ConfigRecord) (s : State) : State :=
  s.onMsg via false (fun s =>
    let k := r.kind.toNat
    if !(r.sigOk && s.signerOk r && r.serial == s.mgmt.serial && decide (mget s.mgmt.counters k 0 < r.counter) && r.wellFormed
        && (k != 5 || s.lifecycleOk r.payload)) then
      (s.report 0x7103 0x700).answer 0x7103 []
    else
      let s := (s.setMgmt (fun m => { m with
        counters := mset m.counters k r.counter, records := mset m.records k r.payload
        recDigests := mset m.recDigests k r.digest })).measure 3 r.digest
      (s.applyRecord r).answer 0 [])

/-! ### Debug sessions (R494 to R498) -/

/-- The power state lets a session open: Run, Idle and Sleep, not once Deep sleep or Off is being entered (R497, R498). -/
def debugPower (s : State) : Bool :=
  !s.power.held && (decide (s.power.st.toNat < 3) || (s.power.st == 4 && decide (s.power.target.toNat < 3))
    || (s.power.st == 5 && decide (s.power.origin.toNat < 3)))

def challengeEff (via : MsgVia) (s : State) : State :=
  s.onMsg via false (fun s =>
    let c := Config.freshNonce s.freeCtr
    ((s.tick).setMgmt (fun m => { m with challenge := some c })).answer 0 (digestBytes c))

/-- A certificate's chain, signature and fields hold, and its issuer may open a session in this lifecycle state. -/
def certOk (s : State) (c : DebugCert) : Bool :=
  c.chainOk && (c.level == 1 || c.level == 2) && decide (60 ≤ c.maxSeconds.toNat) && decide (c.maxSeconds.toNat ≤ 86400)
    && (!c.ownerIssued || (s.mgmt.lifecycle == 1 && s.mgmt.ownerKey))

/-- SCOPE names this module, or, for OBSERVE and in MANUFACTURE, any module. -/
def scopeOk (s : State) (c : DebugCert) : Bool :=
  c.scope == s.mgmt.serial || (c.scope == 0 && (c.level == 1 || s.mgmt.lifecycle == 0))

def debugOpenEff (via : MsgVia) (c : DebugCert) (s : State) : State :=
  s.onMsg via false (fun s =>
    match via with
    | .secured _ =>
      let fresh := s.mgmt.challenge == some c.challenge
      let s := s.setMgmt (fun m => { m with challenge := none })
      let fail := fun (code : W16) (s : State) => (s.report code 0x700).answer code []
      if !fresh ∨ !s.certOk c then fail 0x7301 s
      else if !s.mgmt.rtcValid ∨ s.mgmt.rtc < c.notBefore ∨ c.notAfter < s.mgmt.rtc then fail 0x7302 s
      else if !s.scopeOk c ∨ (s.mgmt.debug).isSome ∨ !s.debugPower then s.deny
      else ((s.setMgmt (fun m => { m with debug := some ⟨c.level, c.ownerIssued, c.maxSeconds, via⟩ })).measure 3 c.digest).answer 0 []
    | _ => s.deny)

def debugCloseEff (via : MsgVia) (s : State) : State :=
  s.onMsg via false (fun s => if (s.mgmt.debug).isNone then s.deny else (s.endDebug false).answer 0 [])

/-- What a FULL access may reach (R496): stacked memory and on-chip stores, in Run and Idle. -/
def debugReach (s : State) (a n : Nat) : Bool :=
  decide (64 ≤ n) && decide (n ≤ 4096) && !s.power.held && decide (s.power.st.toNat < 2)
    && (List.range n).all (fun i => match placeOf (a + i) with
      | .stack _ _ | .scratch _ _ | .tbuf _ _ | .shared _ _ | .staging _ _ => true
      | _ => false)

/-- The power of the banks and the channels behind an extent (R145, R174); region and ownership are not checked. -/
def debugAcc (s : State) (a n : Nat) : Acc :=
  match placeOf a with
  | .stack _ _ => s.channelAcc a n
  | p => match bankOf p with | some b => s.bankAcc b | none => .ok

def memAccess (via : MsgVia) (a n : Nat) (f : State → State) (s : State) : State :=
  s.onMsg via false (fun s =>
    if s.debugLevel ≠ 2 ∨ !s.debugReach a n then s.deny
    else match s.debugAcc a n with
      | .bad c => s.answer c []
      | _ => f s)

def memReadEff (via : MsgVia) (a n : Nat) (s : State) : State := s.memAccess via a n (fun s => s.answer 0 (s.load a n))
def memWriteEff (via : MsgVia) (a : Nat) (data : List Byte) (s : State) : State :=
  s.memAccess via a data.length (fun s => (s.save a data).answer 0 [])

/-- A command on the console is taken in MANUFACTURE or while a FULL session is open (R477). -/
def consoleEff (text : List Byte) (s : State) : State :=
  if s.mgmtUp ∧ (s.mgmt.lifecycle = 0 ∨ s.debugLevel = 2) then s.out (.console text) else s

/-! ### SPDM (R487) -/

def setSpdm (f : Spdm → Spdm) (s : State) : State := s.setMgmt (fun m => { m with spdm := f m.spdm })

/-- A request answered in its turn; any other is answered with the standard's ERROR. PRESUMED: response code 0x7F, and
the standard's order of negotiation. -/
def onSpdm (need : Nat) (ok : Bool) (f : State → State) (s : State) : State :=
  if !s.mgmtUp then s else if decide (need ≤ s.mgmt.spdm.stage) && ok then f s else s.answer 0 [0x7F]

/-- A slot holds a chain: 0 the module's, 1 to 4 the dies', empty while the helper data is erased (R481, R493). -/
def slotFull (s : State) (slot : Nat) : Bool := slot == 0 || (decide (slot ≤ 4) && s.mgmt.lifecycle != 2)

def chainHash (slot : Nat) : List Byte := Sha.bytes (Config.chainBytes slot)

/-- Measurement blocks 1 to 18. -/
def measBlock (s : State) (i : Nat) : List Byte :=
  if i ≤ 16 then digestBytes (mget s.mgmt.meas (i - 1) 0)
  else if i = 17 then leBytes 1 s.mgmt.lifecycle.toNat ++ leBytes 1 s.debugLevel
    ++ leBytes 1 (match s.mgmt.debug with | some d => if d.owner then 1 else 0 | none => 0)
  else [0, 1, 2].flatMap (fun k => match s.fwBank k (s.bankOfKind k) with
    | some b => leBytes 4 b.version.toNat ++ leBytes 2 b.svn.toNat
    | none => leBytes 6 0)

/-- A signature of a slot's key over what was asked and answered. -/
def signed (slot : Nat) (nonce : BitVec 256) (data : List Byte) : List Byte :=
  data ++ (leBytes 64 (Config.slotSign slot (Sha.digest (digestBytes nonce ++ data))).toNat).reverse

def getMeasEff (index : Nat) (sign : Bool) (nonce : BitVec 256) (s : State) : State :=
  s.onSpdm 3 (decide (index ≤ 18) || index == 255) (fun s =>
    let d := if index = 0 then [(18 : Byte)]
      else if index = 255 then ((List.range 18).map (fun i => i + 1)).flatMap (fun i => s.measBlock i)
      else s.measBlock index
    s.answer 0 (if sign then signed 0 nonce d else d))

/-- Session requests are answered on Ethernet only. -/
def onSession (via : MsgVia) (f : State → State) (s : State) : State :=
  match via with
  | .i3c => s
  | _ => f s

def keyExchangeEff (via : MsgVia) (x : Nat) (s : State) : State :=
  s.onSession via (fun s => s.onSpdm 3 (!(s.mgmt.spdm.pendingKeys.contains x) && (mfind s.mgmt.spdm.sessions x).isNone) (fun s =>
    (s.setSpdm (fun p => { p with pendingKeys := x :: p.pendingKeys })).answer 0 []))

/-- FINISH opens the session; its messages are accepted where the requester's certificate is chained to the owner key, or
in MANUFACTURE and RETURN to the Adeys root (R478). -/
def finishEff (via : MsgVia) (x : Nat) (owner adeys : Bool) (s : State) : State :=
  s.onSession via (fun s => s.onSpdm 3 (s.mgmt.spdm.pendingKeys.contains x) (fun s =>
    let auth := (owner && s.mgmt.ownerKey) || (adeys && s.mgmt.lifecycle != 1)
    (s.setSpdm (fun p => { p with pendingKeys := p.pendingKeys.filter (fun k => k != x), sessions := mset p.sessions x auth })).answer 0 []))

/-- A session is gone, and with it the debug session opened through it (R495). -/
def dropSession (x : Nat) (s : State) : State :=
  let s := s.setSpdm (fun p => { p with sessions := mdel p.sessions x })
  match s.mgmt.debug with
  | some d => (match d.via with | .secured y => if y.toNat = x then s.endDebug false else s | _ => s)
  | none => s

def endSessionEff (via : MsgVia) (x : Nat) (s : State) : State :=
  s.onSession via (fun s => s.onSpdm 3 (mfind s.mgmt.spdm.sessions x).isSome (fun s => (s.dropSession x).answer 0 []))

def spdmBeatEff (via : MsgVia) (x : Nat) (s : State) : State :=
  s.onSession via (fun s => s.onSpdm 3 (mfind s.mgmt.spdm.sessions x).isSome (fun s => s.answer 0 []))

def spdmMissedEff (x : Nat) (s : State) : State :=
  if s.mgmtUp ∧ (mfind s.mgmt.spdm.sessions x).isSome then s.dropSession x else s

/-! ### Firmware (R486, R488 to R491) -/

/-- An image is written to the inactive bank of its kind and verified (R488, R489). -/
def firmwareEff (via : MsgVia) (kind : Nat) (i : FwImage) (s : State) : State :=
  s.onMsg via false (fun s =>
    let ok := i.sigOk && decide (mget s.mgmt.minSvn kind 0 ≤ i.svn)
    let s := s.setMgmt (fun m => { m with banks := mset m.banks (kind * 2 + (1 - s.bankOfKind kind)) ⟨i.version, i.svn, i.digest, ok⟩ })
    if ok then s.answer 0 [] else (s.report 0x7102 0x700).answer 0x7102 [])

/-- Units that an image of the kind serves: 1 the tiles, update units and network interfaces; 2 the solver engines. -/
def imageUnits (s : State) (kind : Nat) : List UnitId :=
  let serves := fun (u : UnitId) => match u with
    | .tile t => !s.recov.lost.contains t.val
    | u => (match retireCode u with | some c => !s.recov.retiredUnits.contains c | none => false)
  ((if kind = 1 then (List.finRange 256).map UnitId.tile ++ (List.finRange 8).map UnitId.update ++ (List.finRange 4).map UnitId.ni
    else (List.finRange 16).map UnitId.solver)).filter serves

/-- The inactive bank holds an image that may run. -/
def nextImage (s : State) (kind : Nat) : Option FwBank :=
  match s.fwBank kind (1 - s.bankOfKind kind) with
  | some b => if b.valid && decide (mget s.mgmt.minSvn kind 0 ≤ b.svn) then some b else none
  | none => none

def swapBank (kind : Nat) (s : State) : State :=
  s.setMgmt (fun m => { m with active := mset m.active kind (1 - mget m.active kind 0) })

/-- Activation of a compute image: its measurement is extended, free units run it at once, and units that a job holds or
waits for reload when the last of the jobs admitted before lets them go. -/
def activateUnits (kind : Nat) (ok : Bool) (s : State) : State :=
  match s.nextImage kind with
  | some b =>
    if !ok then (s.report 0x7102 0x700).report 0x8050 0x700
    else
      let late := (s.imageUnits kind).filter (fun u => s.jobs.any (fun j => j.holds u))
      ((s.swapBank kind).measure (3 + kind) b.digest).setMgmt (fun m => { m with
        reloads := m.reloads ++ late.map (fun u => (⟨kind, u, s.nextHandle, false⟩ : Reload)) })
  | none => (s.report 0x7102 0x700).report 0x8050 0x700

/-- The management domain restarts on the other bank; where that image does not start the old one boots. -/
def activateMgmt (ok : Bool) (s : State) : State :=
  if ok then (s.swapBank 0).restartMgmt else (s.restartMgmt).report 0x8050 0x700

/-- The kinds that a commit asked for and this command names are activated (R490). -/
def activateEff (mask : BitVec 3) (ok : Bool) (s : State) : State :=
  let m := (mask &&& s.mgmt.activate).toNat
  if m = 0 ∨ !s.mgmtUp then s
  else
    let s := s.setMgmt (fun g => { g with activate := g.activate &&& ~~~mask })
    let s := if bit m 1 then s.activateUnits 1 ok else s
    let s := if bit m 2 then s.activateUnits 2 ok else s
    if bit m 0 then s.activateMgmt ok else s

/-- A unit fails its self-test (R456, R486). -/
def unitFails (u : UnitId) (s : State) : State :=
  match u with
  | .tile t => s.tileFaultEff t.val
  | u => s.unitRetiredEff u

/-- A unit that no job admitted before the commit holds or waits for is reloaded; a digest that does not match is loaded
once more (R486, R490). -/
def unitReloadEff (kind : Nat) (u : UnitId) (measureOk : Bool) (s : State) : State :=
  match s.mgmt.reloads.find? (fun r => r.kind == kind && r.unit == u) with
  | none => s
  | some r =>
    if s.jobs.any (fun j => decide (j.handle < r.mark) && j.holds u) then s
    else
      let drop := fun (s : State) => s.setMgmt (fun m => { m with reloads := m.reloads.erase r })
      if measureOk then drop s
      else
        let s := s.report 0x7101 (unitLog u)
        if r.failed then (drop s).unitFails u
        else s.setMgmt (fun m => { m with reloads := m.reloads.map (fun x => if x = r then { x with failed := true } else x) })

/-- A write of MGT.FW_CTRL (R490, R491, R500). ACTIVATE takes effect only where an Accord commit makes the write. -/
def fwCtrlEff (staged : Bool) (v : Nat) (s : State) : State :=
  if !staged ∧ bits v 2 0 ≠ 0 then s
  else
    let s := s.setRegNat Regs.fwCtrl (v % 2 ^ 32 &&& 0x77)
    let s := [0, 1, 2].foldl (fun st k =>
      if bit v (4 + k) then match st.fwBank k (st.bankOfKind k) with
        | some b => st.setMgmt (fun m => { m with minSvn := mset m.minSvn k (if mget m.minSvn k 0 < b.svn then b.svn else mget m.minSvn k 0) })
        | none => st
      else st) s
    s.setMgmt (fun m => { m with activate := m.activate ||| BitVec.ofNat 3 v })

/-! ### What the registers read (R499 to R501) -/

def mgtStatusValue (s : State) : Nat :=
  s.mgmt.lifecycle.toNat + (if s.mgmt.rtcValid then 4 else 0) + s.bankOfKind 0 * 8 + s.bankOfKind 1 * 16 + s.bankOfKind 2 * 32
    + (if s.mgmt.reloads.isEmpty then 0 else 64) + s.mgmt.serial.toNat % 2 ^ 32 * 2 ^ 32

def fwValue (s : State) (kind : Nat) : Nat :=
  (match s.fwBank kind (s.bankOfKind kind) with | some b => b.version.toNat + b.svn.toNat * 2 ^ 32 | none => 0)
    + (mget s.mgmt.minSvn kind 0).toNat * 2 ^ 48

def secDebugValue (s : State) : Nat :=
  match s.mgmt.debug with
  | some d => d.level.toNat + (if d.owner then 4 else 0) + d.remain.toNat * 2 ^ 32
  | none => 0

def rtcValue (s : State) : Nat := s.mgmt.rtc.toNat % 2 ^ 63 + (if s.mgmt.rtcValid then 2 ^ 63 else 0)

end State

def execRecord (via : MsgVia) (r : ConfigRecord) (s : State) : Host.Outcome State Fault Refusal := .next (s.recordEff via r)
def execLogRead (via : MsgVia) (dumps : Bool) (index : W32) (s : State) : Host.Outcome State Fault Refusal :=
  .next (s.logReadEff via dumps index.toNat)
def execDebugChallenge (via : MsgVia) (s : State) : Host.Outcome State Fault Refusal := .next (s.challengeEff via)
def execDebugOpen (via : MsgVia) (c : DebugCert) (s : State) : Host.Outcome State Fault Refusal := .next (s.debugOpenEff via c)
def execDebugClose (via : MsgVia) (s : State) : Host.Outcome State Fault Refusal := .next (s.debugCloseEff via)
def execDebugSessionExpire (s : State) : Host.Outcome State Fault Refusal := .next (s.endDebug true)
def execMemRead (via : MsgVia) (addr : W64) (length : W16) (s : State) : Host.Outcome State Fault Refusal :=
  .next (s.memReadEff via addr.toNat length.toNat)
def execMemWrite (via : MsgVia) (addr : W64) (data : List Byte) (s : State) : Host.Outcome State Fault Refusal :=
  .next (s.memWriteEff via addr.toNat data)
def execGetVersion (_via : MsgVia) (s : State) : Host.Outcome State Fault Refusal :=
  .next (s.onSpdm 0 true (fun s => (s.setSpdm (fun p => { p with stage := 1 })).answer 0 [0x12]))
def execGetCapabilities (_via : MsgVia) (s : State) : Host.Outcome State Fault Refusal :=
  .next (s.onSpdm 1 true (fun s => (s.setSpdm (fun p => { p with stage := max p.stage 2 })).answer 0 []))
def execNegotiateAlgorithms (_via : MsgVia) (p256 sha256 secp256r1 aes256gcm : Bool) (s : State) : Host.Outcome State Fault Refusal :=
  .next (s.onSpdm 2 (p256 && sha256 && secp256r1 && aes256gcm) (fun s => (s.setSpdm (fun p => { p with stage := 3 })).answer 0 []))
def execGetDigests (_via : MsgVia) (s : State) : Host.Outcome State Fault Refusal :=
  .next (s.onSpdm 3 true (fun s => s.answer 0 (((List.range 5).filter (fun i => s.slotFull i)).flatMap State.chainHash)))
def execGetCertificate (_via : MsgVia) (slot : Fin 8) (s : State) : Host.Outcome State Fault Refusal :=
  .next (s.onSpdm 3 (s.slotFull slot.val) (fun s => s.answer 0 (Config.chainBytes slot.val)))
def execChallenge (_via : MsgVia) (slot : Fin 8) (nonce : BitVec 256) (s : State) : Host.Outcome State Fault Refusal :=
  .next (s.onSpdm 3 (s.slotFull slot.val) (fun s =>
    s.tick.answer 0 (State.signed slot.val nonce (State.chainHash slot.val ++ State.digestBytes (Config.freshNonce s.freeCtr)))))
def execGetMeasurements (_via : MsgVia) (index : BitVec 8) (sign : Bool) (nonce : BitVec 256) (s : State) : Host.Outcome State Fault Refusal :=
  .next (s.getMeasEff index.toNat sign nonce)
def execKeyExchange (via : MsgVia) (session : W32) (s : State) : Host.Outcome State Fault Refusal := .next (s.keyExchangeEff via session.toNat)
def execFinish (via : MsgVia) (session : W32) (ownerChained adeysChained : Bool) (s : State) : Host.Outcome State Fault Refusal :=
  .next (s.finishEff via session.toNat ownerChained adeysChained)
def execEndSession (via : MsgVia) (session : W32) (s : State) : Host.Outcome State Fault Refusal := .next (s.endSessionEff via session.toNat)
def execSpdmHeartbeat (via : MsgVia) (session : W32) (s : State) : Host.Outcome State Fault Refusal := .next (s.spdmBeatEff via session.toNat)
def execFirmwareUpdate (via : MsgVia) (kind : Fin 3) (i : FwImage) (s : State) : Host.Outcome State Fault Refusal :=
  .next (s.firmwareEff via kind.val i)
def execActivate (mask : BitVec 3) (ok : Bool) (s : State) : Host.Outcome State Fault Refusal := .next (s.activateEff mask ok)
def execUnitReload (kind : Fin 3) (u : UnitId) (measureOk : Bool) (s : State) : Host.Outcome State Fault Refusal :=
  .next (s.unitReloadEff kind.val u measureOk)
def execSpdmHeartbeatMissed (session : W32) (s : State) : Host.Outcome State Fault Refusal := .next (s.spdmMissedEff session.toNat)
def execConsoleCommand (text : List Byte) (s : State) : Host.Outcome State Fault Refusal := .next (s.consoleEff text)

end Sys2Proof.Machine
end

