-- ==== Sys2Proof/Machine/Setup.lean ====
section
/-! DEFINITION. The set-up space (R8 to R11, R82, R397, R398, R412, R442): what each register reads, which writes
are discarded or refused, and what a write does. Machine/Accord.lean holds transactions and the commands. -/

namespace Sys2Proof.Machine

/-! ### Registers with a rule of their own -/

/-- A register by what a write of it does; every register without a rule of its own is `plain`. -/
inductive RegName where
  | ringBase (p n : Nat) (cq : Bool)
  | ringDb (p n : Nat)
  | sqCfg (p n : Nat)
  | cqCfg (p n : Nat)
  | ringStatus (p n : Nat)
  | portStatus (p : Nat)
  | adopt (p : Nat)
  | accordCmd (c : Nat)
  | accordBeat (c : Nat)
  | accordStatus (c : Nat)
  | accordBad (c : Nat)
  | beatCfg | beatDelay | beatCtrl | beatStatus | beatPos | beatInterval
  | updStatus (u : Nat)
  | retain (d : Nat)
  | retainQ (d : Nat)
  | portCtrl (p : Nat)
  | fabStatus (p : Nat)
  | credit (p : Nat)
  | strap | ethPrefix | ethCfg
  | topo (t : Nat)
  | pwrState | pwrReq | pwrPlan
  | memErrLog | scrubCfg
  | region (n : Nat) (hi : Bool)
  | stkStatus (s : Nat)
  | chRemap (s : Nat)
  | mgtStatus
  | fw (k : Nat)
  | fwCtrl
  | meas (i k : Nat)
  | secDebug | rtc
  | hangStatus (d : Nat)
  | spares (d : Nat)
  | dieReset (d : Nat)
  | owner (bank : Nat)
  | bankPwr (first : Nat)
  | memCompat (t : Nat)
  | niHead (d : Nat)
  | niFree (d : Nat)
  | gnsB (d l : Nat)
  | slvStatus (e : Nat)
  | pin (d i : Nat)
  | enfEpoch (t : Nat)
  | setStatus (t : Nat)
  | obsCtrl | silCtrl | silSet | silRd | snapCtrl
  | fault
  | plain
deriving DecidableEq, Repr

namespace RegName

def ofHif (o : Nat) : RegName :=
  if o < 0x4000 then
    let p := o / 0x2000
    let r := o % 0x2000
    let n := r / 0x40
    if r < 0x1000 then
      match r % 0x40 with
      | 0x00 => .ringBase p n false
      | 0x08 => .ringBase p n true
      | 0x10 => .ringDb p n
      | 0x18 => .sqCfg p n
      | 0x1C => .cqCfg p n
      | _ => .ringStatus p n
    else if r = 0x1008 then .portStatus p
    else if r = 0x100C then .adopt p
    else .plain
  else if o < 0x40C0 then
    let c := (o - 0x4000) / 0x40
    match o % 0x40 with
    | 0x00 => .accordCmd c
    | 0x08 => .accordBeat c
    | 0x10 => .accordStatus c
    | _ => .accordBad c
  else .fault

def ofBeat (o : Nat) : RegName :=
  match o with
  | 0x00 => .beatCfg
  | 0x04 => .beatDelay
  | 0x08 => .beatCtrl
  | 0x0C => .beatStatus
  | 0x10 => .beatPos
  | 0x18 => .beatInterval
  | _ => .plain

def ofUpd (o : Nat) : RegName :=
  if o < 0x200 then (if o % 0x40 = 0 then .updStatus (o / 0x40) else .fault)
  else if o < 0x440 then .retain ((o - 0x400) / 8) else .retainQ ((o - 0x440) / 8)

def ofFab (o : Nat) : RegName :=
  if o < 0x1000 then
    let p := if o < 0x800 then o / 0x100 else 7 + (o - 0x800) / 0x100
    match o % 0x100 with
    | 0x00 => .portCtrl p
    | 0x08 => .fabStatus p
    | 0x18 => .credit p
    | _ => .plain
  else if o = 0x1000 then .strap
  else if o = 0x1010 then .fault
  else if o = 0x1040 then .ethPrefix
  else if o = 0x1048 then .ethCfg
  else if 0x1100 ≤ o then .topo ((o - 0x1100) / 8)
  else .plain

def ofMem (o : Nat) : RegName :=
  if o = 0x10 then .memErrLog
  else if o = 0 then .scrubCfg
  else if 0x1000 ≤ o ∧ o < 0x1400 then .region ((o - 0x1000) / 16) (o % 16 == 8)
  else if 0x4000 ≤ o then
    (if o % 0x400 = 0 then .stkStatus ((o - 0x4000) / 0x400) else .chRemap ((o - 0x4000) / 0x400))
  else .plain

def ofObs (o : Nat) : RegName :=
  if o = 0x300000 then .obsCtrl
  else if o = 0x300008 then .silCtrl
  else if o = 0x300010 ∨ o = 0x300018 ∨ (0x300040 ≤ o ∧ o < 0x300060) then .silSet
  else if o = 0x300028 then .silRd
  else if o = 0x300088 then .snapCtrl
  else .plain

def ofTil (t r : Nat) : RegName :=
  if 0x100 ≤ r ∧ r < 0x180 then .owner (t * 16 + (r - 0x100) / 8)
  else if r = 0x180 then .bankPwr (t * 16)
  else if r = 0x184 then .memCompat t
  else if r = 0x200 then .plain
  else .fault

/-- The name of the register at a BAR0 offset where one lies. -/
def at_ (o : Nat) : RegName :=
  if o < 0x10000 then ofHif o
  else if o < 0x11000 then ofBeat (o - 0x10000)
  else if o < 0x12000 then ofUpd (o - 0x11000)
  else if o < 0x14000 then ofFab (o - 0x12000)
  else if o < 0x18000 then
    (if o = 0x14000 then .pwrState else if o = 0x14008 then .pwrReq else if o = 0x14018 then .pwrPlan else .plain)
  else if o < 0x20000 then ofMem (o - 0x18000)
  else if o < 0x30000 then
    (if o = 0x20000 then .mgtStatus else if o = 0x20020 then .fwCtrl else .fw ((o - 0x20008) / 8))
  else if o < 0x40000 then
    (if o = 0x30200 then .secDebug else if o = 0x30208 then .rtc else .meas ((o - 0x30000) / 32) (o % 32 / 8))
  else if o < 0x50000 then
    let d := (o - 0x40000) / 0x4000
    match o % 0x4000 with
    | 0x08 => .hangStatus d
    | 0x10 => .spares d
    | 0x18 => .dieReset d
    | _ => .plain
  else if o < 0x54000 then
    let d := (o - 0x50000) / 0x1000
    let r := o % 0x1000
    if r < 0x200 then .owner (4096 + d * 64 + r / 8)
    else if r < 0x210 then .bankPwr (4096 + d * 64 + (r - 0x200) / 4 * 16)
    else .fault
  else if o < 0x5C000 then
    let d := (o - 0x54000) / 0x2000
    let r := (o - 0x54000) % 0x2000
    if r = 0 then .niHead d else if r = 8 then .niFree d else if r = 0x10 then .fault
    else if r % 16 = 8 then .gnsB d ((r - 0x1000) / 16) else .plain
  else if o < 0x64000 then
    let d := (o - 0x5C000) / 0x2000
    let r := (o - 0x5C000) % 0x2000
    if 0x1000 ≤ r then .pin d ((r - 0x1000) / 8)
    else if r % 0x40 = 0 then .slvStatus (4 * d + r / 0x40) else .fault
  else if o < 0x1000000 then ofObs (o - 0x400000)
  else if o < 0x1100000 then ofTil ((o - 0x1000000) / 0x1000) (o % 0x1000)
  else
    let t := (o - 0x1100000) / 0x1000
    match o % 0x1000 with
    | 0x800 => .enfEpoch t
    | 0x880 => .setStatus t
    | _ => .plain

end RegName

/-- A name of an owner register's bank as BAR0 offset of its BANK_PWR register. -/
def pwrRegOf (first : Nat) : Nat :=
  if first < 4096 then Regs.tilPwr (first / 16) else Regs.shsPwr ((first - 4096) / 64) ((first - 4096) % 64 / 16)

namespace State

/-! ### Reads (R9, R442, R516) -/

def accordStatusValue (s : State) (c : Nat) : Nat :=
  let x := s.acc c
  x.st.toNat + x.staged.length * 2 ^ 16 + x.lastCode.toNat * 2 ^ 32 + x.txn.toNat * 2 ^ 48

def accordBadValue (s : State) (c : Nat) : Nat := match (s.acc c).bad with | some o => o + 2 ^ 31 | none => 0

/-- What a register holds as it reads, the value half of an RWG register. -/
def regValue (s : State) (o : Nat) : Nat :=
  match RegName.at_ o with
  | .ringStatus p n => s.ringStatusValue p n
  | .portStatus p => s.portStatusHif p
  | .accordStatus c => s.accordStatusValue c
  | .accordBad c => s.accordBadValue c
  | .beatStatus => s.beatStatusValue
  | .beatPos => s.beat.pos.toNat
  | .beatInterval => s.intervalValue
  | .updStatus u => s.updStatusValue u
  | .retain d => s.retainValue d
  | .retainQ d => s.retainQValue d
  | .fabStatus p => s.portStatusValue p
  | .credit p => s.creditValue p
  | .strap => s.strapValue
  | .topo t => s.topoValue t
  | .pwrState => s.pwrStateValue
  | .stkStatus x => s.stkStatusValue x
  | .chRemap x => s.chRemapValue x
  | .mgtStatus => s.mgtStatusValue
  | .fw k => s.fwValue k
  | .meas i k => (mget s.mgmt.meas i 0).toNat / 2 ^ (64 * k) % 2 ^ 64
  | .secDebug => s.secDebugValue
  | .rtc => s.rtcValue
  | .hangStatus d => s.hangStatusValue d
  | .spares d => s.sparesValue d
  | .niHead d => s.niHeadValue d
  | .niFree d => s.niFreeValue d
  | .slvStatus e => s.slvStatusValue e
  | .setStatus t => s.setStatusValue t
  | _ => s.regNat o

/-- Domains that stay accessible in Deep sleep (R442), and while the compute domain is off. -/
def domainOn (s : State) (o : Nat) : Bool :=
  (s.power.st != 3 && !s.power.held) || mgmtReg o || inBlock Regs.obs 0x400000 o

/-- OBS registers that read 0 without a debug session: job slots, Sillage and snapshots (R479, R516). -/
def obsHidden (o : Nat) : Bool :=
  (inBlock (Regs.obs + 0x100000) 0x40000 o && decide (0xC00 ≤ (o - Regs.obs) % 0x10000))
    || inBlock (Regs.obs + 0x300008) 0xFFFF8 o

/-- The 64 bits, or 32 bits, of a register as a management read sees it. -/
def readWord (s : State) (o : Nat) : Nat :=
  match Regs.desc o with
  | none => 0
  | some d =>
    if !s.domainOn o ∨ (obsHidden o ∧ s.debugLevel = 0) then 0
    else if d.guarded then s.regNat o % 2 ^ 32 + (2 ^ 32 - 1 - s.regNat o % 2 ^ 32) * 2 ^ 32
    else s.regValue o % 2 ^ d.width

/-- Where an access of 4 bytes falls: a 32-bit register, or half of a 64-bit one. -/
inductive Piece where
  | word (o : Nat)
  | half (o : Nat) (hi : Bool)
  | whole (o : Nat)
  | nothing (o : Nat)
deriving DecidableEq, Repr

def piece4 (o : Nat) : Piece :=
  match Regs.desc o with
  | some d => if d.width = 32 then .word o else .half o false
  | none =>
    if o % 8 = 4 then
      match Regs.desc (o - 4) with
      | some d => if d.width = 64 then .half (o - 4) true else .nothing o
      | none => .nothing o
    else .nothing o

/-- The registers of an aligned access of 4 or 8 bytes, each with its part of the value. An 8-byte access to two 32-bit
registers is two accesses. -/
def piecesOf (o size v : Nat) : List (Piece × Nat) :=
  if size = 4 then [(piece4 o, v % 2 ^ 32)]
  else
    match Regs.desc o with
    | some d => if d.width = 64 then [(.whole o, v)] else [(piece4 o, v % 2 ^ 32), (piece4 (o + 4), v / 2 ^ 32 % 2 ^ 32)]
    | none =>
      match piece4 (o + 4) with
      | .nothing _ => [(.nothing o, v)]
      | q => [(.nothing o, v % 2 ^ 32), (q, v / 2 ^ 32 % 2 ^ 32)]

def accessOk (o size : Nat) : Bool := (size == 4 || size == 8) && o % size == 0

/-! ### Set-up faults (R397, R421) -/

/-- A code in HIF.ERR_LOG and the error log. -/
def setupFault (code : W16) (src : Src) (s : State) : State :=
  let p := match src with | .host p => p.val | _ => 0
  (s.recordFault Regs.hifErrLog (code.toNat + p * 65536)).log code 0x700 0 0

/-- What stands in the way of a host or management write. -/
inductive Verdict where
  | ok
  | drop
  | denied
  | unmapped
  | guard
  | badOwner (bank : Nat)
  | region
  | needsAccord
deriving DecidableEq, Repr

def ctxOf (src : Src) : Nat := match src with | .host p => p.val | _ => 2

/-- An RWG word carries its complement (R9). -/
def rwgOk (v : Nat) : Bool := v / 2 ^ 32 % 2 ^ 32 == 2 ^ 32 - 1 - v % 2 ^ 32

/-- A set of region-table writes leaves the table as `t` has it; an entry must not overlap another there, and its own
job must not be in use (R166). -/
def regionVerdict (s t : State) (n : Nat) (hi : Bool) (v : Nat) : Verdict :=
  if !hi && decide (4 ≤ bits v 3 1) then .drop
  else if s.tagInUse (s.field (Regs.rgnHi n) 15 0) || t.rgnOverlaps n (t.regNat (Regs.rgnLo n)) (t.regNat (Regs.rgnHi n)) then .region
  else .ok

/-- The rules under which a write of a whole register is discarded or refused. `t` is the state whose region table the
write, or the staged set it belongs to, would leave. -/
def checkReg (s t : State) (src : Src) (staged : Bool) (o v : Nat) : Verdict :=
  let mine := fun (p : Nat) => match src with | .host q => q.val == p | _ => false
  let mgmt := src == .mgmt
  match Regs.desc o with
  | none => .unmapped
  | some d =>
    if !s.domainOn o then .unmapped
    else match RegName.at_ o with
    | .ringBase p n cq =>
      if !mine p then .denied else if s.flag (if cq then Regs.cqCfg p n else Regs.sqCfg p n) 0 then .drop else .ok
    | .ringDb p n => if !mine p then .denied else if s.flag (Regs.sqCfg p n) 0 || s.flag (Regs.cqCfg p n) 0 then .drop else .ok
    | .sqCfg p _ | .cqCfg p _ =>
      if !mine p then .denied
      else if bits v 4 1 < 6 ∨ 16 < bits v 4 1 ∨ (s.flag o 0 ∧ bits v 10 1 ≠ s.field o 10 1) then .drop else .ok
    | .ringStatus p _ => if mine p then .ok else .denied
    | .adopt p =>
      if !mine p then .denied
      else if !bit v 0 then .ok
      else if !staged then .needsAccord
      else if s.adoptOk p (bits v 1 1) (bits v 7 2) then .ok else .drop
    | .accordCmd c => if ctxOf src ≠ c then .denied else if rwgOk v then .ok else .guard
    | .ethCfg => if bits v 2 0 = bits v 5 3 then .drop else .ok
    | .pwrReq | .dieReset _ => if !mgmt then .denied else if rwgOk v then .ok else .guard
    | .fwCtrl =>
      if !mgmt then .denied else if !rwgOk v then .guard else if !staged ∧ bits v 2 0 ≠ 0 then .drop else .ok
    | .region n hi => s.regionVerdict t n hi v
    | .owner bank =>
      if !rwgOk v then .guard
      else if !ownerFieldsOk (decide (4096 ≤ bank)) (v % 2 ^ 32) then .badOwner bank
      else if !mgmt ∧ (s.bankJob bank).isSome then .drop else .ok
    | .pin _ _ => .denied
    | .silSet => if s.flag Regs.silCtrl 0 then .drop else .ok
    | _ => if d.guarded && !rwgOk v then .guard else .ok

/-- What a discarded or refused write leaves behind. -/
def refuseReg (src : Src) (o : Nat) (w : Verdict) (s : State) : State :=
  match w with
  | .ok | .drop => s
  | .denied => s.setupFault 0x1106 src
  | .unmapped => s.setupFault 0x1105 src
  | .guard => s.logGuard 0x700 0 2 (o / 8)
  | .badOwner bank => s.ownerDiscard bank
  | .region => s.regionRefused 0x3240
  | .needsAccord => s.setupFault 0x1505 src

/-! ### What a write does -/

/-- The access codes of a register without a rule of its own: RW bits are set, W1C bits cleared, WO bits do nothing. -/
def plainWrite (o v : Nat) (s : State) : State :=
  match Regs.desc o with
  | none => s
  | some d =>
    if d.rw = 0 ∧ d.w1c = 0 then s else
    let old := s.reg o
    let x := BitVec.ofNat 64 v
    let rw := BitVec.ofNat 64 d.rw
    let w1c := BitVec.ofNat 64 d.w1c
    s.setReg o ((old &&& ~~~rw &&& ~~~(w1c &&& x)) ||| (x &&& rw))

/-- VALID written 1 clears a fault register (R152, R180, R209, R421). -/
def clearFault (o v : Nat) (s : State) : State := if bit v 31 then s.setReg o (Regs.resetValue o) else s

/-- A write of DIE.RESET (R465, R473). PORT_RESET and whether a channel comes up are the reset's own. -/
def dieResetWrite (d v : Nat) (s : State) : State :=
  let s := s.setRegNat (Regs.dieReset d) (v % 2 ^ 11)
  let u := bits v 10 3
  match bits v 2 0 with
  | 1 => if u < 64 then s.tileResetEff (64 * d + u) else s
  | 2 => if u < 4 then s.solverResetEff (4 * d + u) else s
  | 3 => s.niResetEff d
  | 4 => (s.channelResetEff (2 * d + u / 128) (u % 128) (Config.freeBit s.freeCtr 0)).tick
  | 5 => if u < 7 then s.portResetEff u else if u = 8 ∨ u = 9 then s.portResetEff (u - 1) else s
  | 6 => s.dieResetEff d
  | _ => s

/-- A write of PWR.REQ (R433, R444). -/
def pwrReqWrite (v : Nat) (s : State) : State :=
  let s := s.setRegNat Regs.pwrReq (v % 32)
  let t := bits v 2 0
  if 4 < t then s
  else s.requestPower ⟨t, bit v 3, if bit v 4 then some (s.reg Regs.pwrWakeAt) else none, none⟩

/-- Ethernet ports stay DOWN without a prefix (R316). -/
def ethPrefixWrite (v : Nat) (s : State) : State :=
  let s := s.setRegNat Regs.ethPrefix v
  if v % 2 ^ 64 = 0 then (s.ethDown 0).ethDown 1 else s

/-- Apply a write of a whole register that passed its checks; `mineBank` says which of the 16 banks of a BANK_PWR
register the writer reaches (R150). Accord's own registers are Machine/Accord.lean's. -/
def applyReg (staged : Bool) (mineBank : Nat → Bool) (o v : Nat) (s : State) : State :=
  match RegName.at_ o with
  | .sqCfg p n => s.sqCfgEff p n v
  | .cqCfg p n => s.cqCfgEff p n v
  | .adopt p =>
    let s := s.setRegNat o (v &&& 0xFE)
    if bit v 0 then s.adoptEff p (bits v 1 1) (bits v 7 2) else s
  | .beatCfg => s.beatCfgWriteEff v
  | .beatDelay => { s with beat := { s.beat with delayNew := some (BitVec.ofNat 32 (v % 65536)) } }
  | .beatCtrl => if bit v 0 then s.resyncEff else s
  | .retain d => s.retainDiscardEff d v
  | .retainQ d => s.retainTagEff d v
  | .portCtrl p => s.portCtrlEff p v
  | .ethPrefix => s.ethPrefixWrite v
  | .pwrReq => s.pwrReqWrite v
  | .pwrPlan => s.changePlan (fun s => s.plainWrite o v)
  | .memErrLog => if bit v 31 then (s.clearFault o v).setRegNat Regs.memErrAddr 0 else s
  | .scrubCfg => s.plainWrite o (if bits v 15 8 = 0 then setBits v 15 8 1 else v)
  | .region n hi => s.regionEff n hi v
  | .fwCtrl => s.fwCtrlEff staged v
  | .dieReset d => s.dieResetWrite d v
  | .owner _ => (s.setRegNat o (v % 2 ^ 32 &&& 0x13F07)).wakeData
  | .bankPwr first => s.bankPwrEff o first v mineBank
  | .memCompat t => s.memCompatEff t v
  | .gnsB d l => if bit v 8 then s.gnsClear d l else s
  | .enfEpoch t => s.enfEpochEff t v
  | .obsCtrl => s.obsCtrlEff v
  | .silCtrl => s.silCtrlEff v
  | .silSet => s.plainWrite o v
  | .silRd => s.silRdEff v
  | .snapCtrl => s.snapCtrlEff v
  | .fault => s.clearFault o v
  | _ => s.plainWrite o v

/-- The value of a 64-bit register after a 32-bit write of one half: the other half keeps its RW bits, and its W1C and WO
bits are written 0 (R82, R397). -/
def mergeHalf (s : State) (o : Nat) (hi : Bool) (v : Nat) : Nat :=
  let keep := match Regs.desc o with | some d => s.regNat o &&& d.rw | none => 0
  if hi then setBits keep 63 32 v else setBits keep 31 0 v

/-- A piece of an access as a whole register's offset and value; none where nothing lies, and a guard mismatch where half
an RWG register is written (R10). -/
def pieceWrite (s : State) (p : Piece) (v : Nat) : Option (Nat × Nat) :=
  match p with
  | .word o | .whole o => some (o, v)
  | .half o hi => some (o, s.mergeHalf o hi v)
  | .nothing _ => none

def halfGuarded (p : Piece) : Option Nat :=
  match p with
  | .half o _ => (match Regs.desc o with | some d => if d.guarded then some o else none | none => none)
  | _ => none

/-- The verdict on one piece of a write, and the register it names. -/
def checkPiece (s t : State) (src : Src) (staged : Bool) (p : Piece) (v : Nat) : Nat × Verdict :=
  match halfGuarded p, p with
  | some o, _ => (o, if s.domainOn o then .guard else .unmapped)
  | none, .nothing o => (o, .unmapped)
  | none, p => match s.pieceWrite p v with
    | some (o, x) => (o, s.checkReg t src staged o x)
    | none => (0, .unmapped)

def allBanks (_ : Nat) : Bool := true

/-- The region table that a write would leave. -/
def regionAfter (s : State) (o v : Nat) : State :=
  match RegName.at_ o with
  | .region n hi => s.regionEff n hi v
  | _ => s

end State
end Sys2Proof.Machine
end

