-- ==== Sys2Proof/Machine/Accord.lean ====
section
/-! DEFINITION. Accord transactions (R412 to R414), set-up writes by hosts, the management controller and command lists
(R82, R397), and the commands that are writes of one register. -/

namespace Sys2Proof.Machine
namespace State

/-! ### Transactions (R412, R413) -/

/-- A transaction ends with a result. -/
def endTxn (c : Nat) (code : W16) (s : State) : State :=
  let s := if code = 0 then s else s.log code 0x700 0 0
  s.rollback c code

/-- The region table that the staged set would leave. -/
def stagedRegions (l : List Staged) (s : State) : State :=
  l.foldl (fun t w => (piecesOf w.offset w.size w.value.toNat).foldl (fun t x =>
    match t.pieceWrite x.1 x.2 with
    | some (o, v) => t.regionAfter o v
    | none => t) t) s

/-- The first staged write that a direct write's rules would discard or refuse. -/
def firstBad (s : State) (src : Src) (l : List Staged) : Option Nat :=
  let t := s.stagedRegions l
  (l.flatMap (fun w => (piecesOf w.offset w.size w.value.toNat).map (fun x => s.checkPiece t src true x.1 x.2))).findSome? (fun r =>
    if r.2 = .ok then none else some r.1)

/-- A staged write would be refused with REGION_CONFLICT (R166). -/
def regionBad (s : State) (src : Src) (l : List Staged) : Bool :=
  let t := s.stagedRegions l
  (l.flatMap (fun w => piecesOf w.offset w.size w.value.toNat)).any (fun x => (s.checkPiece t src true x.1 x.2).2 == .region)

/-- Apply a staged write. -/
def applyStaged (w : Staged) (s : State) : State :=
  (piecesOf w.offset w.size w.value.toNat).foldl (fun st x =>
    match st.pieceWrite x.1 x.2 with
    | some (o, v) => st.applyReg true allBanks o v
    | none => st) s

/-- Commit a context: refused whole, with a region conflict recorded (R166), or every write applied in the order staged
(R413). -/
def commitNow (c : Nat) (s : State) : State :=
  let x := s.acc c
  let src : Src := if c = 0 then .host 0 else if c = 1 then .host 1 else .mgmt
  if x.failed ≠ 0 then s.endTxn c x.failed
  else match s.firstBad src x.staged with
    | some o =>
      let s := if s.regionBad src x.staged then s.regionRefused 0x3240 else s
      (s.mapAcc c (fun x => { x with bad := some o })).endTxn c 0x1502
    | none =>
      let s := (s.rollback c 0).mapAcc c (fun x => { x with bad := none })
      x.staged.foldl (fun st w => st.applyStaged w) s

/-- BEGIN opens a context that is idle. -/
def beginTxn (c : Nat) (s : State) : State :=
  if (s.acc c).st ≠ 0 then (s.mapAcc c (fun x => { x with lastCode := 0x1504 })).log 0x1504 0x700 0 0
  else s.mapAcc c (fun x => { x with st := 1, txn := x.txn + 1, staged := [], failed := 0 })

/-- COMMIT_AT installs an ACCORD_COMMIT entry, or rolls back (R43, R412). -/
def commitAtTxn (c : Nat) (s : State) : State :=
  let pos := s.reg (Regs.accordBeat c)
  if s.beat.mode = 0 ∨ s.beat.mode = 3 then s.endTxn c 0x1302
  else if pos.toNat < s.beat.pos.toNat then s.endTxn c 0x1306
  else
    let target := BitVec.ofNat 32 ((s.acc c).txn.toNat + c * 65536)
    match s.installEntry 4 (SchedEntry.make 2 0 pos target 0 false) with
    | some s => s.mapAcc c (fun x => { x with st := 2 })
    | none => s.endTxn c 0x1305

/-- A write of HIF.ACCORDc_CMD. -/
def accordCmdEff (c v : Nat) (s : State) : State :=
  let s := s.setRegNat (Regs.accordCmd c) (v % 8)
  match v % 8 with
  | 1 => s.beginTxn c
  | 2 => if (s.acc c).st = 1 then s.commitNow c else s
  | 3 => if (s.acc c).st = 1 then s.commitAtTxn c else s
  | 4 => if (s.acc c).st = 1 ∨ (s.acc c).st = 2 then s.rollback c 0 else s
  | _ => s

/-- An ACCORD_COMMIT entry falls due (R41, R413). -/
def accordEntryEff (i : Nat) (s : State) : State :=
  s.fireEntry 4 i 2 (fun e s =>
    let c := bits e.target.toNat 17 16
    if (s.acc c).st = 2 ∧ bits e.target.toNat 15 0 = (s.acc c).txn.toNat then s.commitNow c else s)

/-- A context has stood open for 100 ms. -/
def timeoutTxn (c : Nat) (s : State) : State := if (s.acc c).st = 1 then s.endTxn c 0x1501 else s

/-! ### Writes by a host or the management controller (R397, R412) -/

/-- Stage a write: an RWG word's guard is checked now, and the 4,097th write marks the transaction failed. -/
def stageWrite (src : Src) (off size v : Nat) (s : State) : State :=
  let c := ctxOf src
  let x := s.acc c
  let n := x.staged.length
  let bad := (piecesOf off size v).findSome? (fun p => match halfGuarded p.1, p.1 with
    | some o, _ => some o
    | none, .whole o => (match Regs.desc o with | some d => if d.guarded && !rwgOk p.2 then some o else none | none => none)
    | none, _ => none)
  let fail := fun (code : W16) (s : State) => if x.failed ≠ 0 then s else s.mapAcc c (fun x => { x with failed := code, bad := some off })
  match bad with
  | some _ => fail 0x8010 (s.logGuard 0x700 0 3 n)
  | none =>
    let w : Staged := ⟨off, size, BitVec.ofNat 64 v⟩
    if x.staged.any (fun y => y.offset == off && y.size == size) then
      s.mapAcc c (fun x => { x with staged := x.staged.map (fun y => if y.offset = off ∧ y.size = size then w else y) })
    else if 4096 ≤ n then fail 0x1503 s
    else s.mapAcc c (fun x => { x with staged := x.staged ++ [w] })

/-- A write that acts now, piece by piece. -/
def directWrite (src : Src) (off size v : Nat) (s : State) : State :=
  (piecesOf off size v).foldl (fun st x =>
    let t := match st.pieceWrite x.1 x.2 with | some (o, w) => st.regionAfter o w | none => st
    match st.checkPiece t src false x.1 x.2 with
    | (_, .ok) => (match st.pieceWrite x.1 x.2 with
      | some (o, w) => (match RegName.at_ o with
        | .accordCmd c => st.accordCmdEff c w
        | _ => st.applyReg false allBanks o w)
      | none => st)
    | (o, w) => st.refuseReg src o w) s

/-- The requester can reach the set-up space. -/
def reaches (s : State) (src : Src) : Bool :=
  match src with
  | .host p => s.portLive p.val && !s.power.off
  | .mgmt => s.mgmtUp
  | .list _ => true

/-! ### Writes by a command list (R82, R150, R278) -/

/-- The register belongs to a unit of the job. -/
def jobReg (j : Job) (o : Nat) : Bool :=
  match RegName.at_ o with
  | .owner b => if b < 4096 then j.block.tiles.contains (b / 16) else j.ownsBank ((b - 4096) / 64) (b % 64)
  | .bankPwr b => if b < 4096 then j.block.tiles.contains (b / 16)
    else (List.range 16).any (fun k => j.ownsBank ((b - 4096) / 64) ((b - 4096) % 64 + k))
  | .memCompat t => j.block.tiles.contains t
  | .pin d i => j.engines.contains (4 * d + i / 64)
  | _ => decide (0x1100000 ≤ o) && j.block.tiles.contains ((o - 0x1100000) / 0x1000)

/-- The list may write the register. -/
def listReg (j : Job) (o : Nat) : Bool := (match Regs.desc o with | some d => d.listed | none => false) && jobReg j o

/-- Every register of a list's access is list-writable and of a unit of its job; a pin is written whole. -/
def listOk (j : Job) (off size : Nat) : Bool :=
  accessOk off size && (piecesOf off size 0).all (fun x => match x.1 with
    | .whole o | .word o => listReg j o
    | .half o hi => !hi && listReg j o && (match RegName.at_ o with | .pin _ _ => false | _ => true)
    | .nothing _ => false)

/-- One register of a list's write; the thread halts where the write is refused, and a guard mismatch only discards it
(R82, R136, R278, R447). -/
def listPiece (t : ThreadId) (j : Job) (p : Piece) (v : Nat) (s : State) : State :=
  match halfGuarded p with
  | some o => s.logGuard t.unit j.handle 2 (o / 8)
  | none =>
    match s.pieceWrite p v with
    | none => s.haltThread t 0x1114
    | some (o, v) =>
      match RegName.at_ o with
      | .pin d i =>
        (match s.pinWriteEff j d i v with
        | .ok s => s
        | .error 0x8010 => s.haltGuard t 9 (bits v 47 12)
        | .error c => s.haltThread t c)
      | .owner b =>
        if !rwgOk v then s.logGuard t.unit j.handle 2 (o / 8)
        else if !ownerFieldsOk (decide (4096 ≤ b)) (v % 2 ^ 32) then s.haltThread t 0x1113
        else s.applyReg false allBanks o v
      | .bankPwr b => s.applyReg false (fun k => decide (b < 4096) || j.ownsBank ((b - 4096) / 64) ((b - 4096) % 64 + k)) o v
      | _ => s.applyReg false allBanks o v

def listWrite (t : ThreadId) (j : Job) (off size v : Nat) (s : State) : State :=
  if !listOk j off size then s.haltThread t 0x1114
  else (piecesOf off size v).foldl (fun st x => if (st.thread t.key).st = .halted then st else st.listPiece t j x.1 x.2) s

/-- REG_WRITE waits for earlier commands, then writes. -/
def regWriteEff (t : ThreadId) (h : CmdHead) (reg : Nat) (width : BitVec 8) (data : Nat) (s : State) : State :=
  s.issue t 0x06 0 h (decide (width.toNat ≤ 1)) (fun _ j s =>
    if s.busy t.key then s.hold t .waitOrder
    else
      let s := s.listWrite t j reg (if width = 1 then 8 else 4) (if width = 1 then data else data % 2 ^ 32)
      if (s.thread t.key).st = .ready then s.finish t h 1 else s)

/-! ### A set-up write -/

/-- A set-up write of any requester. It is staged while its context is open, unless it is to an Accord register; a list's
is the write that a REG_WRITE of a running job makes. -/
def setupWrite (src : Src) (off size v : Nat) (s : State) : State :=
  match src with
  | .list t =>
    let th := s.thread t.key
    (match s.findJob th.job with
    | some j => if th.st = .ready ∧ j.st = .running ∧ s.issues t then s.listWrite t j off size v else s
    | none => s)
  | src =>
    if !s.reaches src ∨ !accessOk off size then s
    else if (s.acc (ctxOf src)).st = 1 ∧ !inBlock 0x4000 0x1000 off then s.stageWrite src off size v
    else s.directWrite src off size v

/-- A 64-bit write of an RWG register: value and complement. -/
def setupGuarded (src : Src) (off v comp : Nat) (s : State) : State := s.setupWrite src off 8 (v % 2 ^ 32 + comp * 2 ^ 32)

/-- Bank and BANK_PWR registers by offset. -/
def ownerOff : BankId → Nat
  | .scratch t b => Regs.tilOwner t.val b.val
  | .shared d b => Regs.shsOwner d.val b.val

end State

/-! ### The commands -/

def execBegin (src : Src) (c : Fin 3) (comp : W32) (s : State) : Host.Outcome State Fault Refusal :=
  .next (s.setupGuarded src (Regs.accordCmd c.val) 1 comp.toNat)
def execCommit (src : Src) (c : Fin 3) (comp : W32) (s : State) : Host.Outcome State Fault Refusal :=
  .next (s.setupGuarded src (Regs.accordCmd c.val) 2 comp.toNat)
def execCommitAt (src : Src) (c : Fin 3) (comp : W32) (s : State) : Host.Outcome State Fault Refusal :=
  .next (s.setupGuarded src (Regs.accordCmd c.val) 3 comp.toNat)
def execRollback (src : Src) (c : Fin 3) (comp : W32) (s : State) : Host.Outcome State Fault Refusal :=
  .next (s.setupGuarded src (Regs.accordCmd c.val) 4 comp.toNat)
def execAccordTimeout (c : Fin 3) (s : State) : Host.Outcome State Fault Refusal := .next (s.timeoutTxn c.val)
def execAccordCommit (i : Fin 256) (s : State) : Host.Outcome State Fault Refusal := .next (s.accordEntryEff i.val)
def execRegWrite (t : ThreadId) (h : CmdHead) (reg : W32) (width : BitVec 8) (data : W64) (s : State) : Host.Outcome State Fault Refusal :=
  .next (s.regWriteEff t h reg.toNat width data.toNat)
def execRegisterWrite (src : Src) (offset : W32) (size : BitVec 8) (value : W64) (s : State) : Host.Outcome State Fault Refusal :=
  .next (s.setupWrite src offset.toNat size.toNat (if size = 4 then value.toNat % 2 ^ 32 else value.toNat))
def execBeatCfgWrite (src : Src) (value : W32) (s : State) : Host.Outcome State Fault Refusal :=
  .next (s.setupWrite src Regs.beatCfg 4 value.toNat)
def execResync (src : Src) (s : State) : Host.Outcome State Fault Refusal := .next (s.setupWrite src Regs.beatCtrl 4 1)
def execBankOwnerWrite (src : Src) (bank : BankId) (value : W64) (s : State) : Host.Outcome State Fault Refusal :=
  .next (s.setupWrite src (State.ownerOff bank) 8 value.toNat)
def execBankPwrWrite (src : Src) (r : PwrReg) (value : W32) (s : State) : Host.Outcome State Fault Refusal :=
  .next (s.setupWrite src (pwrOff r) 4 value.toNat)
def execMemCompatWrite (src : Src) (t : Tile) (value : W32) (s : State) : Host.Outcome State Fault Refusal :=
  .next (s.setupWrite src (Regs.memCompat t.val) 4 value.toNat)
def execRegionWrite (src : Src) (n : Fin 64) (hi : Bool) (value : W64) (s : State) : Host.Outcome State Fault Refusal :=
  .next (s.setupWrite src (if hi then Regs.rgnHi n.val else Regs.rgnLo n.val) 8 value.toNat)
def execEnfEpochWrite (src : Src) (t : Tile) (value : W32) (s : State) : Host.Outcome State Fault Refusal :=
  .next (s.setupWrite src (Regs.enfEpoch t.val) 4 value.toNat)
def execPinWrite (src : Src) (d : Die) (pin : Fin 256) (value : W64) (s : State) : Host.Outcome State Fault Refusal :=
  .next (s.setupWrite src (Regs.pin d.val pin.val) 8 value.toNat)
def execGnsClear (src : Src) (d : Die) (layer : Fin 256) (value : W64) (s : State) : Host.Outcome State Fault Refusal :=
  .next (s.setupWrite src (Regs.gnsB d.val layer.val) 8 value.toNat)
def execPortEnWrite (src : Src) (p : FPort) (value : W32) (s : State) : Host.Outcome State Fault Refusal :=
  .next (s.setupWrite src (Regs.portCtrl p.val) 4 value.toNat)
/-- A write of 1 to RETRAIN, with EN and SPARE_EN as they are. -/
def execRetrain (src : Src) (p : FPort) (s : State) : Host.Outcome State Fault Refusal :=
  .next (s.setupWrite src (Regs.portCtrl p.val) 4 (s.regNat (Regs.portCtrl p.val) % 8 ||| 2))
def execSqCfgWrite (src : Src) (p : HPort) (ring : Fin 64) (value : W32) (s : State) : Host.Outcome State Fault Refusal :=
  .next (s.setupWrite src (Regs.sqCfg p.val ring.val) 4 value.toNat)
def execCqCfgWrite (src : Src) (p : HPort) (ring : Fin 64) (value : W32) (s : State) : Host.Outcome State Fault Refusal :=
  .next (s.setupWrite src (Regs.cqCfg p.val ring.val) 4 value.toNat)
def execRatchet (src : Src) (mask : BitVec 3) (comp : W32) (s : State) : Host.Outcome State Fault Refusal :=
  .next (s.setupGuarded src Regs.fwCtrl (mask.toNat * 16) comp.toNat)
def execRetainDiscard (src : Src) (d : Die) (value : W32) (s : State) : Host.Outcome State Fault Refusal :=
  .next (s.setupWrite src (Regs.retain d.val) 4 value.toNat)
def execRetainDiscardTag (src : Src) (d : Die) (value : W64) (s : State) : Host.Outcome State Fault Refusal :=
  .next (s.setupWrite src (Regs.retainQ d.val) 8 value.toNat)
def execSillageEnable (src : Src) (value : W64) (s : State) : Host.Outcome State Fault Refusal :=
  .next (s.setupWrite src Regs.silCtrl 8 value.toNat)
def execSnapshot (src : Src) (value : W32) (s : State) : Host.Outcome State Fault Refusal := .next (s.setupWrite src Regs.snapCtrl 4 value.toNat)
def execFreeze (src : Src) (value : W32) (s : State) : Host.Outcome State Fault Refusal := .next (s.setupWrite src Regs.obsCtrl 4 value.toNat)
def execClear (src : Src) (value : W32) (s : State) : Host.Outcome State Fault Refusal := .next (s.setupWrite src Regs.obsCtrl 4 value.toNat)

end Sys2Proof.Machine
end

