-- ==== Sys2Proof/Machine/Messages.lean ====
section
/-! DEFINITION. The management messages that reach registers (R479), and insertion, removal and the die links (R448,
R528, R529). -/

namespace Sys2Proof.Machine
namespace State

/-- READ_REG: 4 or 8 bytes, aligned; nothing lies at an unmapped offset, which reads 0 and is logged. -/
def readRegEff (off size : Nat) (s : State) : State :=
  if !accessOk off size then s.answer 0 []
  else
    let ps := piecesOf off size 0
    let part : Piece → List Byte := fun p => match p with
      | .word o => leBytes 4 (s.readWord o)
      | .whole o => leBytes 8 (s.readWord o)
      | .half o hi => leBytes 4 (s.readWord o / (if hi then 2 ^ 32 else 1))
      | .nothing _ => []
    let data : List Byte := ps.flatMap (fun x => match x.1 with | .nothing _ => List.replicate (size / ps.length) 0 | p => part p)
    let s := if ps.any (fun x => match x.1 with | .nothing _ => true | _ => false) then s.setupFault 0x1105 .mgmt else s
    s.answer 0 data

/-- POWER writes PWR.WAKE_AT and PWR.REQ, and wakes the module toward a shallower state than it is in or entering (R436). -/
def mgmtPowerEff (target : Nat) (force : Bool) (wakeAt : Option W64) (s : State) : State :=
  let s := match wakeAt with | some p => s.setupWrite .mgmt Regs.pwrWakeAt 8 p.toNat | none => s
  let at_ := if s.power.st = 4 then s.power.target.toNat else if s.power.st = 5 then 0 else s.power.st.toNat
  let s := if target < at_ then s.wakeBy 3 else s
  let v := target + (if force then 8 else 0) + (if wakeAt.isSome then 16 else 0)
  (s.setupGuarded .mgmt Regs.pwrReq v (2 ^ 32 - 1 - v)).answer 0 []

/-- RESET writes DIE.RESET of a die, or resets the module. -/
def resetMsgEff (d domain unit : Nat) (whole : Bool) (s : State) : State :=
  if whole then s.moduleResetEff.answer 0 []
  else
    let v := domain + unit * 8
    (s.setupGuarded .mgmt (Regs.dieReset d) v (2 ^ 32 - 1 - v)).answer 0 []

/-- The level of ACTIVE_L: released in Off and while no input is present (R526). -/
def activeL (s : State) : Bool := s.power.off || s.power.leak

/-- The module is inserted: ACTIVE_L goes low and the cold boot begins (R528). The real-time clock had no supply. -/
def insertionEff (slot group : Nat) (s : State) : State :=
  let s := (s.out (.pin "ACTIVE_L" false)).bootModule slot group
  s.setMgmt (fun m => { m with rtc := 0, rtcValid := false })

/-- The module is withdrawn: it acts as on SUPPLY_RESET, and then has no input (R529). -/
def removalEff (s : State) : State :=
  let s := if s.power.off then s else (s.supplyOff 0x6102 false).loseAll
  (s.out (.pin "ACTIVE_L" true)).setMgmt (fun m => { m with rtc := 0, rtcValid := false })

end State

def execReadReg (via : MsgVia) (offset : W32) (size : BitVec 8) (s : State) : Host.Outcome State Fault Refusal :=
  .next (s.onMsg via true (fun s => s.readRegEff offset.toNat size.toNat))
def execWriteReg (via : MsgVia) (offset : W32) (size : BitVec 8) (value : W64) (s : State) : Host.Outcome State Fault Refusal :=
  .next (s.onMsg via false (fun s =>
    (s.setupWrite .mgmt offset.toNat size.toNat (if size = 4 then value.toNat % 2 ^ 32 else value.toNat)).answer 0 []))
def execMgmtPower (via : MsgVia) (target : BitVec 3) (force : Bool) (wakeAt : Option W64) (s : State) : Host.Outcome State Fault Refusal :=
  .next (s.onMsg via false (fun s => s.mgmtPowerEff target.toNat force wakeAt))
def execReset (via : MsgVia) (d : Die) (domain : BitVec 3) (unit : BitVec 8) (wholeModule : Bool) (s : State) : Host.Outcome State Fault Refusal :=
  .next (s.onMsg via false (fun s => s.resetMsgEff d.val domain.toNat unit.toNat wholeModule))
def execInsertion (slot : Fin 8) (group : BitVec 10) (s : State) : Host.Outcome State Fault Refusal := .next (s.insertionEff slot.val group.toNat)
def execRemoval (s : State) : Host.Outcome State Fault Refusal := .next s.removalEff
/-- 64 replays on the link between two dies within 1 ms: the die whose link counted them is reset (R448). -/
def execDieLinkReplayLimit (d _other : Die) (s : State) : Host.Outcome State Fault Refusal := .next (s.dieResetEff d.val)

end Sys2Proof.Machine
end

