-- ==== Sys2Proof/Machine/Dispatch.lean ====
section
/-! DEFINITION. One arm for each command. -/

namespace Sys2Proof.Machine

def exec (i : Instr) (s : State) : Host.Outcome State Fault Refusal :=
  match i with
  | .beatPulse widthNs interval => Sys2Proof.Machine.execBeatPulse widthNs interval s
  | .beatMarker p value comp interval => Sys2Proof.Machine.execBeatMarker p value comp interval s
  | .localBeat => Sys2Proof.Machine.execLocalBeat s
  | .holdoverEntry => Sys2Proof.Machine.execHoldoverEntry s
  | .beatLost => Sys2Proof.Machine.execBeatLost s
  | .beatCfgWrite src value => Sys2Proof.Machine.execBeatCfgWrite src value s
  | .resync src => Sys2Proof.Machine.execResync src s
  | .wakeEntry ix => Sys2Proof.Machine.execWakeEntry ix s
  | .accordCommit ix => Sys2Proof.Machine.execAccordCommit ix s
  | .releaseEntry d ix => Sys2Proof.Machine.execReleaseEntry d ix s
  | .deadlineRefresh d ix => Sys2Proof.Machine.execDeadlineRefresh d ix s
  | .deadlineJob d ix => Sys2Proof.Machine.execDeadlineJob d ix s
  | .refreshLaunch d ix => Sys2Proof.Machine.execRefreshLaunch d ix s
  | .collectiveLaunch d ix => Sys2Proof.Machine.execCollectiveLaunch d ix s
  | .exportEntry d ix => Sys2Proof.Machine.execExportEntry d ix s
  | .nop t h => Sys2Proof.Machine.execNop t h s
  | .endCmd t h => Sys2Proof.Machine.execEnd t h s
  | .wait t h addr mask cond limit => Sys2Proof.Machine.execWait t h addr mask cond limit s
  | .waitWake t => Sys2Proof.Machine.execWaitWake t s
  | .watchPoll t => Sys2Proof.Machine.execWatchPoll t s
  | .eventLimit t => Sys2Proof.Machine.execEventLimit t s
  | .signal t h addr value mode => Sys2Proof.Machine.execSignal t h addr value mode s
  | .waitBeat t h position form => Sys2Proof.Machine.execWaitBeat t h position form s
  | .waitBeatEnd t => Sys2Proof.Machine.execWaitBeatEnd t s
  | .skipIfFlag t h addr mask cond count => Sys2Proof.Machine.execSkipIfFlag t h addr mask cond count s
  | .regWrite t h reg width data => Sys2Proof.Machine.execRegWrite t h reg width data s
  | .acquire t h addr length => Sys2Proof.Machine.execAcquire t h addr length s
  | .release t h addr length => Sys2Proof.Machine.execRelease t h addr length s
  | .fence t h => Sys2Proof.Machine.execFence t h s
  | .loop t h count body baseSel stride => Sys2Proof.Machine.execLoop t h count body baseSel stride s
  | .link t h addr => Sys2Proof.Machine.execLink t h addr s
  | .mark t h value => Sys2Proof.Machine.execMark t h value s
  | .listFill t line => Sys2Proof.Machine.execListFill t line s
  | .teCopy t h r => Sys2Proof.Machine.execTeCopy t h r s
  | .teDispatch t h r => Sys2Proof.Machine.execTeDispatch t h r s
  | .teRowcopy t h r => Sys2Proof.Machine.execTeRowcopy t h r s
  | .stackRequestAccept st ch => Sys2Proof.Machine.execStackRequestAccept st ch s
  | .requestPromote st ch ix => Sys2Proof.Machine.execRequestPromote st ch ix s
  | .stackRequestDone st ch ecc => Sys2Proof.Machine.execStackRequestDone st ch ecc s
  | .job d block data => Sys2Proof.Machine.execJob d block data s
  | .jobStart handle => Sys2Proof.Machine.execJobStart handle s
  | .jobZeroed handle => Sys2Proof.Machine.execJobZeroed handle s
  | .quench d handle => Sys2Proof.Machine.execQuench d handle s
  | .evictImage d digest => Sys2Proof.Machine.execEvictImage d digest s
  | .imageEvicted digest => Sys2Proof.Machine.execImageEvicted digest s
  | .bankOwnerWrite src bank value => Sys2Proof.Machine.execBankOwnerWrite src bank value s
  | .bankPwrWrite src r value => Sys2Proof.Machine.execBankPwrWrite src r value s
  | .bankTransitionDone bank => Sys2Proof.Machine.execBankTransitionDone bank s
  | .memCompatWrite src t value => Sys2Proof.Machine.execMemCompatWrite src t value s
  | .compatWakeDone t => Sys2Proof.Machine.execCompatWakeDone t s
  | .regionWrite src n hi value => Sys2Proof.Machine.execRegionWrite src n hi value s
  | .scrubRead st offset ecc => Sys2Proof.Machine.execScrubRead st offset ecc s
  | .spareRowRepair st pch bank row => Sys2Proof.Machine.execSpareRowRepair st pch bank row s
  | .channelReplace st ch wake => Sys2Proof.Machine.execChannelReplace st ch wake s
  | .channelDown st ch => Sys2Proof.Machine.execChannelDown st ch s
  | .mxOpnd t h addr slot format flags pitch => Sys2Proof.Machine.execMxOpnd t h addr slot format flags pitch s
  | .mxMma t h b => Sys2Proof.Machine.execMxMma t h b s
  | .mxNormBwd t h b flags sigma => Sys2Proof.Machine.execMxNormBwd t h b flags sigma s
  | .mxSoftmaxBwd t h b flags sigma => Sys2Proof.Machine.execMxSoftmaxBwd t h b flags sigma s
  | .enfFlush t h => Sys2Proof.Machine.execEnfFlush t h s
  | .arrayGrant t => Sys2Proof.Machine.execArrayGrant t s
  | .osDrainDone t => Sys2Proof.Machine.execOsDrainDone t s
  | .fusedStepDone t n => Sys2Proof.Machine.execFusedStepDone t n s
  | .veOp t h op fmt count d a b c rowlen imm => Sys2Proof.Machine.execVeOp t h op fmt count d a b c rowlen imm s
  | .veRed t h op fmt count d a b seg flags => Sys2Proof.Machine.execVeRed t h op fmt count d a b seg flags s
  | .veLd t h addr tb bytes => Sys2Proof.Machine.execVeLd t h addr tb bytes s
  | .veSt t h addr tb bytes => Sys2Proof.Machine.execVeSt t h addr tb bytes s
  | .veSc t h op fmt d a b addr imm => Sys2Proof.Machine.execVeSc t h op fmt d a b addr imm s
  | .enfDrainLand t set => Sys2Proof.Machine.execEnfDrainLand t set s
  | .enfEpochWrite src t value => Sys2Proof.Machine.execEnfEpochWrite src t value s
  | .svBegin t h refresh => Sys2Proof.Machine.execSvBegin t h refresh s
  | .svRun t h r => Sys2Proof.Machine.execSvRun t h r s
  | .svEnd t h refresh => Sys2Proof.Machine.execSvEnd t h refresh s
  | .chol e => Sys2Proof.Machine.execChol e s
  | .ldlt e => Sys2Proof.Machine.execLdlt e s
  | .trsv e => Sys2Proof.Machine.execTrsv e s
  | .trsm e => Sys2Proof.Machine.execTrsm e s
  | .invRoot e => Sys2Proof.Machine.execInvRoot e s
  | .inv e => Sys2Proof.Machine.execInv e s
  | .eigbasis e => Sys2Proof.Machine.execEigbasis e s
  | .solveLs e => Sys2Proof.Machine.execSolveLs e s
  | .slotLoad e => Sys2Proof.Machine.execSlotLoad e s
  | .slotInit e => Sys2Proof.Machine.execSlotInit e s
  | .solverStepEnd e => Sys2Proof.Machine.execSolverStepEnd e s
  | .borrowedChunk e t => Sys2Proof.Machine.execBorrowedChunk e t s
  | .pinWrite src d pin value => Sys2Proof.Machine.execPinWrite src d pin value s
  | .dataFlit p h landed => Sys2Proof.Machine.execDataFlit p h landed s
  | .credit p counts comp => Sys2Proof.Machine.execCredit p counts comp s
  | .heartbeat p value comp => Sys2Proof.Machine.execHeartbeat p value comp s
  | .heartbeatSend p => Sys2Proof.Machine.execHeartbeatSend p s
  | .quenchFlit p jobId comp => Sys2Proof.Machine.execQuenchFlit p jobId comp s
  | .wakeFlit p value comp => Sys2Proof.Machine.execWakeFlit p value comp s
  | .park p value comp => Sys2Proof.Machine.execPark p value comp s
  | .hello p ix => Sys2Proof.Machine.execHello p ix s
  | .helloTimeout p => Sys2Proof.Machine.execHelloTimeout p s
  | .signalDetect p => Sys2Proof.Machine.execSignalDetect p s
  | .trainFail p => Sys2Proof.Machine.execTrainFail p s
  | .trainRetry p => Sys2Proof.Machine.execTrainRetry p s
  | .laneCheckFail p lane => Sys2Proof.Machine.execLaneCheckFail p lane s
  | .swapDone p => Sys2Proof.Machine.execSwapDone p s
  | .partnerDeparted p => Sys2Proof.Machine.execPartnerDeparted p s
  | .portEnWrite src p value => Sys2Proof.Machine.execPortEnWrite src p value s
  | .retrain src p => Sys2Proof.Machine.execRetrain src p s
  | .remoteAccess p jobId write addr length data => Sys2Proof.Machine.execRemoteAccess p jobId write addr length data s
  | .ethMessage e remote vc seq landed => Sys2Proof.Machine.execEthMessage e remote vc seq landed s
  | .qpOpen remote ix => Sys2Proof.Machine.execQpOpen remote ix s
  | .cnpReceived e remote halvedWithin50us => Sys2Proof.Machine.execCnpReceived e remote halvedWithin50us s
  | .rateRecover e remote => Sys2Proof.Machine.execRateRecover e remote s
  | .ethLinkDown e => Sys2Proof.Machine.execEthLinkDown e s
  | .ethRetransmit e remote => Sys2Proof.Machine.execEthRetransmit e remote s
  | .occurrenceStart d handle => Sys2Proof.Machine.execOccurrenceStart d handle s
  | .ready source jobId round key sig => Sys2Proof.Machine.execReady source jobId round key sig s
  | .niRetry d => Sys2Proof.Machine.execNiRetry d s
  | .send d ix => Sys2Proof.Machine.execSend d ix s
  | .sendReduce d ix => Sys2Proof.Machine.execSendReduce d ix s
  | .get d ix => Sys2Proof.Machine.execGet d ix s
  | .getServe d source jobId entry gen addr bytes fmtIn reqId => Sys2Proof.Machine.execGetServe d source jobId entry gen addr bytes fmtIn reqId s
  | .generationGone d ix => Sys2Proof.Machine.execGenerationGone d ix s
  | .trigSignal d ix => Sys2Proof.Machine.execTrigSignal d ix s
  | .add d ix => Sys2Proof.Machine.execAdd d ix s
  | .atomSend d ix => Sys2Proof.Machine.execAtomSend d ix s
  | .join d ix => Sys2Proof.Machine.execJoin d ix s
  | .joinMessage d source jobId round key ix values => Sys2Proof.Machine.execJoinMessage d source jobId round key ix values s
  | .normsq d ix => Sys2Proof.Machine.execNormsq d ix s
  | .gnsCopy d ix => Sys2Proof.Machine.execGnsCopy d ix s
  | .trigReady d ix => Sys2Proof.Machine.execTrigReady d ix s
  | .done d ix => Sys2Proof.Machine.execDone d ix s
  | .occurrenceRelease d handle round key => Sys2Proof.Machine.execOccurrenceRelease d handle round key s
  | .gnsClear src d layer value => Sys2Proof.Machine.execGnsClear src d layer value s
  | .uuOpen t h r mode => Sys2Proof.Machine.execUuOpen t h r mode s
  | .uuBlocks t h r first count => Sys2Proof.Machine.execUuBlocks t h r first count s
  | .uuClose t h r => Sys2Proof.Machine.execUuClose t h r s
  | .uuNorm t h r first count => Sys2Proof.Machine.execUuNorm t h r first count s
  | .uuInit t h r first count gen => Sys2Proof.Machine.execUuInit t h r first count gen s
  | .weightGroupLanded u => Sys2Proof.Machine.execWeightGroupLanded u s
  | .retainDiscard src d value => Sys2Proof.Machine.execRetainDiscard src d value s
  | .retainDiscardTag src d value => Sys2Proof.Machine.execRetainDiscardTag src d value s
  | .doorbellPoll p ring sqTail cqHead => Sys2Proof.Machine.execDoorbellPoll p ring sqTail cqHead s
  | .nudge p offset sqTail cqHead => Sys2Proof.Machine.execNudge p offset sqTail cqHead s
  | .transfer d host mod bytes dir tag handle flagBits flag data => Sys2Proof.Machine.execTransfer d host mod bytes dir tag handle flagBits flag data s
  | .solver d handle refresh => Sys2Proof.Machine.execSolver d handle refresh s
  | .exportDesc d r host cap tag => Sys2Proof.Machine.execExportDesc d r host cap tag s
  | .power d target wakeAt => Sys2Proof.Machine.execPower d target wakeAt s
  | .echo d => Sys2Proof.Machine.execEcho d s
  | .coalesceTimeout p cq => Sys2Proof.Machine.execCoalesceTimeout p cq s
  | .sqCfgWrite src p ring value => Sys2Proof.Machine.execSqCfgWrite src p ring value s
  | .cqCfgWrite src p ring value => Sys2Proof.Machine.execCqCfgWrite src p ring value s
  | .begin src c comp => Sys2Proof.Machine.execBegin src c comp s
  | .commit src c comp => Sys2Proof.Machine.execCommit src c comp s
  | .commitAt src c comp => Sys2Proof.Machine.execCommitAt src c comp s
  | .rollback src c comp => Sys2Proof.Machine.execRollback src c comp s
  | .accordTimeout c => Sys2Proof.Machine.execAccordTimeout c s
  | .hostDeparted p cause => Sys2Proof.Machine.execHostDeparted p cause s
  | .registerWrite src offset size value => Sys2Proof.Machine.execRegisterWrite src offset size value s
  | .supplyWarn mv => Sys2Proof.Machine.execSupplyWarn mv s
  | .supplyRecover mv => Sys2Proof.Machine.execSupplyRecover mv s
  | .supplyReset mv => Sys2Proof.Machine.execSupplyReset mv s
  | .supplyOvervolt mv => Sys2Proof.Machine.execSupplyOvervolt mv s
  | .thermalThrottle d => Sys2Proof.Machine.execThermalThrottle d s
  | .planStepUp => Sys2Proof.Machine.execPlanStepUp s
  | .coolantHigh => Sys2Proof.Machine.execCoolantHigh s
  | .thermalTrip => Sys2Proof.Machine.execThermalTrip s
  | .leakDetected => Sys2Proof.Machine.execLeakDetected s
  | .idleEntry => Sys2Proof.Machine.execIdleEntry s
  | .autoIdle => Sys2Proof.Machine.execAutoIdle s
  | .sleepEntry => Sys2Proof.Machine.execSleepEntry s
  | .deepSleepEntry => Sys2Proof.Machine.execDeepSleepEntry s
  | .forceTimeout => Sys2Proof.Machine.execForceTimeout s
  | .offEntry => Sys2Proof.Machine.execOffEntry s
  | .runRequest => Sys2Proof.Machine.execRunRequest s
  | .idleExit => Sys2Proof.Machine.execIdleExit s
  | .sleepExit => Sys2Proof.Machine.execSleepExit s
  | .deepSleepExit measuresOk => Sys2Proof.Machine.execDeepSleepExit measuresOk s
  | .wakePin lowNs => Sys2Proof.Machine.execWakePin lowNs s
  | .wakeReplayed => Sys2Proof.Machine.execWakeReplayed s
  | .powerGoodFailed => Sys2Proof.Machine.execPowerGoodFailed s
  | .powerGoodRetry => Sys2Proof.Machine.execPowerGoodRetry s
  | .tileFault t => Sys2Proof.Machine.execTileFault t s
  | .tileSpared t measureOk selfTestOk => Sys2Proof.Machine.execTileSpared t measureOk selfTestOk s
  | .tileRetire t => Sys2Proof.Machine.execTileRetire t s
  | .unitRetired u => Sys2Proof.Machine.execUnitRetired u s
  | .phaseFailed rail => Sys2Proof.Machine.execPhaseFailed rail s
  | .lockstepMismatch => Sys2Proof.Machine.execLockstepMismatch s
  | .hangSample => Sys2Proof.Machine.execHangSample s
  | .hangDeclared handle => Sys2Proof.Machine.execHangDeclared handle s
  | .stallDeclared handle => Sys2Proof.Machine.execStallDeclared handle s
  | .fabricQuiet handle => Sys2Proof.Machine.execFabricQuiet handle s
  | .escalateReset u => Sys2Proof.Machine.execEscalateReset u s
  | .tileReset t => Sys2Proof.Machine.execTileReset t s
  | .solverReset e => Sys2Proof.Machine.execSolverReset e s
  | .niReset d => Sys2Proof.Machine.execNiReset d s
  | .channelReset st ch up => Sys2Proof.Machine.execChannelReset st ch up s
  | .portReset p => Sys2Proof.Machine.execPortReset p s
  | .dieReset d => Sys2Proof.Machine.execDieReset d s
  | .moduleReset => Sys2Proof.Machine.execModuleReset s
  | .logSummary => Sys2Proof.Machine.execLogSummary s
  | .readReg via offset size => Sys2Proof.Machine.execReadReg via offset size s
  | .writeReg via offset size value => Sys2Proof.Machine.execWriteReg via offset size value s
  | .mgmtPower via target force wakeAt => Sys2Proof.Machine.execMgmtPower via target force wakeAt s
  | .reset via d domain unit wholeModule => Sys2Proof.Machine.execReset via d domain unit wholeModule s
  | .record via r => Sys2Proof.Machine.execRecord via r s
  | .logRead via dumps index => Sys2Proof.Machine.execLogRead via dumps index s
  | .debugChallenge via => Sys2Proof.Machine.execDebugChallenge via s
  | .debugOpen via c => Sys2Proof.Machine.execDebugOpen via c s
  | .debugClose via => Sys2Proof.Machine.execDebugClose via s
  | .debugSessionExpire => Sys2Proof.Machine.execDebugSessionExpire s
  | .memRead via addr length => Sys2Proof.Machine.execMemRead via addr length s
  | .memWrite via addr data => Sys2Proof.Machine.execMemWrite via addr data s
  | .getVersion via => Sys2Proof.Machine.execGetVersion via s
  | .getCapabilities via => Sys2Proof.Machine.execGetCapabilities via s
  | .negotiateAlgorithms via p256 sha256 secp256r1 aes256gcm => Sys2Proof.Machine.execNegotiateAlgorithms via p256 sha256 secp256r1 aes256gcm s
  | .getDigests via => Sys2Proof.Machine.execGetDigests via s
  | .getCertificate via slot => Sys2Proof.Machine.execGetCertificate via slot s
  | .challenge via slot nonce => Sys2Proof.Machine.execChallenge via slot nonce s
  | .getMeasurements via index signed nonce => Sys2Proof.Machine.execGetMeasurements via index signed nonce s
  | .keyExchange via session => Sys2Proof.Machine.execKeyExchange via session s
  | .finish via session ownerChained adeysChained => Sys2Proof.Machine.execFinish via session ownerChained adeysChained s
  | .endSession via session => Sys2Proof.Machine.execEndSession via session s
  | .spdmHeartbeat via session => Sys2Proof.Machine.execSpdmHeartbeat via session s
  | .firmwareUpdate via kind ix => Sys2Proof.Machine.execFirmwareUpdate via kind ix s
  | .activate mask ok => Sys2Proof.Machine.execActivate mask ok s
  | .unitReload kind u measureOk => Sys2Proof.Machine.execUnitReload kind u measureOk s
  | .ratchet src mask comp => Sys2Proof.Machine.execRatchet src mask comp s
  | .coldBoot slot group => Sys2Proof.Machine.execColdBoot slot group s
  | .sillageSample u => Sys2Proof.Machine.execSillageSample u s
  | .sillageEnable src value => Sys2Proof.Machine.execSillageEnable src value s
  | .snapshot src value => Sys2Proof.Machine.execSnapshot src value s
  | .freeze src value => Sys2Proof.Machine.execFreeze src value s
  | .clear src value => Sys2Proof.Machine.execClear src value s
  | .insertion slot group => Sys2Proof.Machine.execInsertion slot group s
  | .removal => Sys2Proof.Machine.execRemoval s
  | .hostReadCompletion p addr ok data thirdErrorIn10ms => Sys2Proof.Machine.execHostReadCompletion p addr ok data thirdErrorIn10ms s
  | .hostPortReturns p speed width => Sys2Proof.Machine.execHostPortReturns p speed width s
  | .trainingComplete p width4 latencyNs => Sys2Proof.Machine.execTrainingComplete p width4 latencyNs s
  | .ethLinkUp e => Sys2Proof.Machine.execEthLinkUp e s
  | .qpClose remote => Sys2Proof.Machine.execQpClose remote s
  | .inputHeld40v => Sys2Proof.Machine.execInputHeld40v s
  | .coolantInletBelow42c => Sys2Proof.Machine.execCoolantInletBelow42c s
  | .leakSensorDry => Sys2Proof.Machine.execLeakSensorDry s
  | .spareColumnGroupRepair st pch bank => Sys2Proof.Machine.execSpareColumnGroupRepair st pch bank s
  | .spareTsvLaneRepair st pch => Sys2Proof.Machine.execSpareTsvLaneRepair st pch s
  | .dieLinkReplayLimit d other => Sys2Proof.Machine.execDieLinkReplayLimit d other s
  | .spdmHeartbeatMissed session => Sys2Proof.Machine.execSpdmHeartbeatMissed session s
  | .consoleCommand text => Sys2Proof.Machine.execConsoleCommand text s
  | .neighbourSolicitation e target => Sys2Proof.Machine.execNeighbourSolicitation e target s
  | .pfcPause e priority paused => Sys2Proof.Machine.execPfcPause e priority paused s

end Sys2Proof.Machine
end

