-- ==== Sys2Proof/Safety.lean ====
section
/-! DEFINITION. The words the statements use: what it is for a command to complete, the conditions under which a
command of a thread is issued and a set-up write acts, and the invariants of the state. -/

namespace Sys2Proof.Machine

/-- The command answers a next state at `s`, and the next state satisfies `q`. -/
def Completes (i : Instr) (s : State) (q : State → Prop) : Prop := ∃ u, exec i s = .next u ∧ q u

namespace State

/-- Both memories have their canonical form. -/
def memWf (s : State) : Bool := Memory.wf s.mem && Memory.wf s.hostMem

/-- A fetched command passes the checks of R68 and its thread issues it: the thread is READY, its job running, and
the power state lets it issue (R434). -/
abbrev issuing (s : State) (t : ThreadId) (op eng : Nat) (h : CmdHead) (fieldsOk : Bool) (j : Job) : Prop :=
  (s.thread t.key).st = .ready ∧ s.findJob (s.thread t.key).job = some j ∧ j.st = .running ∧ s.issues t = true
    ∧ headCode op eng t h (s.thread t.key).pc fieldsOk = none ∧ h.upsets = []

/-- The command leaves no Sillage record (R67, R511), so that nothing but the command itself writes memory. -/
abbrev untraced (s : State) (h : CmdHead) : Prop := h.trace = false ∨ s.flag Regs.silCtrl 0 = false

/-- The thread goes on `n` commands: its pc, loops and bases as R80 has them, READY where its line is in the list
cache and WAIT_LIST where it is not (R62). -/
def advanced (t : ThreadId) (n : Nat) (s u : State) : Prop :=
  (u.thread t.key).pc = (stepThread n (s.thread t.key)).pc
    ∧ (u.thread t.key).loops = (stepThread n (s.thread t.key)).loops
    ∧ (u.thread t.key).bases = (stepThread n (s.thread t.key)).bases
    ∧ ((u.thread t.key).st = .ready ∨ (u.thread t.key).st = .waitList)

/-- The thread stopped on a fault that quenched its job with the code (R97). -/
def haltedWith (t : ThreadId) (j : Job) (code : W16) (u : State) : Prop :=
  (u.thread t.key).st = .halted ∧ ∃ k, u.findJob j.handle = some k ∧ k.st = .quenching ∧ k.cause = code

/-- A write of the host or of the management controller reaches its register at once: the requester is up, the
set-up space is on, and no transaction of its context is open (R397, R412, R442). -/
abbrev writesNow (s : State) (src : Src) : Prop :=
  s.reaches src = true ∧ (s.acc (ctxOf src)).st ≠ 1 ∧ s.power.st ≠ 3 ∧ s.power.held = false
    ∧ (match src with | .list _ => false | _ => true) = true

/-- The requester of an Accord context writes its command register: it is up and the host interface is on. -/
abbrev commands (s : State) (src : Src) (c : Nat) : Prop :=
  s.reaches src = true ∧ ctxOf src = c ∧ s.power.st ≠ 3 ∧ s.power.held = false
    ∧ (match src with | .list _ => false | _ => true) = true

/-- A pulse of the cable arrives, a bit of a width in one of the two windows, and the cable is the source (R30, R33). -/
abbrev pulsed (s : State) (width : W16) (b : Bool) : Prop :=
  s.power.off = false ∧ State.pulseBit width.toNat = some b ∧ s.beat.activeSrc = 1 ∧ (s.beatSrc = 0 ∨ s.beatSrc = 1)

/-- The count of the beat that the cable shows with this bit, where it completes the second of two frames whose counts
differ by 64 (R34). -/
def cableShows (s : State) (b : Bool) : Option Nat :=
  match (s.receiveBit b).1 with | some (c, true) => some c | _ => none

/-- A control flit arrives on a port in service, in sequence and with a good CRC (R291). -/
abbrev arrives (s : State) (h : CtlFlit) : Prop :=
  s.linksOn = true ∧ (s.link h.port.val).st.serves = true ∧ s.inSequence h.port.val h.toLinkHead = true

/-- The ACK of a flit names the last flit acknowledged or one that is kept, and too few flits are kept for a lane check
(R291). -/
abbrev acksWell (s : State) (p : Nat) (h : LinkHead) : Prop :=
  (h.ack.toNat = (s.link p).lastAck ∨ ∃ f ∈ (s.link p).retry, f.seq = h.ack.toNat)
    ∧ (s.link p).replays + (s.link p).retry.length < 63

/-- A port holds no flit back and owes no credit, and no route is on its way back (R292, R305). -/
abbrev linkIdle (s : State) (p : Nat) : Prop :=
  (s.link p).held = [] ∧ (s.link p).creditSeq = none ∧ (s.link p).owed = noCounts ∧ s.fabric.returning = []

/-- A group port or an Ethernet port carries traffic. -/
abbrev carries (s : State) (p : Nat) : Prop :=
  s.linksOn = true ∧ (p < 7 → (s.link p).st = .up) ∧ (7 ≤ p → mget s.fabric.eth (p - 7) 1 = 4)

/-- A marker arrives from the source in use (R32, R33). -/
abbrev marked (s : State) (h : CtlFlit) (value : W64) : Prop :=
  s.arrives h ∧ bits value.toNat 50 48 ≠ 7 ∧ s.beat.activeSrc = BitVec.ofNat 4 (h.port.val + 2)
    ∧ (s.beatSrc = 0 ∨ s.beatSrc = 2 ∧ s.field Regs.beatCfg 4 2 = h.port.val)

/-- The count that a marker shows, where it is at least the 128th in a row that counts up by one (R34). -/
def markerShows (s : State) (h : CtlFlit) (value : W64) : Option Nat :=
  let old := s.markerRun h.port.val
  if 127 ≤ old.run ∧ bits value.toNat 47 0 = old.count + 1 then some (bits value.toNat 47 0) else none

/-- Entries between the old count and a later one are late (R36). -/
def passedLate (u s : State) (c : Nat) : Prop :=
  ∀ k e, mfind s.sched k = some e → s.beatCount * 65536 < e.position.toNat → e.position.toNat < c * 65536 →
    ∃ e', mfind u.sched k = some e' ∧ e'.late = true ∧ e'.position = e.position

/-- What becomes of the count where the source's count `c` is found (R36). -/
def relocked (s : State) (c : Nat) (u : State) : Prop :=
  (c = s.beatCount → u.beat.mode = 1 ∧ u.beat.pos = s.beat.pos ∧ u.beat.unconfirmed = false) ∧
  (s.beatCount < c → u.beat.jumpNext = true ∧ u.beat.srcCount = some c ∧ u.beat.pos = s.beat.pos) ∧
  (c < s.beatCount → s.beatCount ≤ c + 64 →
    u.beat.holding = true ∧ u.beat.mode = 1 ∧ u.beat.pos = BitVec.ofNat 64 (s.beatCount * 65536 + 65535)) ∧
  (c + 64 < s.beatCount → u.beat.mode = 3 ∧ u.beat.conflict = true ∧ u.flag Regs.beatStatus 10 = true ∧
    u.flag Regs.beatStatus 11 = true)

/-- The operand slots of a matrix thread (R188). -/
def opnd (s : State) (tile n i : Nat) : OpndSlot := mget (s.thread (tile * 28 + n)).slots i noSlot

/-- What a product computes with (R184 to R201): the zero-block map counts where the tile's switch was set at its grant. -/
def productData (s : State) (tile n : Nat) (p : Prod) : Data :=
  s.prodData p (s.opnd tile n) ((pairClass (s.opnd tile n 0).format (s.opnd tile n 1).format).getD 0)
    (p.zskip && mget s.matrix.zskip tile true)

/-- A product without Enfleurage holds the array and meets the checks and waits of R186 to R199, whichever way its FILL is
counted (R195). -/
abbrev productReady (s : State) (tile n : Nat) (j : Job) (p : Prod) (fused : Option Fused) : Prop :=
  let sl := s.opnd tile n
  let zs := p.zskip && mget s.matrix.zskip tile true
  let extra := fusedSlots fused
  let norm := match fused with | some f => f.norm | none => false
  let spans := (neededSlots p zs (sl 0).format (sl 1).format extra).map (fun i => spanOf p sl (fused.isSome && norm) i)
  let parts := accessed (s.productData tile n p) (s.enfFeeds tile p.enf p.m) spans
  let d := spanOf p sl false 2
  mfind s.matrix.holder tile = some n ∧ p.enf = 0
    ∧ s.chainFits tile (tile * 28 + n) p fused.isSome ((pairClass (sl 0).format (sl 1).format).getD 0) = true
    ∧ (p.sparse = true → (s.productData tile n p).metaOk = true)
    ∧ (fmtTensor (sl 0).format = true → tensorScaleOk (s.loadNat (sl 3).addr 4) = true)
    ∧ (fmtTensor (sl 1).format = true → tensorScaleOk (s.loadNat (sl 4).addr 4) = true)
    ∧ operandFault tile p (s.thread (tile * 28 + n)).slots zs extra fused.isSome norm = none
    ∧ (∀ fill, fill ≤ 152 + loadTime ((pairClass (sl 0).format (sl 1).format).getD 0) p.sparse (areaOf tile (sl 1).addr == 1) (sl 1).orient →
        nominalCount p ((pairClass (sl 0).format (sl 1).format).getD 0) (sl 0).format (sl 1).format
          (areaOf tile (sl 0).addr == 1) (areaOf tile (sl 1).addr == 1) (sl 1).orient fill ≤ 24576)
    ∧ s.meetsHeld tile (d.addr, d.length) = false ∧ (∀ x ∈ spans, s.meetsHeld tile (x.addr, x.length) = false)
    ∧ (s.checkSpans tile j p.dst parts).1 = .ok ∧ (p.os = false ∨ p.dst = 2 ∨ mfind s.matrix.osDrain tile = none)

/-- A descriptor of a kind at the front of its ring is consumed and sound (R403, R405), and its completion ring, of a port
that no other has adopted, holds nothing back. -/
abbrev takes (s : State) (d : DescHead) (kind need : Nat) : Prop :=
  s.canConsume d need = true ∧ descCode kind d = none ∧ (s.port d.port.val).adopter = none
    ∧ (s.ring d.port.val (s.boundCq d.port.val d.ring.val)).held = []

/-- Address of the entry that a completion ring takes next (R411). -/
def entryAddr (s : State) (p n : Nat) : Nat :=
  s.regNat (Regs.cqBase p n) + 16 * ((s.ring p n).cqTail.toNat % s.cqEntries p n)

/-- The descriptor was consumed, and the next entry of its completion ring carries the code (R403, R411). -/
def answeredWith (s : State) (d : DescHead) (code : W16) (u : State) : Prop :=
  (u.ring d.port.val d.ring.val).sqHead = (s.ring d.port.val d.ring.val).sqHead + 1
    ∧ (u.ring d.port.val (s.boundCq d.port.val d.ring.val)).cqTail
        = (s.ring d.port.val (s.boundCq d.port.val d.ring.val)).cqTail + 1
    ∧ u.hostNat d.port.val (s.entryAddr d.port.val (s.boundCq d.port.val d.ring.val)) 2 = code.toNat

/-- The entry of a schedule table is due, sound and first in the order of R41, and may fire (R40 to R42). -/
abbrev fires (s : State) (table i kind : Nat) (e : SchedEntry) : Prop :=
  mfind s.sched (table * 1024 + i) = some e ∧ e.guarded = true ∧ e.kind = kind ∧ s.isDue e = true
    ∧ (kind = 1 ∨ s.power.st = 0) ∧ s.blocked table i e = false

/-- The active bank of each firmware kind holds a valid image whose SVN is at least the kind's minimum (R485). -/
def imagesGood (s : State) : Bool :=
  [0, 1, 2].all (fun k => match s.fwBank k (s.bankOfKind k) with
    | some x => x.valid && decide (mget s.mgmt.minSvn k 0 ≤ x.svn)
    | none => false)

/-- The newest entry of the error log. -/
def lastLog (s : State) : Option W16 := s.obs.log.head?.map (fun r => r.code)

/-- The action of a fired record runs now: its job runs, it holds one of the 64 action engines of its die, and it has
neither completed nor asked yet (R318, R330, R331). -/
abbrev acting (s : State) (act d slot : Nat) (o : Occ) (a : Armed) (j : Job) (r : TrigRec) (p : Nat) : Prop :=
  s.recordIn d slot = some (o, a) ∧ a.fired = some p ∧ s.findJob o.job = some j ∧ j.st = .running ∧ r = s.trigRec a.recAt
    ∧ r.action = act ∧ a.complete = false ∧ a.asked = false ∧ o.stopped = false ∧ s.stepsRun = true
    ∧ (s.firedBefore d p).length < 64

/-- The action of the record in a triggered-operation slot is complete. -/
def actionDone (u : State) (d slot : Nat) : Prop := ∃ o a, u.recordIn d slot = some (o, a) ∧ a.complete = true

/-- An update unit issues a command on the descriptor `d` at `off`, whose shard record lies at `r` (R346 to R348). -/
abbrev updating (s : State) (x : Stack) (n : Fin 4) (op : Nat) (h : CmdHead) (j : Job) (off : Nat) (d : UpdDesc) (r : Nat) : Prop :=
  s.issuing (.update x n) op 5 h true j ∧ off % 64 = 0 ∧ s.recordAcc (j.image.base + off) 256 = none
    ∧ d = s.updDesc j off ∧ d.guarded = true ∧ d.ok = true
    ∧ s.ownStack (.update x n) x.val (d.n 24 8) 256 = some r ∧ r % 64 = 0
    ∧ (s.checkAll j ⟨5, x.val⟩ [(r, 256, false), (r, 256, true)]).1 = .ok

/-- The shard record is sound and OPEN or CLOSED as said (R356), and no GET waits for it (R381). -/
abbrev recordIs (s : State) (r : Nat) (opened : Bool) : Prop :=
  s.recCurOk r = true ∧ s.recOpen r = opened ∧ ∀ g ∈ s.ni.serve, g.record ≠ r

/-- Extents that do not meet. -/
abbrev disjoint (l : List (Nat × Nat)) : Prop := l.Pairwise (fun a b => a.1 + a.2 ≤ b.1 ∨ b.1 + b.2 ≤ a.1)

/-- What a journal entry says of block `b` for the generation being made (R359, R361): it is DONE, its moments are written, or it
is one generation behind. -/
def journalSays (s : State) (p : Snap) (gen b phase behind : Nat) : Prop :=
  let v := s.loadNat (p.jrn + 16 * b) 8
  s.loadNat (p.jrn + 16 * b + 8) 8 = 2 ^ 64 - 1 - v ∧ bits v 63 48 = p.shard ∧ bits v 31 8 = b
    ∧ bits v 1 0 = phase ∧ (bits v 47 32 + behind) % 65536 = gen

/-- The frozen bitmap names the block (R348, R361). -/
def isFrozen (s : State) (p : Snap) (b : Nat) : Bool := hdrFrozen p.hdr && bit (s.loadNat (p.frozen + b / 8) 1) (b % 8)

/-- Extents of `c` blocks from `b` on that an update writes besides its record, and those that it reads. -/
def blockExtents (p : Snap) (b c : Nat) : List (Nat × Nat) :=
  [(p.jrn + 16 * b, 16 * c), (p.w + 4096 * b, 4096 * c)]
    ++ (if hdrM1 p.hdr then [(p.m1 + 2048 * b, 2048 * c), (p.m1s + 128 * b, 128 * c)] else [])
    ++ (if hdrM2 p.hdr then [(p.m2 + 2048 * b, 2048 * c), (p.m2s + 128 * b, 128 * c)] else [])
def blockSources (p : Snap) (b c : Nat) : List (Nat × Nat) :=
  (if hdrReadsG p.hdr then [(p.gsrc + 8192 * b, 8192 * c)] else [])
    ++ (if hdrHasP p.hdr then [(p.psrc + 8192 * b, 8192 * c)] else [])
    ++ (if hdrFrozen p.hdr then [(p.frozen + b / 8, (c + 7) / 8)] else [])

/-- The moments that block `b` gets before their encoding: R351 on the inputs, whose elements draw on the token. -/
def newMoments (p : Snap) (tok : Nat) (inp : BlockIn) : List (W32 × W32) :=
  (List.range 2048).map (fun i =>
    rawMoments p tok i (if p.rule = 4 then (gradOf p tok i inp).1 else (gradOf p tok i inp).2) (inp.m.getD i 0) (inp.v.getD i 0))

/-- The weights of block `b` as the weight half of an update gives them from the inputs (R351, R354, R355). -/
def newWeights (p : Snap) (seed : W64) (gen b tok : Nat) (inp : BlockIn) : List Byte :=
  (weightHalf p tok (fun i => Num.draw seed 0 (BitVec.ofNat 32 p.shard) gen (2048 * b + i)) inp).codes.flatMap (leBytes 2)

/-- A message reaches the management controller, which accepts it from its source (R475, R478). -/
abbrev accepts (s : State) (via : MsgVia) : Prop := s.mgmtUp = true ∧ s.authorised via = true

/-- The negotiation has come as far as a request needs (R487). -/
abbrev negotiated (s : State) (stage : Nat) : Prop := s.mgmtUp = true ∧ stage ≤ s.mgmt.spdm.stage

/-- The message was answered with the code and the data, and did no more than that. -/
def saidOnly (s u : State) (code : W16) (data : List Byte) : Prop := u = { s with sent := Output.answer code data :: s.sent }

/-- The command is answered DEBUG_DENIED, reported, and does no more than that (R478, R494, R496). -/
def denied (s u : State) : Prop :=
  Output.report 0x7303 0x700 ∈ u.sent ∧ Output.answer 0x7303 [] ∈ u.sent ∧ u.setup = s.setup ∧ u.power = s.power ∧
    u.jobs = s.jobs ∧ u.mgmt = s.mgmt ∧ u.mem = s.mem ∧ u.threads = s.threads ∧ u.obs.dumps = s.obs.dumps

/-- The commands that only the management controller answers, with a source (R479, R487, R489). -/
def messages (via : MsgVia) : List Instr :=
  [.readReg via 0 4, .writeReg via 0 4 0, .mgmtPower via 0 false none, .reset via 0 0 0 true, .record via ⟨0, 0, 0, 0, [], 0, true, true⟩,
    .logRead via false 0, .logRead via true 0, .debugChallenge via, .debugOpen via ⟨true, true, 0, 0, 0, 0, 0, 0, 0⟩, .debugClose via,
    .memRead via 0 64, .memWrite via 0 [], .firmwareUpdate via 0 ⟨0, 0, 0, true⟩, .getVersion via, .getCapabilities via,
    .negotiateAlgorithms via true true true true, .getDigests via, .getCertificate via 0, .challenge via 0 0,
    .getMeasurements via 1 false 0, .keyExchange via 0, .finish via 0 true true, .endSession via 0, .spdmHeartbeat via 0,
    .spdmHeartbeatMissed 0, .consoleCommand [], .activate 7 true]

/-- A record passes every check of R483. -/
abbrev recordHolds (s : State) (r : ConfigRecord) : Prop :=
  r.sigOk = true ∧ s.signerOk r = true ∧ r.serial = s.mgmt.serial ∧ mget s.mgmt.counters r.kind.toNat 0 < r.counter ∧
    r.wellFormed = true

/-- A transfer thread has nothing under way and nothing to land (R87). -/
abbrev idleTransfer (s : State) (k : Nat) : Prop :=
  s.stalled k = false ∧ (s.thread k).tails = [] ∧ s.reqsOut (fun x => x.thread == k) = []

/-- No serve table of a job meets the extent, so that every byte stored there is taken (R385). -/
abbrev clearOfServe (s : State) (a n : Nat) : Prop :=
  ∀ j ∈ s.jobs, j.block.serveCount = 0 ∨ j.block.serve + 64 * j.block.serveCount ≤ a ∨ a + n ≤ j.block.serve

/-- An address of a tile's scratchpad or a shared store, in the normal window. -/
abbrev inStore (a : Nat) : Prop :=
  windowOf a = 0 ∧ ((∃ t o, placeOf a = .scratch t o) ∨ (∃ d o, placeOf a = .shared d o))

/-- An address of stacked memory, a scratchpad, a tile buffer or a shared store, in the normal window: what is stored there
is what memory holds. -/
abbrev plainPlace (a : Nat) : Prop :=
  windowOf a = 0 ∧ (match placeOf a with | .scratch .. | .tbuf .. | .shared .. | .stack .. => true | _ => false) = true

/-- A solver engine works on an operation of a job, and its steps run (R256, R281, R283). -/
abbrev works (s : State) (e : Nat) (o : SlvOp) (j : Job) : Prop :=
  (s.slvEngine e).op = some o ∧ s.stepsRun = true ∧ s.findJob (s.thread (svKey e o.thread)).job = some j ∧ opLives j o = true

/-- The operation has no residual above its RES_MAX (R277). -/
def residOk (o : SlvOp) : Bool :=
  match o.resid with
  | some v => !Num.ltF (Num.fp32.decode o.r.resMax.toNat) (Num.fp32.decode v.toNat)
  | none => true

/-- The record at an image offset passes the checks of R264 for a solver thread, its slot's header too. -/
abbrev recordFor (s : State) (t : ThreadId) (j : Job) (e off : Nat) (r : SlvRec) : Prop :=
  let bs := s.rd (j.image.base + off) 128
  recGuard bs = true ∧ readRec t (s.thread t.key).bases bs = some r ∧ recStatic bs j.image.bytes = true
    ∧ (r.sparse = true → s.schedOk j.image.base j.image.bytes r.sched = true) ∧ s.recIssueOk j e r = true
    ∧ (r.outslot = true → r.op ≠ 15 → s.access j ⟨6, e⟩ false true r.out 64 = .ok ∧ s.curGuard r.out = true ∧ s.slotN r.out = r.n)

/-- The job was quenched by a code of a network interface (R343). -/
def quenchedBy (j : Job) (code : W16) (u : State) : Prop :=
  ∃ k, u.findJob j.handle = some k ∧ k.st = .quenching ∧ k.cause = code

/-- A TE_COPY is issued on a sound record `r` at `at_`, uncached and without a status word, whose accesses pass their checks
(R68, R84 to R86). -/
abbrev copying (s : State) (tile : Tile) (n : Fin 28) (h : CmdHead) (j : Job) (at_ : W32) (r : CopyRec) : Prop :=
  s.issuing (.tile tile n) 0x20 3 h true j ∧ at_.toNat % 64 = 0 ∧ at_.toNat + 64 ≤ j.image.bytes
    ∧ s.recordAcc (j.image.base + at_.toNat) 64 = none
    ∧ readCopyRec (.tile tile n) (s.thread (ThreadId.tile tile n).key).bases (s.rd (j.image.base + at_.toNat) 64) = some r
    ∧ copyFieldsOk (s.rd (j.image.base + at_.toNat) 64) r = true ∧ copySidesOk r = true ∧ r.cached = false
    ∧ r.statusEn = false ∧ (∀ i, i < r.rows → (s.checkAll j ⟨3, tile.val⟩ (State.copyRow r i)).1 = .ok)
    ∧ s.idleTransfer (ThreadId.tile tile n).key ∧ s.untraced h

/-- The same for a TE_ROWCOPY (R393). -/
abbrev rowCopying (s : State) (tile : Tile) (n : Fin 28) (h : CmdHead) (j : Job) (at_ : W32) (r : RowRec) : Prop :=
  s.issuing (.tile tile n) 0x39 3 h true j ∧ at_.toNat % 64 = 0 ∧ at_.toNat + 64 ≤ j.image.bytes
    ∧ s.recordAcc (j.image.base + at_.toNat) 64 = none
    ∧ readRowRec (.tile tile n) (s.thread (ThreadId.tile tile n).key).bases (s.rd (j.image.base + at_.toNat) 64) = some r
    ∧ (∀ i, i < r.rows → (s.rowAccesses r i).all (fun x => copyPlaceOk x.1 0 1 x.2.1) = true)
    ∧ (∀ i, i < r.rows → (s.checkAll j ⟨3, tile.val⟩ (s.rowAccesses r i)).1 = .ok)
    ∧ s.idleTransfer (ThreadId.tile tile n).key ∧ s.untraced h

/-- Nothing waits for a bank or a buffer to become ON: no thread in WAIT_DATA, and no addition, arrival, gather or action at a
network interface (R145). -/
abbrev nothingWaits (s : State) : Prop :=
  (∀ c ∈ s.threads, c.2.st ≠ .waitData) ∧ s.ni.adds = [] ∧ s.ni.arrivals = [] ∧ s.ni.serve = [] ∧ s.ni.occs = []

/-- Bytes that lie in no given extent are as before. -/
def keepsBut (s u : State) (l : List (Nat × Nat)) : Prop :=
  ∀ y, (∀ x ∈ l, y < x.1 ∨ x.1 + x.2 ≤ y) → u.rd8 y = s.rd8 y

/-! ### What the interfaces do (R318 to R341) -/

/-- The head of an interface's sequence for a running job is an occurrence of collective `k`, whose key can be read (R324). -/
abbrev heads (s : State) (h : W32) (d : Nat) (j : Job) (round ki : Nat) (k : KeyRec) : Prop :=
  s.findJob h = some j ∧ j.st = .running ∧ (s.power.st = 0 ∨ s.power.st = 1) ∧ s.headOcc j d = some (round, ki)
    ∧ k = s.keyRec j ki ∧ s.recordAcc (j.image.base + j.image.keyOff + 64 * ki) 64 = none

/-- The same, its guard sound, its claim inside the job's windows and its launch made (R321, R324, R325). -/
abbrev headReady (s : State) (h : W32) (d : Nat) (j : Job) (round ki : Nat) (k : KeyRec) : Prop :=
  s.heads h d j round ki k ∧ k.nkey = ~~~k.key ∧ k.firstSlot d + k.slots d ≤ j.niCount d ∧ k.trig d ≤ j.trigCount d
    ∧ (k.launch = true → mget s.ni.begun ((h.toNat * 4 + d) * 256 + ki) 0 < mget s.ni.launches ((h.toNat * 4 + d) * 256 + ki) 0)

/-- An addition to a counter of a die is made at once: an aligned word of the store, inside the job's banks, that are ON
(R135, R145, R320). -/
abbrev countsAt (s : State) (j : Job) (d off : Nat) : Prop :=
  off < 0x8000000 ∧ off % 4 = 0 ∧ s.access j ⟨4, d⟩ true false (sharedAddr d off) 4 = .ok

/-- RVAL was added to the counter, if the record names one (R330). -/
def counted (s u : State) (d off v : Nat) : Prop :=
  off = noCounter ∨ u.rdNat (sharedAddr d off) 4 = (s.rdNat (sharedAddr d off) 4 + v) % 2 ^ 32

/-- The counter's word, if there is one, and that it lies outside an extent. -/
def counterAt (d off : Nat) : List (Nat × Nat) := if off = noCounter then [] else [(sharedAddr d off, 4)]
abbrev apart (d off a n : Nat) : Prop := off = noCounter ∨ sharedAddr d off + 4 ≤ a ∨ a + n ≤ sharedAddr d off

/-- Bytes that landing `n` elements of a format takes, those of a GET's values, and those that landing touches: whole lines of
NI staging (R318). -/
def landBytes (slot : Bool) (f n : Nat) : Nat := if slot && fmtPath f then 4 * n else extentOf f n
def getBytes (r : TrigRec) (n : Nat) : Nat := if slotForm r.dst && fmtPath r.fmtIn then 4 * n else extentOf r.fmtOut n
def landLen (m y : Nat) : Nat := match placeOf y with | .staging .. => (m + 63) / 64 * 64 | _ => m

/-- The interface of the destination's die lets the data land: on its own die a bank of its own, else where R332 lets it. -/
abbrev landsOk (s : State) (j : Job) (key : W32) (round y n : Nat) (own : Bool) (d : Nat) : Prop :=
  (own = true ∨ (pieces y n).all (fun x => s.landsHere j key round x.1) = true)
    ∧ s.access j ⟨4, dieOf y d⟩ true own y n = .ok
    ∧ (plainPlace y ∨ ∃ x o, placeOf y = .staging x o ∧ windowOf y = 0 ∧ y % 64 = 0 ∧ o + (n + 63) / 64 * 64 ≤ 0x2000000)

/-- `n` elements of a format lie at their destination (R330, R332, R334): as FP32 in a slot, added to what the slot held where
they are added; elsewhere as they arrived, an MX format's scales at the next 64-byte boundary. -/
def landedAs (s u : State) (slot reduce : Bool) (f n y : Nat) (data : List Byte) : Prop :=
  if slot && fmtPath f then
    ∃ tok, ∀ k, k < n →
      let w := if f = 0 then BitVec.ofNat 32 (leNat ((data.drop (4 * k)).take 4))
        else BitVec.ofNat 32 (Num.fp32.convert (.faithful (Config.freeBit tok (2 * k))) ((wireVals f n data).getD k .zero)).1
      u.rdNat (y + 4 * k) 4 =
        (if reduce then Num.accum tok (2 * k + 1) (BitVec.ofNat 32 (s.loadNat (y + 4 * k) 4)) w else w).toNat
  else u.rd y (rowBytes f n) = data.take (rowBytes f n)
    ∧ (fmtMx f = true → u.rd (y + (rowBytes f n + 63) / 64 * 64) (blocksOf n) = data.drop (rowBytes f n))

/-- A send of `n` elements acts now: no earlier send of its channel is unfinished, its receiver is ready, its source at `x`
is readable and its destination, if it lies here, waits for no bank (R331). -/
abbrev sending (s : State) (act d slot : Nat) (o : Occ) (a : Armed) (j : Job) (r : TrigRec) (p n x : Nat) : Prop :=
  s.acting act d slot o a j r p ∧ n = elemsOf r.fmtIn r.bytes ∧ s.sendBehind d p r = false
    ∧ s.sendReadyFor j (s.keyRec j o.keyIndex) o d r = true
    ∧ locate j (s.keyRec j o.keyIndex) d r.src (extentOf r.fmtIn n) = .ok x
    ∧ s.niAcc j d x (extentOf r.fmtIn n) false = .ok ∧ s.ownWaits j (s.keyRec j o.keyIndex) d r = none

/-- The source of a send as it is read. -/
def sourceBytes (s : State) (f n x : Nat) : List Byte :=
  s.load x (rowBytes f n) ++ (if fmtMx f then s.load (x + (rowBytes f n + 63) / 64 * 64) (blocksOf n) else [])

/-- What a send puts on its way: its source, or its conversion (R115, R330). -/
def sentBytes (s : State) (tok : Nat) (j : Job) (o : Occ) (r : TrigRec) (n x : Nat) : List Byte :=
  let e := wireConvert r.fmtIn r.fmtOut (if r.sr then some (Num.draw j.block.seed 2 r.stream (o.round % 65536)) else none) tok n
    (s.sourceBytes r.fmtIn n x)
  if r.fmtIn = r.fmtOut then s.sourceBytes r.fmtIn n x else e.bytes ++ e.scales

/-- The wire format and the data of a write that arrives, atomised data decoded (R337). -/
def arrivedFmt (w : NiWrite) : Nat := if w.atom.isSome then 0 else w.fmtIn.toNat
def arrivedData (w : NiWrite) : List Byte :=
  match w.atom with
  | some x => (atomWords x.toNat w.data).flatMap (fun v => leBytes 4 v.toNat)
  | none => w.data

/-- A write from another module for a collective of a running job, whose destination is `y` (R332). -/
abbrev arriving (s : State) (w : NiWrite) (j : Job) (ki n y : Nat) : Prop :=
  s.findJobId w.jobId = some j ∧ s.findJob j.handle = some j ∧ j.st = .running ∧ w.served = false
    ∧ s.keyIndex j w.key = some ki ∧ s.keyBroken j w.key = none ∧ n = wireElems (arrivedFmt w) (arrivedData w).length
    ∧ locate j (s.keyRec j ki) w.die.val w.dst (landBytes (slotForm w.dst) (arrivedFmt w) n) = .ok y

/-- The values of a JOIN in the order of the member list, `own` those of this module (R333). -/
def joinLists (s : State) (mem : List Nat) (own : List W64) (got : List JoinVals) : List (List W64) :=
  mem.map (fun m => if m = s.moduleNo then own else ((got.find? (fun v => v.source == m)).map (fun v => v.values)).getD [])

/-- A list of values combined element by element: the first member's, then each next one's (R333). -/
def joined (op tok q : Nat) : List (List W64) → W64
  | [] => 0
  | l :: ls => (ls.foldl (fun (acc : W64 × Nat) x => (joinStep op tok (q * 8192 + acc.2) acc.1 (x.getD q 0), acc.2 + 1))
      (joinFirst op (l.getD q 0), 0)).1

/-- Data of a GET for the armed record `a` lands at `y` (R330, R382). -/
abbrev fetching (s : State) (d : Nat) (o : Occ) (a : Armed) (j : Job) (r : TrigRec) (n y : Nat) : Prop :=
  s.findJob j.handle = some j ∧ j.st = .running ∧ o.job = j.handle ∧ s.recordIn d a.slot = some (o, a) ∧ r = s.trigRec a.recAt
    ∧ locate j (s.keyRec j o.keyIndex) d r.dst (getBytes r n) = .ok y
    ∧ (r.rctr = noCounter ∨ s.countsAt j (dieOf y d) r.rctr)

/-! ### Observation (R510 to R515) -/

/-- Sillage runs and names a unit whose clock runs. -/
abbrev sampling (s : State) (x : UnitId) : Prop := s.flag Regs.silCtrl 0 = true ∧ s.silNames x = true ∧ s.clockRuns x = true

/-- The place lies in stacked memory or in a host window. -/
abbrev beyond (a : Nat) : Prop := (∃ y o, placeOf a = .stack y o) ∨ (∃ p o, placeOf a = .host p o)

/-- A Sillage record may be written at the place, and a snapshot record. -/
abbrev recordsAt (s : State) (a : Nat) : Prop :=
  s.placementOk (s.field Regs.silCfg 6 5) (s.field Regs.silCfg 31 16) a 32 = true ∧ beyond a
abbrev snapsAt (s : State) (a : Nat) : Prop :=
  s.placementOk (s.field Regs.snapCfg 1 0) (s.field Regs.snapCfg 31 16) a 64 = true ∧ beyond a

end State

/-! ### Families of commands, for the frames -/

/-- Messages that read, negotiate, or change only what the management controller holds. -/
def staysInMgmt : Instr → Bool
  | .readReg .. | .logRead .. | .memRead .. | .debugChallenge .. | .debugOpen .. | .debugClose .. | .debugSessionExpire
  | .getVersion .. | .getCapabilities .. | .negotiateAlgorithms .. | .getDigests .. | .getCertificate .. | .challenge ..
  | .getMeasurements .. | .keyExchange .. | .finish .. | .endSession .. | .spdmHeartbeat .. | .spdmHeartbeatMissed ..
  | .firmwareUpdate .. | .activate .. | .lockstepMismatch | .consoleCommand .. => true
  | _ => false

/-- Events of the links and of the Ethernet ports that carry no write of a job. -/
def staysOnLinks : Instr → Bool
  | .signalDetect .. | .trainRetry .. | .trainFail .. | .trainingComplete .. | .hello .. | .helloTimeout .. | .laneCheckFail ..
  | .swapDone .. | .partnerDeparted .. | .portReset .. | .park .. | .credit .. | .heartbeat .. | .heartbeatSend ..
  | .qpOpen .. | .qpClose .. | .cnpReceived .. | .rateRecover .. | .ethLinkUp .. | .ethLinkDown .. | .ethRetransmit ..
  | .pfcPause .. | .neighbourSolicitation .. => true
  | _ => false

/-- Events of the stack controllers that move no data. -/
def staysInStacks : Instr → Bool
  | .requestPromote .. | .scrubRead .. | .spareRowRepair .. | .spareColumnGroupRepair ..
  | .spareTsvLaneRepair .. | .channelReplace .. | .channelDown .. | .channelReset .. => true
  | _ => false

/-- Events of the beat, apart from the writes of its registers. -/
def staysInBeat : Instr → Bool
  | .beatPulse .. | .beatMarker .. | .localBeat | .holdoverEntry | .beatLost => true
  | _ => false

/-- Events of the supply, the clock plan and the power states that only change how fast or whether clocks run. -/
def staysInPower : Instr → Bool
  | .supplyRecover .. | .planStepUp | .coolantInletBelow42c | .leakSensorDry | .autoIdle | .runRequest
  | .powerGoodRetry => true
  | _ => false

/-- Commands of the lists of tiles, solver engines and update units, but for the register write. -/
def ofList : Instr → Bool
  | .nop .. | .endCmd .. | .wait .. | .waitWake .. | .watchPoll .. | .signal .. | .waitBeat .. | .waitBeatEnd ..
  | .skipIfFlag .. | .acquire .. | .release .. | .fence .. | .loop .. | .link .. | .mark .. | .listFill .. | .teCopy ..
  | .teDispatch .. | .teRowcopy .. | .mxOpnd .. | .mxMma .. | .mxNormBwd .. | .mxSoftmaxBwd .. | .enfFlush ..
  | .veOp .. | .veRed .. | .veLd .. | .veSt .. | .veSc .. | .svBegin .. | .svRun .. | .svEnd .. | .chol .. | .ldlt ..
  | .trsv .. | .trsm .. | .invRoot .. | .inv .. | .eigbasis .. | .solveLs .. | .slotLoad .. | .slotInit ..
  | .uuOpen .. | .uuBlocks .. | .uuClose .. | .uuNorm .. | .uuInit .. => true
  | _ => false

/-- An aligned word of a scratchpad or shared store in the normal window. -/
abbrev flagPlace (a : Nat) : Prop :=
  a % 4 = 0 ∧ windowOf a = 0 ∧ ((∃ t o, placeOf a = .scratch t o) ∨ (∃ d o, placeOf a = .shared d o))

/-- A 32-bit register without a rule of its own, at an aligned offset. -/
abbrev plainWord (o : Nat) (d : Regs.Desc) : Prop :=
  Regs.desc o = some d ∧ d.width = 32 ∧ d.guarded = false ∧ RegName.at_ o = .plain ∧ o % 4 = 0

abbrev plainLong (o : Nat) (d : Regs.Desc) : Prop :=
  Regs.desc o = some d ∧ d.width = 64 ∧ d.guarded = false ∧ RegName.at_ o = .plain ∧ o % 8 = 0

/-- Staged writes of 32-bit registers without a rule of their own, no two of them of one register. -/
abbrev State.plainStaged (_s : State) (l : List Staged) : Prop :=
  (∀ w ∈ l, w.size = 4 ∧ ∃ d, plainWord w.offset d) ∧ l.Pairwise (fun a b => a.offset ≠ b.offset)

end Sys2Proof.Machine
end

