-- ==== Sys2Proof/Certificates/Slice0/Obligations.lean ====
section
/-! DEFINITION. The statements for the provers, each a `def Obligations.<Name> : Prop`. A clause of the form
`Completes c s (fun u => …)` says that the command `c` answers a next state at `s`, and what that state holds. -/

open Sys2Proof Sys2Proof.Machine

/-! ### The block as a whole -/

/-- A step takes the command at the front of the queue and is `exec` of it with the queue's rest; an empty queue
idles (notes/assumptions/1). -/
def Obligations.StepRunsFront : Prop :=
  (∀ (c : Instr) (rest : List Instr) (s : State), s.pending = c :: rest → step s = exec c { s with pending := rest }) ∧
  (∀ s : State, s.pending = [] → step s = .next s)

/-- No command touches the queue of the commands that wait behind it. -/
def Obligations.QueueUntouched : Prop :=
  ∀ (c : Instr) (s u : State), exec c s = .next u → u.pending = s.pending

/-- Every step keeps both memories in canonical form: addresses rise strictly and no listed byte is 0. -/
def Obligations.MemoryStaysCanonical : Prop :=
  ∀ s u : State, s.memWf = true → step s = .next u → u.memWf = true

/-- After reset both memories have their canonical form, the queue is empty, no thread is bound, no job is admitted
and every set-up register reads its reset value. -/
def Obligations.ResetIsEmpty : Prop :=
  State.reset.memWf = true ∧ State.reset.pending = [] ∧ State.reset.jobs = [] ∧ State.reset.sched = [] ∧
  (∀ k, (State.reset.thread k).st = .free) ∧ (∀ o, State.reset.reg o = Regs.resetValue o)

/-- A byte of memory reads back as it was last written, and every other byte as before. -/
def Obligations.MemoryReadsBack : Prop :=
  (∀ (m : List Host.Cell) (a : Nat) (bs : List Byte), cellsGet (cellsPut m a bs) a bs.length = bs) ∧
  (∀ (m : List Host.Cell) (a x : Nat) (bs : List Byte), x < a ∨ a + bs.length ≤ x →
    cellGet (cellsPut m a bs) x = cellGet m x) ∧
  (∀ (m : List Host.Cell) (a n x : Nat),
    cellGet (cellsZero m a n) x = if a ≤ x ∧ x < a + n then 0 else cellGet m x)
/-! ### The beat -/

/-- A pulse on the beat input while the cable is the source: an edge advances the count by one and returns the phase
to 0, jumps to the source's count or holds where they differ, locks a SEARCH on two frames whose counts differ by
64, and waits for the count where it is not known; a width outside the two windows is no edge (R27, R28, R30, R31,
R33 to R36). In Off the receiver is without supply (R37). A beat marker that arrives in order at the port in use
does the same from the 128th that counts up by one on; one of hop count 7, or at a port that BEAT.CFG does not
select, moves nothing (R32 to R36). The local oscillator counts the beats of FREERUN, HOLDOVER and LOST and enters
FREERUN where SRC is LOCAL; a missing edge makes HOLDOVER an eighth of a beat on, and 64 beats without one make
LOST, with BEAT_LOST and its sticky bit; in every other state, and in Off, each of the three events does nothing
(R28, R33, R35, R37, R56). That a held position is let go at HOLDOVER is the model's reading
(notes/assumptions/84). A write of BEAT.CFG that keeps SRC and GPORT waits for the next edge; one that changes
them acts at once, in HOLDOVER where the beat is in use and in SEARCH at count 0 where it is not; a change to
LOCAL is FREERUN from the current count; RESYNC quenches every running job with an entry in the schedule or a
WAIT_BEAT in its image, but for one whose threads are all DONE, clears the schedule and returns to SEARCH (R34,
R36, R54, R55, R78, R99). That a change of source leaves the LOST of a count conflict is the model's reading
(notes/assumptions/84). -/
def Obligations.BeatFollowsItsSource : Prop :=
  (∀ (s : State) (width : W16) (interval : BitVec 48), s.power.off = true → Completes (.beatPulse width interval) s fun u => u = s) ∧
  (∀ (s : State) (width : W16) (interval : BitVec 48), s.power.off = false → s.flag Regs.beatCfg 5 = true →
    Completes (.beatPulse width interval) s fun u => Output.beatOut width.toNat ∈ u.sent) ∧
  (∀ (s : State) (width : W16) (interval : BitVec 48), s.power.off = false → State.pulseBit width.toNat = none →
    Completes (.beatPulse width interval) s fun u =>
      u.flag Regs.beatStatus 12 = true ∧ u.beat.pos = s.beat.pos ∧ u.beat.mode = s.beat.mode) ∧
  (∀ (s : State) (width : W16) (interval : BitVec 48) (b : Bool), s.power.off = false →
    State.pulseBit width.toNat = some b → s.beatSrc = 2 ∨ s.beatSrc = 3 →
    Completes (.beatPulse width interval) s fun u =>
      u.beat.pos = s.beat.pos ∧ u.beat.mode = s.beat.mode ∧ u.beat.activeSrc = s.beat.activeSrc) ∧
  (∀ (s : State) (width : W16) (interval : BitVec 48) (b : Bool), s.pulsed width b → s.beat.conflict = false →
    s.beat.jumpNext = false → s.beat.holding = false → s.beat.unconfirmed = false → (s.beat.mode = 1 ∨ s.beat.mode = 2) →
    s.cableShows b = none ∨ s.cableShows b = some (s.beatCount + 1) →
    Completes (.beatPulse width interval) s fun u =>
      u.beat.pos = BitVec.ofNat 64 ((s.beatCount + 1) * 65536) ∧ u.beat.mode = 1 ∧ u.beat.missed = 0) ∧
  (∀ (s : State) (width : W16) (interval : BitVec 48) (b : Bool) (c : Nat), s.pulsed width b → s.beat.conflict = false →
    s.beat.jumpNext = true → s.beat.srcCount = some c → s.beatCount < c + 1 → s.cableShows b = none →
    Completes (.beatPulse width interval) s fun u =>
      u.beat.pos = BitVec.ofNat 64 ((c + 1) * 65536) ∧ u.beat.mode = 1 ∧ u.beat.jumpNext = false ∧
      u.passedLate s (c + 1)) ∧
  (∀ (s : State) (width : W16) (interval : BitVec 48) (b : Bool) (c : Nat), s.pulsed width b → s.beat.conflict = false →
    s.beat.jumpNext = false → s.beat.holding = true → s.beat.mode = 1 → s.beat.srcCount = some c → s.cableShows b = none →
    Completes (.beatPulse width interval) s fun u =>
      u.beat.pos = s.beat.pos ∧ u.beat.mode = 1 ∧ u.beat.holding = decide (c + 1 < s.beatCount)) ∧
  (∀ (s : State) (width : W16) (interval : BitVec 48) (b : Bool), s.pulsed width b → s.cableShows b = none →
    (s.beat.conflict = true ∨ s.beat.jumpNext = false ∧ (s.beat.mode = 0 ∨ s.beat.unconfirmed = true ∨ s.beat.mode = 3)) →
    s.beat.holding = false → Completes (.beatPulse width interval) s fun u =>
      u.beat.pos = s.beat.pos ∧ u.beat.mode = s.beat.mode ∧ u.beat.missed = 0) ∧
  (∀ (s : State) (width : W16) (interval : BitVec 48) (b : Bool) (c : Nat), s.pulsed width b → s.beat.conflict = false →
    s.beat.jumpNext = false → s.cableShows b = some c → s.beat.mode = 0 → s.beatInUse = false →
    Completes (.beatPulse width interval) s fun u =>
      u.beat.pos = BitVec.ofNat 64 (c * 65536) ∧ u.beat.mode = 1 ∧ u.beat.unconfirmed = false) ∧
  (∀ (s : State) (width : W16) (interval : BitVec 48) (b : Bool) (c : Nat), s.pulsed width b → s.beat.conflict = false →
    s.beat.jumpNext = false → s.beat.holding = false → s.cableShows b = some c →
    (s.beat.unconfirmed = true ∨ s.beat.mode = 3) → (s.beat.mode ≠ 0 ∨ s.beatInUse = true) →
    Completes (.beatPulse width interval) s (s.relocked c)) ∧
  (∀ (s : State) (width : W16) (interval : BitVec 48) (b : Bool), s.power.off = false →
    State.pulseBit width.toNat = some b → s.beatSrc = 0 → s.beat.activeSrc ≠ 1 → (s.receiveBit b).2.cableLive = true →
    s.cableShows b = none → 4 ≤ s.beat.missed → s.beat.mode = 2 → s.beat.conflict = false → s.beat.unconfirmed = false →
    Completes (.beatPulse width interval) s fun u =>
      u.beat.activeSrc = 1 ∧ u.beat.pos = BitVec.ofNat 64 ((s.beatCount + 1) * 65536) ∧ u.beat.mode = 1) ∧
  (∀ (s : State) (h : CtlFlit) (value : W64) (interval : BitVec 48), s.arrives h →
    (bits value.toNat 50 48 = 7 ∨ s.beatSrc = 1 ∨ s.beatSrc = 3 ∨ s.beatSrc = 2 ∧ s.field Regs.beatCfg 4 2 ≠ h.port.val) →
    Completes (.beatMarker h value (~~~value) interval) s fun u =>
      u.beat.pos = s.beat.pos ∧ u.beat.mode = s.beat.mode ∧ u.beat.activeSrc = s.beat.activeSrc) ∧
  (∀ (s : State) (h : CtlFlit) (value : W64) (interval : BitVec 48), s.marked h value → s.beat.conflict = false →
    s.beat.jumpNext = false → s.beat.holding = false → s.beat.unconfirmed = false → (s.beat.mode = 1 ∨ s.beat.mode = 2) →
    s.markerShows h value = none ∨ s.markerShows h value = some (s.beatCount + 1) →
    Completes (.beatMarker h value (~~~value) interval) s fun u =>
      u.beat.pos = BitVec.ofNat 64 ((s.beatCount + 1) * 65536) ∧ u.beat.mode = 1 ∧ u.beat.missed = 0 ∧
      u.beat.hops = BitVec.ofNat 3 (bits value.toNat 50 48)) ∧
  (∀ (s : State) (h : CtlFlit) (value : W64) (interval : BitVec 48) (c : Nat), s.marked h value → s.beat.conflict = false →
    s.beat.jumpNext = true → s.beat.srcCount = some c → s.beatCount < c + 1 → s.markerShows h value = none →
    Completes (.beatMarker h value (~~~value) interval) s fun u =>
      u.beat.pos = BitVec.ofNat 64 ((c + 1) * 65536) ∧ u.beat.mode = 1 ∧ u.beat.jumpNext = false ∧
      u.passedLate s (c + 1)) ∧
  (∀ (s : State) (h : CtlFlit) (value : W64) (interval : BitVec 48), s.marked h value → s.markerShows h value = none →
    (s.beat.conflict = true ∨ s.beat.jumpNext = false ∧ (s.beat.mode = 0 ∨ s.beat.unconfirmed = true ∨ s.beat.mode = 3)) →
    s.beat.holding = false → Completes (.beatMarker h value (~~~value) interval) s fun u =>
      u.beat.pos = s.beat.pos ∧ u.beat.mode = s.beat.mode ∧ u.beat.missed = 0) ∧
  (∀ (s : State) (h : CtlFlit) (value : W64) (interval : BitVec 48) (c : Nat), s.marked h value → s.beat.conflict = false →
    s.beat.jumpNext = false → s.markerShows h value = some c → s.beat.mode = 0 → s.beatInUse = false →
    Completes (.beatMarker h value (~~~value) interval) s fun u =>
      u.beat.pos = BitVec.ofNat 64 (c * 65536) ∧ u.beat.mode = 1 ∧ u.beat.unconfirmed = false) ∧
  (∀ (s : State) (h : CtlFlit) (value : W64) (interval : BitVec 48) (c : Nat), s.marked h value → s.beat.conflict = false →
    s.beat.jumpNext = false → s.beat.holding = false → s.markerShows h value = some c →
    (s.beat.unconfirmed = true ∨ s.beat.mode = 3) → (s.beat.mode ≠ 0 ∨ s.beatInUse = true) →
    Completes (.beatMarker h value (~~~value) interval) s (s.relocked c)) ∧
  (∀ s : State, s.power.off = true → ∀ c ∈ [Instr.localBeat, .holdoverEntry, .beatLost], Completes c s fun u => u = s) ∧
  (∀ s : State, s.power.off = false → s.beat.mode = 4 →
    Completes .localBeat s fun u =>
      u.beat.pos = BitVec.ofNat 64 ((s.beatCount + 1) * 65536) ∧ u.beat.mode = 4) ∧
  (∀ s : State, s.power.off = false → s.beat.mode = 2 ∨ s.beat.mode = 3 →
    Completes .localBeat s fun u =>
      u.beat.pos = BitVec.ofNat 64 ((s.beatCount + 1) * 65536) ∧ u.beat.mode = s.beat.mode ∧
      u.beat.missed = s.beat.missed + 1) ∧
  (∀ s : State, s.power.off = false → s.beat.mode = 0 → s.beatSrc = 3 →
    Completes .localBeat s fun u => u.beat.mode = 4 ∧ u.beat.activeSrc = 9 ∧ u.beat.pos = s.beat.pos) ∧
  (∀ s : State, (s.beat.mode = 0 ∧ s.beatSrc ≠ 3 ∨ s.beat.mode = 1) → Completes .localBeat s fun u => u = s) ∧
  (∀ s : State, s.power.off = false → s.beat.mode = 1 →
    Completes .holdoverEntry s fun u =>
      u.beat.mode = 2 ∧ u.beat.pos = BitVec.ofNat 64 ((s.beatCount + 1) * 65536 + 8192) ∧
      u.beat.missed = s.beat.missed + 1) ∧
  (∀ s : State, s.beat.mode ≠ 1 → Completes .holdoverEntry s fun u => u = s) ∧
  (∀ s : State, s.power.off = false → s.beat.mode = 2 → 64 ≤ s.beat.missed →
    Completes .beatLost s fun u =>
      u.beat.mode = 3 ∧ u.beat.unconfirmed = true ∧ u.beat.pos = s.beat.pos ∧ u.flag Regs.beatStatus 10 = true) ∧
  (∀ s : State, s.beat.mode ≠ 2 ∨ s.beat.missed < 64 → Completes .beatLost s fun u => u = s) ∧
  (∀ (s : State) (src : Src) (value : W32), s.writesNow src →
    bits value.toNat 4 0 = bits (s.regNat Regs.beatCfg) 4 0 →
    Completes (.beatCfgWrite src value) s fun u =>
      u.beat.cfgNew = some (value &&& 0x1FFFF7F) ∧ u.reg Regs.beatCfg = s.reg Regs.beatCfg ∧ u.beat.pos = s.beat.pos ∧
      u.beat.mode = s.beat.mode) ∧
  (∀ (s : State) (src : Src) (value : W32), s.writesNow src →
    bits value.toNat 4 0 ≠ bits (s.regNat Regs.beatCfg) 4 0 →
    Completes (.beatCfgWrite src value) s fun u =>
      u.regNat Regs.beatCfg = (value &&& 0x1FFFF7F).toNat ∧ u.beat.cfgNew = none ∧
      (s.beat.conflict = true → u.beat.mode = s.beat.mode ∧ u.beat.pos = s.beat.pos) ∧
      (s.beat.conflict = false → bits value.toNat 1 0 = 3 → u.beat.mode = 4 ∧ u.beat.pos = s.beat.pos ∧ u.beat.activeSrc = 9) ∧
      (s.beat.conflict = false → bits value.toNat 1 0 ≠ 3 → s.beatInUse = true →
        u.beat.mode = 2 ∧ u.beat.pos = s.beat.pos ∧ u.beat.activeSrc = 0 ∧ u.beat.unconfirmed = true) ∧
      (s.beat.conflict = false → bits value.toNat 1 0 ≠ 3 → s.beatInUse = false →
        u.beat.mode = 0 ∧ u.beat.pos = 0 ∧ u.beat.activeSrc = 0 ∧ u.beat.unconfirmed = true)) ∧
  (∀ (s : State) (src : Src), s.writesNow src →
    Completes (.resync src) s fun u =>
      u.beat.mode = 0 ∧ u.beat.conflict = false ∧ u.beat.pos = 0 ∧ u.sched = [] ∧
      (∀ (h : W32) (j : Job), s.findJob h = some j → j.st = .running → s.threadsDone j = false →
        (s.sched.any (fun c => c.2.owner == h) = true ∨ bit j.image.flags 1 = true) →
        ∃ k, u.findJob h = some k ∧ k.st = .quenching ∧ k.cause = 0x1401))

/-! ### The beat schedule -/

/-- A due entry fires and is removed: WAKE starts the exit from a low-power state, DEADLINE_JOB reports
DEADLINE_MISSED and quenches a job only where its ON_MISS is 1. No entry fires before its position, out of its
turn, or, but for WAKE, outside Run, where a due one wakes the module (R40 to R42, R52, R436). DEADLINE_REFRESH
abandons the open occurrence of its refresh on every engine the refresh names, or marks the oldest launched one
that has not begun and has no mark; an engine with neither keeps what it has (R282). -/
def Obligations.ScheduleWakesAndDeadlines : Prop :=
  (∀ (s : State) (i : Fin 256) (e : SchedEntry), s.fires 4 i.val 1 e → s.wakeEnabled 4 = true →
    (s.power.st = 1 ∨ s.power.st = 2 ∨ s.power.st = 3) → s.power.off = false → s.power.held = false → s.power.leak = false →
    Completes (.wakeEntry i) s fun u =>
      u.power.st = 5 ∧ u.power.origin = s.power.st ∧ u.power.lastWake = 4 ∧ mfind u.sched (4 * 1024 + i.val) = none) ∧
  (∀ (s : State) (d : Die) (i : Fin 1024) (e : SchedEntry) (j : Job), s.fires d.val i.val 5 e →
    s.findJob e.target = some j → j.st = .running →
    Completes (.deadlineJob d i) s fun u =>
      u.lastLog = some 0x120A ∧ mfind u.sched (d.val * 1024 + i.val) = none ∧
      (bit j.block.flags.toNat 2 = false → u.findJob e.target = some j) ∧
      (bit j.block.flags.toNat 2 = true → s.threadsDone j = false → ∃ k, u.findJob e.target = some k ∧ k.st = .quenching ∧ k.cause = 0x120A)) ∧
  (∀ (s : State) (d : Die) (i : Fin 1024) (m : Fin 256),
    ∀ c ∈ [(3, d.val * 1024 + i.val, Instr.releaseEntry d i), (4, d.val * 1024 + i.val, .deadlineRefresh d i),
      (5, d.val * 1024 + i.val, .deadlineJob d i), (6, d.val * 1024 + i.val, .refreshLaunch d i),
      (7, d.val * 1024 + i.val, .collectiveLaunch d i), (8, d.val * 1024 + i.val, .exportEntry d i),
      (1, 4 * 1024 + m.val, .wakeEntry m), (2, 4 * 1024 + m.val, .accordCommit m)],
    Completes c.2.2 s fun u =>
      (mfind s.sched c.2.1 = none → u = s) ∧
      (∀ e, mfind s.sched c.2.1 = some e → e.guarded = true → s.isDue e = false → u = s) ∧
      (∀ e, mfind s.sched c.2.1 = some e → e.guarded = true → s.isDue e = true →
        (s.power.st = 0 → e.kind ≠ c.1 ∨ s.blocked (c.2.1 / 1024) (c.2.1 % 1024) e = true → u = s) ∧
        (s.power.st ≠ 0 → c.1 ≠ 1 ∨ e.kind ≠ 1 ∨ s.blocked (c.2.1 / 1024) (c.2.1 % 1024) e = true → u = s.wakeBy 4))) ∧
  (∀ (s : State) (d : Die) (i : Fin 1024) (e : SchedEntry) (j : Job), s.fires d.val i.val 4 e → s.findJob e.owner = some j →
    Completes (.deadlineRefresh d i) s fun u =>
      let open_ := fun n => (s.slvEngine n).opens.find? (fun o => o.refresh == e.flags && o.abandoned == 0 &&
        (s.thread (State.svKey n o.thread)).job == j.handle)
      let key := fun n => State.launchKey j.handle n e.flags
      let next := fun n =>
        ((List.range (mget s.solver.launches (key n) 0 - mget s.solver.begins (key n) 0)).map
          (fun x => mget s.solver.begins (key n) 0 + 1 + x)).find? (fun o => !s.solver.marks.contains (key n, o))
      mfind u.sched (d.val * 1024 + i.val) = none ∧ u.mem = s.mem ∧ u.solver.begins = s.solver.begins ∧
      u.solver.launches = s.solver.launches ∧
      (∀ n ∈ s.refreshOn j e.flags d.val, ∀ q, open_ n = some q →
        { q with abandoned := 0x2310 } ∈ (u.slvEngine n).opens) ∧
      (∀ n ∈ s.refreshOn j e.flags d.val, open_ n = none → u.slvEngine n = s.slvEngine n ∧
        ∀ o, next n = some o → (key n, o) ∈ u.solver.marks) ∧
      (∀ m ∈ s.solver.marks, m ∈ u.solver.marks) ∧
      (∀ n, n ∉ s.refreshOn j e.flags d.val → u.slvEngine n = s.slvEngine n)) ∧
  (∀ (s : State) (d : Die) (i : Fin 1024) (e : SchedEntry), s.fires d.val i.val 4 e → s.findJob e.owner = none →
    Completes (.deadlineRefresh d i) s fun u => u = s.fired d.val i.val e)

/-- An entry whose guard does not hold is discarded, whatever its kind, with GUARD_MISMATCH in the error log and no
other action (R40). -/
def Obligations.ScheduleGuardDiscards : Prop :=
  ∀ (s : State) (d : Die) (i : Fin 1024) (e : SchedEntry), mfind s.sched (d.val * 1024 + i.val) = some e → e.guarded = false →
    ∀ c ∈ [Instr.releaseEntry d i, .deadlineRefresh d i, .deadlineJob d i, .refreshLaunch d i, .collectiveLaunch d i,
      .exportEntry d i],
    Completes c s fun u =>
      mfind u.sched (d.val * 1024 + i.val) = none ∧ u.lastLog = some 0x8010 ∧ u.jobs = s.jobs ∧ u.threads = s.threads ∧
      u.mem = s.mem ∧ u.power = s.power

/-! ### Common commands of the threads -/

/-- NOP, END, FENCE, LOOP and LINK: where the thread goes on, and with which loops (R73, R80, R81, R83). An END waits
for the thread's earlier commands, in WAIT_DATA by notes/assumptions/85, and faults behind an open chain (R196).
The end of a loop's body starts its next iteration with the stride added to its base, and its last iteration goes
on behind it with the base as it was (R80). -/
def Obligations.ThreadsGoOnAndRepeat : Prop :=
  (∀ (s : State) (t : ThreadId) (h : CmdHead) (j : Job), s.issuing t 0x00 0 h true j →
    Completes (.nop t h) s fun u => s.advanced t 1 u ∧ (s.untraced h → u.mem = s.mem)) ∧
  (∀ (s : State) (t : ThreadId) (h : CmdHead) (j : Job), s.issuing t 0x01 0 h true j → s.busy t.key = false →
    (s.thread t.key).markAt = none → s.matrix.chain.any (fun c => c.2.thread == t.key) = false →
    Completes (.endCmd t h) s fun u => (u.thread t.key).st = .done ∧ (u.thread t.key).loops = []) ∧
  (∀ (s : State) (t : ThreadId) (h : CmdHead) (j : Job), s.issuing t 0x01 0 h true j →
    Completes (.endCmd t h) s fun u =>
      (s.matrix.chain.any (fun c => c.2.thread == t.key) = true → State.haltedWith t j 0x1133 u) ∧
      (s.matrix.chain.any (fun c => c.2.thread == t.key) = false → s.busy t.key = true →
        (u.thread t.key).st = .waitData ∧ (u.thread t.key).pc = (s.thread t.key).pc)) ∧
  (∀ (s : State) (t : ThreadId) (h : CmdHead) (j : Job), s.issuing t 0x09 0 h true j →
    Completes (.fence t h) s fun u =>
      (s.busy t.key = false → s.advanced t 1 u) ∧ (s.busy t.key = true → (u.thread t.key).st = .waitOrder ∧
        (u.thread t.key).pc = (s.thread t.key).pc)) ∧
  (∀ (s : State) (t : ThreadId) (h : CmdHead) (j : Job) (count stride : W32) (body : W16) (sel : BitVec 8),
    s.issuing t 0x0A 0 h true j → count ≠ 0 → 1 ≤ body.toNat → body.toNat ≤ 4095 → sel.toNat ≤ 13 →
    (s.thread t.key).loops.length < 4 →
    Completes (.loop t h count body sel stride) s fun u =>
      (u.thread t.key).pc = (s.thread t.key).pc + 32 ∧ (u.thread t.key).bases = (s.thread t.key).bases ∧
      ∃ l : LoopRec, (u.thread t.key).loops = l :: (s.thread t.key).loops ∧ l.first = (s.thread t.key).pc + 32 ∧
        l.body = body.toNat ∧ l.remaining = count.toNat ∧ l.baseSel = sel.toNat ∧ l.stride = stride) ∧
  (∀ (s : State) (t : ThreadId) (h : CmdHead) (j : Job) (addr : W64), s.issuing t 0x0B 0 h true j →
    addr.toNat % 32 = 0 → addr.toNat < j.image.bytes → addr.toNat < 2 ^ 30 →
    Completes (.link t h addr) s fun u => (u.thread t.key).pc = addr.toNat ∧ (u.thread t.key).loops = []) ∧
  (∀ (l : LoopRec) (r : List LoopRec) (bases : List (BitVec 48)), 1 < l.remaining → l.baseSel = 0 →
    closeLoops (l :: r) (l.first + 32 * l.body) bases = ({ l with remaining := l.remaining - 1 } :: r, l.first, bases)) ∧
  (∀ (l : LoopRec) (bases : List (BitVec 48)), 1 < l.remaining → 1 ≤ l.baseSel → l.baseSel ≤ bases.length →
    ∃ b, closeLoops [l] (l.first + 32 * l.body) bases = ([{ l with remaining := l.remaining - 1 }], l.first, b) ∧
      b.getD (l.baseSel - 1) 0 = bases.getD (l.baseSel - 1) 0 + l.stride.signExtend 48 ∧
      ∀ i, i ≠ l.baseSel - 1 → b.getD i 0 = bases.getD i 0) ∧
  (∀ (l : LoopRec) (bases : List (BitVec 48)), l.remaining ≤ 1 → 1 ≤ l.baseSel → l.baseSel ≤ bases.length →
    ∃ b, closeLoops [l] (l.first + 32 * l.body) bases = ([], l.first + 32 * l.body, b) ∧
      b.getD (l.baseSel - 1) 0 = l.saved) ∧
  (∀ (l : LoopRec) (r : List LoopRec) (pc : Nat) (bases : List (BitVec 48)), pc ≠ l.first + 32 * l.body →
    closeLoops (l :: r) pc bases = (l :: r, pc, bases))

/-- WAIT goes on at once where its condition holds and else waits; WAIT_WAKE and WATCH_POLL let a waiter whose
condition has come to hold go on; EVENT_LIMIT halts one whose limit has passed (R73 to R76). WAIT_BEAT waits until
the position it names and goes on then; a position that is reached already does not wait (R38, R78). -/
def Obligations.WaitsHoldAThread : Prop :=
  (∀ (s : State) (t : ThreadId) (h : CmdHead) (j : Job) (addr : W64) (mask : W32) (cond : BitVec 8) (limit : W16) (a : Nat),
    s.issuing t 0x02 0 h true j → bits addr.toNat 63 52 = 0 → bits cond.toNat 7 5 = 0 →
    resolveAddr t (s.thread t.key).bases addr = some a → State.flagPlaceOk t a = true →
    ¬(bit cond.toNat 2 = true ∧ 2 ≤ bits cond.toNat 1 0) → s.pieceAcc j (whoOf t) false false a 4 = .ok →
    (bit cond.toNat 4 = true → t.engine = 4 ∨ t.engine = 5 → s.busy t.key = false) →
    Completes (.wait t h addr mask cond limit) s fun u =>
      (State.condHolds cond mask (s.flagWord a) = true → s.advanced t 1 u ∧ (u.thread t.key).wait = none ∧
        (s.untraced h → bit cond.toNat 4 = false → u.flagWord a = State.consumed cond mask (s.flagWord a))) ∧
      (State.condHolds cond mask (s.flagWord a) = false → (s.untraced h → u.mem = s.mem) ∧ (u.thread t.key).pc = (s.thread t.key).pc ∧
        (u.thread t.key).st = (if bit cond.toNat 3 then .waitExt else .waitEvent) ∧
        ∃ w, (u.thread t.key).wait = some w ∧ w.addr = a ∧ w.mask = mask ∧ w.cond = cond)) ∧
  (∀ (s : State) (t : ThreadId) (w : WaitRec), (s.thread t.key).wait = some w →
    ((s.thread t.key).st = .waitEvent ∨ (s.thread t.key).st = .waitExt) → s.isWatched t.key w.addr = true →
    (bit w.cond.toNat 4 = true → t.engine = 4 ∨ t.engine = 5 → s.busy t.key = false) →
    State.condHolds w.cond w.mask (s.flagWord w.addr) = true →
    Completes (.waitWake t) s fun u => s.advanced t 1 u ∧ (u.thread t.key).wait = none) ∧
  (∀ (s : State) (t : ThreadId) (w : WaitRec), (s.thread t.key).wait = some w →
    ((s.thread t.key).st = .waitEvent ∨ (s.thread t.key).st = .waitExt) → s.isWatched t.key w.addr = false →
    (bit w.cond.toNat 4 = true → t.engine = 4 ∨ t.engine = 5 → s.busy t.key = false) →
    State.condHolds w.cond w.mask (s.flagWord w.addr) = true →
    Completes (.watchPoll t) s fun u => s.advanced t 1 u ∧ (u.thread t.key).wait = none) ∧
  (∀ (s : State) (t : ThreadId) (w : WaitRec) (p : Nat) (j : Job), (s.thread t.key).wait = some w → w.limit = some p →
    ((s.thread t.key).st = .waitEvent ∨ (s.thread t.key).st = .waitExt) → p ≤ s.beat.pos.toNat →
    State.condHolds w.cond w.mask (s.flagWord w.addr) = false →
    s.findJob (s.thread t.key).job = some j → j.st = .running →
    Completes (.eventLimit t) s fun u => State.haltedWith t j 0x1120 u ∧ u.lastLog = some 0x1120) ∧
  (∀ (s : State) (t : ThreadId) (h : CmdHead) (j : Job) (addr : W64) (mask : W32) (cond count : BitVec 8) (a : Nat),
    s.issuing t 0x05 0 h true j → s.busy t.key = false → bits addr.toNat 63 52 = 0 → bits cond.toNat 7 2 = 0 → count ≠ 0 →
    resolveAddr t (s.thread t.key).bases addr = some a → State.flagPlaceOk t a = true →
    s.pieceAcc j (whoOf t) false false a 4 = .ok →
    Completes (.skipIfFlag t h addr mask cond count) s fun u =>
      s.advanced t (if State.condHolds cond mask (s.flagWord a) then 1 + count.toNat else 1) u) ∧
  (∀ (s : State) (t : ThreadId) (h : CmdHead) (j : Job) (position : W64) (form : BitVec 8), s.issuing t 0x04 0 h true j →
    form.toNat ≤ 2 → (form = 1 → bits position.toNat 63 16 = 0) → (form = 2 → bits position.toNat 63 32 = 0) →
    Completes (.waitBeat t h position form) s fun u =>
      (State.beatTargetOf s.beat.pos.toNat position.toNat form.toNat ≤ s.beat.pos.toNat → s.advanced t 1 u) ∧
      (s.beat.pos.toNat < State.beatTargetOf s.beat.pos.toNat position.toNat form.toNat →
        (u.thread t.key).st = .waitBeat ∧ (u.thread t.key).pc = (s.thread t.key).pc ∧
        (u.thread t.key).beatTarget = some (State.beatTargetOf s.beat.pos.toNat position.toNat form.toNat))) ∧
  (∀ (s : State) (t : ThreadId) (p : Nat), (s.thread t.key).st = .waitBeat → (s.thread t.key).beatTarget = some p →
    p ≤ s.beat.pos.toNat → s.upd.waitBeat.contains t.key = false →
    Completes (.waitBeatEnd t) s fun u => s.advanced t 1 u ∧ (u.thread t.key).beatTarget = none ∧
      ((s.thread t.key).traced = false → u.mem = s.mem))

/-- SIGNAL ORs its value into the flag word, clears those bits of it or adds it to a counter, after the tile's data
cache has been written back, and changes no other byte of memory; while what was written back is on its way it
waits (R77). ACQUIRE writes back and drops the lines of the tile's data cache that meet its range, all of them for
LENGTH 0; RELEASE writes them back and keeps them, and completes when every write is acknowledged; on a solver
engine or an update unit, which have no data cache, both are a FENCE (R83, R143). -/
def Obligations.SignalsAndHandovers : Prop :=
  (∀ (s : State) (t : ThreadId) (h : CmdHead) (j : Job) (addr : W64) (value : W32) (mode : BitVec 8) (a : Nat),
    s.issuing t 0x03 0 h true j → s.busy t.key = false → bits addr.toNat 63 52 = 0 → mode.toNat ≤ 2 →
    resolveAddr t (s.thread t.key).bases addr = some a → State.signalPlaceOk mode.toNat a = true →
    s.pieceAcc j (whoOf t) true false a 4 = .ok → s.untraced h →
    Completes (.signal t h addr value mode) s fun u =>
      let b := match t with | .tile n _ => s.cacheClean t.key n.val 0 0 | _ => s
      let p := plainAddr a
      (b.busy t.key = true → (u.thread t.key).st = .waitOrder ∧ (u.thread t.key).pc = (s.thread t.key).pc ∧ u.mem = b.mem) ∧
      (b.busy t.key = false → s.advanced t 1 u ∧
        (mode = 0 → u.loadNat p 4 = (BitVec.ofNat 32 (b.loadNat p 4) ||| value).toNat) ∧
        (mode = 1 → u.loadNat p 4 = (BitVec.ofNat 32 (b.loadNat p 4) &&& ~~~value).toNat) ∧
        (mode = 2 → u.loadNat p 4 = (b.loadNat p 4 + value.toNat) % 2 ^ 32) ∧
        ((∀ d o, placeOf p ≠ .staging d o) → ∀ x, x < p ∨ p + 4 ≤ x → u.rd8 x = b.rd8 x))) ∧
  (∀ (s : State) (tile : Tile) (n : Fin 28) (h : CmdHead) (j : Job) (addr : W64) (len : W32) (a : Nat),
    s.issuing (.tile tile n) 0x07 0 h true j → bits addr.toNat 63 52 = 0 →
    resolveAddr (.tile tile n) (s.thread (ThreadId.tile tile n).key).bases addr = some a →
    len = 0 ∨ s.jobPlace j (placeOf a) = .ok →
    Completes (.acquire (.tile tile n) h addr len) s fun u =>
      s.advanced (.tile tile n) 1 u ∧
      (∀ l ∈ mget u.store.dcache tile.val [], len ≠ 0 ∧ State.lineIn l a len.toNat = false) ∧
      (len ≠ 0 → ∀ l ∈ mget s.store.dcache tile.val [], State.lineIn l a len.toNat = false → l ∈ mget u.store.dcache tile.val [])) ∧
  (∀ (s : State) (tile : Tile) (n : Fin 28) (h : CmdHead) (j : Job) (addr : W64) (len : W32) (a : Nat),
    s.issuing (.tile tile n) 0x08 0 h true j → bits addr.toNat 63 52 = 0 →
    s.busy (ThreadId.tile tile n).key = false →
    resolveAddr (.tile tile n) (s.thread (ThreadId.tile tile n).key).bases addr = some a →
    len = 0 ∨ s.jobPlace j (placeOf a) = .ok →
    Completes (.release (.tile tile n) h addr len) s fun u =>
      let k := (ThreadId.tile tile n).key
      ((s.cacheClean k tile.val a len.toNat).busy k = false → s.advanced (.tile tile n) 1 u) ∧
      ((s.cacheClean k tile.val a len.toNat).busy k = true → (u.thread k).st = .waitOrder ∧ (u.thread k).pc = (s.thread k).pc) ∧
      (∀ l ∈ mget u.store.dcache tile.val [], len = 0 ∨ State.lineIn l a len.toNat = true → l.dirty = 0) ∧
      (mget u.store.dcache tile.val []).map (fun l => (l.addr, l.valid, l.bytes))
        = (mget s.store.dcache tile.val []).map (fun l => (l.addr, l.valid, l.bytes))) ∧
  (∀ (s : State) (t : ThreadId) (h : CmdHead) (j : Job) (addr : W64) (len : W32) (a : Nat), 7168 ≤ t.key →
    s.issuing t 0x07 0 h true j → bits addr.toNat 63 52 = 0 → resolveAddr t (s.thread t.key).bases addr = some a →
    Completes (.acquire t h addr len) s fun u =>
      (s.busy t.key = false → s.advanced t 1 u) ∧
      (s.busy t.key = true → (u.thread t.key).st = .waitOrder ∧ (u.thread t.key).pc = (s.thread t.key).pc)) ∧
  (∀ (s : State) (t : ThreadId) (h : CmdHead) (j : Job) (addr : W64) (len : W32) (a : Nat), 7168 ≤ t.key →
    s.issuing t 0x08 0 h true j → bits addr.toNat 63 52 = 0 → resolveAddr t (s.thread t.key).bases addr = some a →
    Completes (.release t h addr len) s fun u =>
      (s.busy t.key = false → s.advanced t 1 u) ∧
      (s.busy t.key = true → (u.thread t.key).st = .waitOrder ∧ (u.thread t.key).pc = (s.thread t.key).pc))

/-- MARK without REPLAY goes on; a replay mark holds its thread until every named thread is at it or done, the last of
which lets all of them go on and keeps the replay point where nothing is under way, and one of another index halts
with REPLAY_ORDER; a list line on a thread's path reaches its list cache and makes the threads that wait for it
READY, or faults (R71, R73, R452, R453). REG_WRITE of a list-writable register of the job's own tile changes its
RW bits; of any other register it halts the thread with REG_WRITE_DENIED (R82). -/
def Obligations.MarksLinesAndRegisters : Prop :=
  (∀ (s : State) (t : ThreadId) (h : CmdHead) (j : Job) (value : W32), s.issuing t 0x0C 0 h true j →
    bit value.toNat 31 = false →
    Completes (.mark t h value) s fun u => s.advanced t 1 u) ∧
  (∀ (s : State) (t : ThreadId) (h : CmdHead) (j : Job) (value : W32), s.issuing t 0x0C 0 h true j →
    bit value.toNat 31 = true → s.busy t.key = false → t.key ∈ j.named → j.named.Nodup →
    (∀ x ∈ j.named, (s.thread x).markAt = none ∨ (s.thread x).markAt = some (value.toNat % 2 ^ 31)) →
    Completes (.mark t h value) s fun u =>
      ((∃ k ∈ j.named, k ≠ t.key ∧ (s.thread k).markAt = none ∧ (s.thread k).st ≠ .done) →
        (u.thread t.key).st = .waitOrder ∧ (u.thread t.key).markAt = some (value.toNat % 2 ^ 31) ∧
        (u.thread t.key).pc = (s.thread t.key).pc) ∧
      ((∀ k ∈ j.named, k ≠ t.key → (s.thread k).markAt = some (value.toNat % 2 ^ 31) ∨ (s.thread k).st = .done) →
        s.advanced t 1 u ∧ (u.thread t.key).markAt = none ∧
        (∀ k ∈ j.named, k ≠ t.key → (s.thread k).markAt = some (value.toNat % 2 ^ 31) →
          (u.thread k).markAt = none ∧ (u.thread k).pc = (stepThread 1 (s.thread k)).pc) ∧
        (s.markClean j = true → ∃ k r, u.findJob j.handle = some k ∧ k.replay = some r ∧ r.mark = value.toNat % 2 ^ 31))) ∧
  (∀ (s : State) (t : ThreadId) (h : CmdHead) (j : Job) (value : W32) (x i : Nat), s.issuing t 0x0C 0 h true j →
    bit value.toNat 31 = true → s.busy t.key = false → x ∈ j.named → (s.thread x).markAt = some i →
    i ≠ value.toNat % 2 ^ 31 →
    Completes (.mark t h value) s fun u => State.haltedWith t j 0x8024 u) ∧
  (∀ (s : State) (t : ThreadId) (line : BitVec 22) (j : Job),
    (s.thread t.key).st ≠ .free → (s.thread t.key).st ≠ .done → (s.thread t.key).st ≠ .halted →
    s.findJob (s.thread t.key).job = some j → j.live = true →
    (s.aheadLines t.key).contains ((j.image.base + line.toNat * 256) / 256) = true →
    s.reqsOut (fun r => r.thread == listRequester (listCache t.key) && r.addr == j.image.base + line.toNat * 256) = [] →
    Completes (.listFill t line) s fun u =>
      let a := j.image.base + line.toNat * 256
      (s.channelAcc a 256 = .ok → s.poisonStack a 256 = false →
        (mget u.store.listLines (listCache t.key) []).contains (a / 256) = true ∧ (u.thread t.key).pc = (s.thread t.key).pc ∧
        u.mem = s.mem ∧ ((s.thread t.key).st = .waitList → s.listLine t.key = a / 256 → (u.thread t.key).st = .ready)) ∧
      (∀ c, s.channelAcc a 256 = .bad c → j.st = .running → (s.thread t.key).st = .waitList → s.listLine t.key = a / 256 →
        State.haltedWith t j c u)) ∧
  (∀ (s : State) (t : ThreadId) (h : CmdHead) (j : Job) (tile : Tile) (i : Fin 16) (reg : W32) (data : W64),
    s.issuing t 0x06 0 h true j → s.busy t.key = false → j.block.tiles.contains tile.val = true →
    reg.toNat = Regs.layerEn tile.val i.val →
    Completes (.regWrite t h reg 0 data) s fun u =>
      s.advanced t 1 u ∧ u.field (Regs.layerEn tile.val i.val) 31 0 = data.toNat % 2 ^ 32) ∧
  (∀ (s : State) (t : ThreadId) (h : CmdHead) (j : Job) (reg : W32) (width : BitVec 8) (data : W64),
    s.issuing t 0x06 0 h true j → s.busy t.key = false → width.toNat ≤ 1 →
    State.listOk j reg.toNat (if width = 1 then 8 else 4) = false →
    Completes (.regWrite t h reg width data) s fun u => State.haltedWith t j 0x1114 u ∧ u.lastLog = some 0x1114)

/-! ### Supply, clock plans and temperature -/

/-- SUPPLY_WARN stops the tiles' clocks and reports; the recovery lets them run (R424). A supply reset, an overvoltage
or a thermal trip turns the compute domain off: no job and no byte of module memory is left, the host's memory and
the lifecycle stay (R425, R426, R430). Throttling moves one clock plan down, but at plan 5, and stepping up moves
one up; a warm coolant inlet floors the plan at 3 until it has cooled; the leak sensor dries (R427, R430, R431). -/
def Obligations.SupplyAndClockPlans : Prop :=
  (∀ (s : State) (mv : W16), s.power.off = false → s.power.held = false → mv.toNat < 38000 → s.power.warn = false →
    Completes (.supplyWarn mv) s fun u =>
      u.power.warn = true ∧ u.power.inMv = mv.toNat / 4 ∧ Output.report 0x6101 0x700 ∈ u.sent ∧
      (∀ (t : Tile) (n : Fin 28), u.issues (.tile t n) = false) ∧ u.threads = s.threads ∧ u.mem = s.mem) ∧
  (∀ (s : State) (mv : W16), 39000 ≤ mv.toNat →
    Completes (.supplyRecover mv) s fun u => u.power.warn = false ∧ u.power.inMv = mv.toNat / 4 ∧ u.threads = s.threads) ∧
  (∀ (s : State) (mv : W16), s.power.off = true ∨ s.power.held = true ∨ 38000 ≤ mv.toNat →
    Completes (.supplyWarn mv) s fun u => u = s) ∧
  (∀ (s : State) (mv : W16), mv.toNat < 39000 → Completes (.supplyRecover mv) s fun u => u = s) ∧
  (∀ (s : State) (mv : W16), s.power.off = false → s.power.held = false → mv.toNat < 34000 →
    Completes (.supplyReset mv) s fun u =>
      u.power.held = true ∧ u.power.hot = false ∧ u.jobs = [] ∧ u.mem = [] ∧ u.threads = [] ∧ u.hostMem = s.hostMem ∧
      u.mgmt.lifecycle = s.mgmt.lifecycle ∧ Output.report 0x6102 0x700 ∈ u.sent) ∧
  (∀ (s : State) (mv : W16), s.power.off = false → s.power.held = false → 62000 < mv.toNat →
    Completes (.supplyOvervolt mv) s fun u =>
      u.power.held = true ∧ u.jobs = [] ∧ u.mem = [] ∧ u.hostMem = s.hostMem ∧ Output.report 0x6103 0x700 ∈ u.sent) ∧
  (∀ s : State, s.power.off = false → s.power.held = false →
    Completes .thermalTrip s fun u =>
      u.power.held = true ∧ u.power.hot = true ∧ u.jobs = [] ∧ u.mem = [] ∧ Output.report 0x6111 0x700 ∈ u.sent) ∧
  (∀ s : State, s.power.leak = false → s.power.off = false →
    Completes .leakDetected s fun u =>
      u.power.off = true ∧ u.power.leak = true ∧ u.jobs = [] ∧ u.mem = [] ∧ u.setup = [] ∧
      Output.report 0x6113 0x700 ∈ u.sent) ∧
  (∀ s : State, s.power.off = false →
    Completes .removal s fun u =>
      u.power.off = true ∧ u.jobs = [] ∧ u.mem = [] ∧ u.setup = [] ∧ u.mgmt.rtcValid = false ∧
      Output.pin "ACTIVE_L" true ∈ u.sent) ∧
  (∀ (s : State) (mv : W16), s.power.off = true ∨ s.power.held = true →
    ∀ c ∈ [Instr.supplyReset mv, .supplyOvervolt mv, .thermalTrip], Completes c s fun u => u = s) ∧
  (∀ (s : State) (mv : W16), 34000 ≤ mv.toNat → Completes (.supplyReset mv) s fun u => u = s) ∧
  (∀ (s : State) (mv : W16), mv.toNat ≤ 62000 → Completes (.supplyOvervolt mv) s fun u => u = s) ∧
  (∀ s : State, s.power.leak = true ∨ s.power.off = true → Completes .leakDetected s fun u => u = s) ∧
  (∀ (s : State) (d : Die), s.power.off = false → s.power.held = false → s.planNow ≠ 5 →
    Completes (.thermalThrottle d) s fun u => u.power.therm = s.planNow + 1 ∧ u.planNow = s.planNow + 1) ∧
  (∀ (s : State) (d : Die), s.power.off = true ∨ s.power.held = true ∨ s.planNow = 5 →
    Completes (.thermalThrottle d) s fun u => u = s) ∧
  (∀ s : State, Completes .planStepUp s fun u =>
    u.power.therm = min s.power.therm s.planNow - 1 ∧ u.power.coolFloor = s.power.coolFloor ∧ u.jobs = s.jobs) ∧
  (∀ s : State, s.power.coolFloor = 0 → s.power.off = false →
    Completes .coolantHigh s fun u =>
      u.power.coolFloor = 3 ∧ 3 ≤ u.planNow ∧ Output.report 0x6112 0x700 ∈ u.sent) ∧
  (∀ s : State, Completes .coolantInletBelow42c s fun u => u.power.coolFloor = 0 ∧ u.power.therm = s.power.therm) ∧
  (∀ s : State, Completes .leakSensorDry s fun u => u.power.leak = false ∧ u.power.off = s.power.off)

/-! ### Power states -/

/-- Entry: Idle, also without a request, Sleep, Deep sleep and Off, each once nothing is in progress, and what is lost
on the way (R432 to R435). A forced entry quenches every running job with POWER_QUENCHED once its time has passed
(R435). -/
def Obligations.PowerStatesEntered : Prop :=
  (∀ s : State, s.entering 1 = true → s.power.latched = none → s.power.queued = [] →
    Completes .idleEntry s fun u => u.power.st = 1 ∧ u.power.inProgress = none ∧ u.mem = s.mem ∧ u.setup = s.setup) ∧
  (∀ s : State, s.power.st = 0 → s.field Regs.pwrPlan 31 16 ≠ 0 → s.anyBound = false → s.power.held = false →
    s.power.off = false → Completes .autoIdle s fun u => u.power.st = 1 ∧ u.mem = s.mem ∧ u.threads = s.threads) ∧
  (∀ s : State, s.entering 2 = true → s.drained = true → s.power.latched = none → s.power.queued = [] →
    Completes .sleepEntry s fun u =>
      u.power.st = 2 ∧ u.store.listLines = [] ∧ (∀ t, t < 256 → mget u.store.dcache t [] = []) ∧
      (∀ p, p < 7 → (s.link p).st = .up → (u.link p).st = .parked)) ∧
  (∀ s : State, s.entering 3 = true → s.drained = true → s.jobs = [] → s.power.queued = [] →
    Completes .deepSleepEntry s fun u =>
      u.power.st = 3 ∧ (∀ a x o, placeOf a = .stack x o → u.rd8 a = s.dropCaches.rd8 a) ∧
      (∀ a t o, placeOf a = .tbuf t o → u.rd8 a = 0)) ∧
  (∀ s : State, s.entering 4 = true → s.drained = true → s.jobs = [] →
    Completes .offEntry s fun u => u.power.off = true ∧ u.mem = [] ∧ u.setup = [] ∧ u.beat = State.reset.beat) ∧
  (∀ s : State, (s.entering 3 = true ∨ s.entering 4 = true) → s.power.forceDone = false →
    Completes .forceTimeout s fun u =>
      u.power.forceDone = true ∧
      (∀ (h : W32) (j : Job), s.findJob h = some j → j.st = .running →
        ∃ k, u.findJob h = some k ∧ k.st = .quenching ∧ k.cause = 0x6120))

/-- Exit: a request for Run or a wake starts it, and it ends in Run with the group ports up again; a failed power-good
check goes back to the state that was left, and is tried once more (R433, R436, R437, R439 to R441). A cold boot,
at insertion, after the supply has returned or by the wake pin from Off, starts everything again with the straps
it reads and the compute domain on, where each kind has a good image (R485, R528). -/
def Obligations.PowerStatesLeft : Prop :=
  (∀ (s : State) (r : PwrReq), s.power.inProgress = some r → r.target = 0 →
    (s.power.st = 1 ∨ s.power.st = 2 ∨ s.power.st = 3) →
    Completes .runRequest s fun u => u.power.st = 5 ∧ u.power.origin = s.power.st) ∧
  (∀ s : State, s.exiting 1 = true → s.power.queued = [] →
    Completes .idleExit s fun u => u.power.st = 0 ∧ u.power.inProgress = none ∧ u.jobs = s.jobs) ∧
  (∀ s : State, s.exiting 2 = true → s.power.queued = [] →
    Completes .sleepExit s fun u =>
      u.power.st = 0 ∧ (∀ p, p < 7 → (s.link p).st = .parked → (u.link p).st = .up)) ∧
  (∀ s : State, s.exiting 3 = true → s.power.queued = [] →
    Completes (.deepSleepExit true) s fun u => u.power.st = 0 ∧ u.stk.trained = true ∧ u.mem = s.mem) ∧
  (∀ s : State, s.exiting 3 = true → s.power.pgFails = 0 →
    Completes (.deepSleepExit false) s fun u =>
      u.power.st = 3 ∧ u.power.pgFails = 1 ∧ Output.report 0x7101 0x700 ∈ u.sent) ∧
  (∀ (s : State) (ns : W32), 1000 ≤ ns.toNat → (s.power.st = 1 ∨ s.power.st = 2 ∨ s.power.st = 3) →
    s.power.off = false → s.power.held = false →
    Completes (.wakePin ns) s fun u => u.power.st = 5 ∧ u.power.origin = s.power.st ∧ u.power.lastWake = 6) ∧
  (∀ (s : State) (src : Nat), s.power.latched = some src → s.power.off = false → s.power.st = 3 →
    Completes .wakeReplayed s fun u =>
      u.power.st = 5 ∧ u.power.origin = 3 ∧ u.power.lastWake = 7 ∧ u.power.latched = none) ∧
  (∀ (s : State) (src : Nat), s.power.latched = some src → s.power.off = true → s.imagesGood = true →
    Completes .wakeReplayed s fun u =>
      u.power.off = false ∧ u.power.held = false ∧ u.power.lastWake = 7 ∧ u.power.latched = none) ∧
  (∀ s : State, s.power.latched = none ∨ s.power.off = false ∧ s.power.st ≠ 3 → Completes .wakeReplayed s fun u => u = s) ∧
  (∀ s : State, s.power.st = 5 → s.power.pgFails = 0 →
    Completes .powerGoodFailed s fun u =>
      u.power.st = s.power.origin ∧ u.power.pgFails = 1 ∧ Output.report 0x6122 0x700 ∈ u.sent ∧ u.jobs = s.jobs) ∧
  (∀ s : State, s.power.st = 5 → s.power.pgFails ≠ 0 →
    Completes .powerGoodFailed s fun u => u.power.held = true ∧ u.power.hot = true ∧ u.jobs = []) ∧
  (∀ s : State, s.power.pgFails ≠ 0 → (s.power.st = 1 ∨ s.power.st = 2 ∨ s.power.st = 3) →
    Completes .powerGoodRetry s fun u => u.power.st = 5 ∧ u.power.origin = s.power.st) ∧
  (∀ (s : State) (slot : Fin 8) (group : BitVec 10), s.imagesGood = true →
    Completes (.coldBoot slot group) s fun u =>
      u.power.held = false ∧ u.power.off = false ∧ u.power.st = 0 ∧ u.setup = [] ∧ u.jobs = [] ∧ u.mem = [] ∧
      u.fabric.slot = slot.val ∧ u.fabric.group = group.toNat ∧ u.stk.trained = true ∧ u.mgmt.rtcValid = false ∧
      u.mgmt.banks = s.mgmt.banks ∧ u.mgmt.records = s.mgmt.records) ∧
  (∀ (s : State) (slot : Fin 8) (group : BitVec 10), s.imagesGood = true →
    Completes (.insertion slot group) s fun u =>
      u.power.held = false ∧ u.power.st = 0 ∧ u.setup = [] ∧ u.jobs = [] ∧ u.fabric.slot = slot.val ∧
      u.fabric.group = group.toNat ∧ Output.pin "ACTIVE_L" false ∈ u.sent) ∧
  (∀ s : State, s.imagesGood = true → s.power.held = true → s.power.hot = false → s.power.leak = false →
    Completes .inputHeld40v s fun u =>
      u.power.held = false ∧ u.power.st = 0 ∧ u.jobs = [] ∧ u.mem = [] ∧ u.fabric.slot = s.fabric.slot) ∧
  (∀ (s : State) (ns : W32), s.imagesGood = true → 1000 ≤ ns.toNat → s.power.off = true →
    Completes (.wakePin ns) s fun u => u.power.off = false ∧ u.power.held = false ∧ u.power.lastWake = 6) ∧
  (∀ (s : State) (ns : W32), ns.toNat < 1000 → Completes (.wakePin ns) s fun u => u = s) ∧
  (∀ (s : State) (slot : Fin 8) (group : BitVec 10), s.imagesGood = false →
    Completes (.coldBoot slot group) s fun u => u.power.held = true ∧ u.power.hot = true ∧ u.jobs = [] ∧ u.mem = [])

/-! ### Accord and the set-up space -/

/-- BEGIN opens an idle context and refuses another, COMMIT_AT leaves it pending with its schedule entry or ends it where the
beat, the position or the table does not take one, ROLLBACK and the 100 ms timeout end it, and none of them changes another
register; without its complement each is discarded with GUARD_MISMATCH (R10, R43, R412, R413). -/
def Obligations.AccordContexts : Prop :=
  (∀ (s : State) (src : Src) (c : Fin 3), s.commands src c.val → (s.acc c.val).st = 0 →
    Completes (.begin src c (BitVec.ofNat 32 (2 ^ 32 - 2))) s fun u =>
      (u.acc c.val).st = 1 ∧ (u.acc c.val).staged = [] ∧ (u.acc c.val).txn = (s.acc c.val).txn + 1 ∧
      ∀ o, o ≠ Regs.accordCmd c.val → u.reg o = s.reg o) ∧
  (∀ (s : State) (src : Src) (c : Fin 3), s.commands src c.val → (s.acc c.val).st = 1 → s.beat.mode ≠ 0 → s.beat.mode ≠ 3 →
    s.beat.pos.toNat ≤ (s.reg (Regs.accordBeat c.val)).toNat → (s.freeEntry 4).isSome = true →
    Completes (.commitAt src c (BitVec.ofNat 32 (2 ^ 32 - 4))) s fun u =>
      (u.acc c.val).st = 2 ∧ (u.acc c.val).staged = (s.acc c.val).staged ∧
      ∃ i e, i < 256 ∧ mfind u.sched (4 * 1024 + i) = some e ∧ e.kind = 2 ∧ e.guarded = true ∧
        e.position = s.reg (Regs.accordBeat c.val)) ∧
  (∀ (s : State) (src : Src) (c : Fin 3), s.commands src c.val → (s.acc c.val).st ≠ 0 →
    Completes (.begin src c (BitVec.ofNat 32 (2 ^ 32 - 2))) s fun u =>
      (u.acc c.val).st = (s.acc c.val).st ∧ (u.acc c.val).staged = (s.acc c.val).staged ∧ (u.acc c.val).lastCode = 0x1504 ∧
      u.lastLog = some 0x1504) ∧
  (∀ (s : State) (src : Src) (c : Fin 3), s.commands src c.val → (s.acc c.val).st = 1 →
    Completes (.commitAt src c (BitVec.ofNat 32 (2 ^ 32 - 4))) s fun u =>
      ((s.beat.mode = 0 ∨ s.beat.mode = 3) → (u.acc c.val).st = 0 ∧ (u.acc c.val).lastCode = 0x1302 ∧ ∀ x ∈ u.sched, x ∈ s.sched) ∧
      (s.beat.mode ≠ 0 → s.beat.mode ≠ 3 → (s.reg (Regs.accordBeat c.val)).toNat < s.beat.pos.toNat →
        (u.acc c.val).st = 0 ∧ (u.acc c.val).lastCode = 0x1306 ∧ ∀ x ∈ u.sched, x ∈ s.sched) ∧
      (s.beat.mode ≠ 0 → s.beat.mode ≠ 3 → s.beat.pos.toNat ≤ (s.reg (Regs.accordBeat c.val)).toNat →
        (s.freeEntry 4).isSome = false →
        (u.acc c.val).st = 0 ∧ (u.acc c.val).lastCode = 0x1305 ∧ ∀ x ∈ u.sched, x ∈ s.sched)) ∧
  (∀ (s : State) (src : Src) (c : Fin 3), s.commands src c.val → ((s.acc c.val).st = 1 ∨ (s.acc c.val).st = 2) →
    Completes (.rollback src c (BitVec.ofNat 32 (2 ^ 32 - 5))) s fun u =>
      (u.acc c.val).st = 0 ∧ (u.acc c.val).staged = [] ∧ (u.acc c.val).lastCode = 0 ∧
      ∀ o, o ≠ Regs.accordCmd c.val → u.reg o = s.reg o) ∧
  (∀ (s : State) (src : Src) (c : Fin 3) (comp : W32), s.commands src c.val →
    (comp ≠ BitVec.ofNat 32 (2 ^ 32 - 2) → Completes (.begin src c comp) s fun u =>
      u.lastLog = some 0x8010 ∧ u.accord = s.accord ∧ ∀ o, u.reg o = s.reg o) ∧
    (comp ≠ BitVec.ofNat 32 (2 ^ 32 - 3) → Completes (.commit src c comp) s fun u =>
      u.lastLog = some 0x8010 ∧ u.accord = s.accord ∧ ∀ o, u.reg o = s.reg o) ∧
    (comp ≠ BitVec.ofNat 32 (2 ^ 32 - 4) → Completes (.commitAt src c comp) s fun u =>
      u.lastLog = some 0x8010 ∧ u.accord = s.accord ∧ ∀ o, u.reg o = s.reg o) ∧
    (comp ≠ BitVec.ofNat 32 (2 ^ 32 - 5) → Completes (.rollback src c comp) s fun u =>
      u.lastLog = some 0x8010 ∧ u.accord = s.accord ∧ ∀ o, u.reg o = s.reg o)) ∧
  (∀ (s : State) (c : Fin 3), (s.acc c.val).st = 1 →
    Completes (.accordTimeout c) s fun u =>
      (u.acc c.val).st = 0 ∧ (u.acc c.val).lastCode = 0x1501 ∧ u.lastLog = some 0x1501 ∧ u.setup = s.setup)

/-- A commit applies every staged write or none: one that a direct write would refuse, or a failure met while staging,
leaves every register as it was and says why (R413). -/
def Obligations.CommitIsAllOrNothing : Prop :=
  (∀ (s : State) (src : Src) (c : Fin 3), s.commands src c.val → (s.acc c.val).st = 1 → (s.acc c.val).failed = 0 →
    s.plainStaged (s.acc c.val).staged →
    Completes (.commit src c (BitVec.ofNat 32 (2 ^ 32 - 3))) s fun u =>
      (u.acc c.val).st = 0 ∧ (u.acc c.val).lastCode = 0 ∧
      ∀ w ∈ (s.acc c.val).staged, ∀ d, Regs.desc w.offset = some d →
        u.reg w.offset &&& BitVec.ofNat 64 d.rw = BitVec.ofNat 64 (w.value.toNat % 2 ^ 32) &&& BitVec.ofNat 64 d.rw) ∧
  (∀ (s : State) (src : Src) (c : Fin 3), s.commands src c.val → (s.acc c.val).st = 1 → (s.acc c.val).failed ≠ 0 →
    Completes (.commit src c (BitVec.ofNat 32 (2 ^ 32 - 3))) s fun u =>
      (u.acc c.val).st = 0 ∧ (u.acc c.val).lastCode = (s.acc c.val).failed ∧
      ∀ o, o ≠ Regs.accordCmd c.val → u.reg o = s.reg o) ∧
  (∀ (s : State) (i : Fin 256) (e : SchedEntry) (c : Nat), s.fires 4 i.val 2 e → c = bits e.target.toNat 17 16 →
    (s.acc c).st = 2 → bits e.target.toNat 15 0 = (s.acc c).txn.toNat → (s.acc c).failed = 0 →
    s.power.held = false → s.plainStaged (s.acc c).staged →
    Completes (.accordCommit i) s fun u =>
      (u.acc c).st = 0 ∧ (u.acc c).lastCode = 0 ∧ mfind u.sched (4 * 1024 + i.val) = none ∧
      ∀ w ∈ (s.acc c).staged, ∀ d, Regs.desc w.offset = some d →
        u.reg w.offset &&& BitVec.ofNat 64 d.rw = BitVec.ofNat 64 (w.value.toNat % 2 ^ 32) &&& BitVec.ofNat 64 d.rw)

/-- A set-up write changes the RW bits of its register and no other register; while the requester's context is open it
is staged instead, and no register changes; one that reaches no register is recorded and changes none, and one that is
not aligned does nothing (R9, R397, R412, R421). -/
def Obligations.SetupWritesReach : Prop :=
  (∀ (s : State) (src : Src) (o : W32) (d : Regs.Desc) (value : W64), s.writesNow src → plainWord o.toNat d →
    Completes (.registerWrite src o 4 value) s fun u =>
      u.reg o.toNat &&& BitVec.ofNat 64 d.rw = BitVec.ofNat 64 (value.toNat % 2 ^ 32) &&& BitVec.ofNat 64 d.rw ∧
      (∀ x, x ≠ o.toNat → u.reg x = s.reg x) ∧ u.mem = s.mem ∧ u.jobs = s.jobs ∧ u.threads = s.threads) ∧
  (∀ (s : State) (src : Src) (o : W32) (d : Regs.Desc) (value : W64), s.reaches src = true →
    (match src with | .list _ => false | _ => true) = true → (s.acc (State.ctxOf src)).st = 1 → plainWord o.toNat d →
    (s.acc (State.ctxOf src)).staged.length < 4096 →
    (s.acc (State.ctxOf src)).staged.any (fun w => w.offset == o.toNat && w.size == 4) = false →
    Completes (.registerWrite src o 4 value) s fun u =>
      u.setup = s.setup ∧ (u.acc (State.ctxOf src)).st = 1 ∧
      ((u.acc (State.ctxOf src)).staged.getLast?.map (fun w => (w.offset, w.value.toNat))) =
        some (o.toNat, value.toNat % 2 ^ 32)) ∧
  (∀ (s : State) (src : Src) (o : W32) (value : W64), s.writesNow src → o.toNat % 4 = 0 →
    State.piece4 o.toNat = .nothing o.toNat →
    Completes (.registerWrite src o 4 value) s fun u =>
      u.lastLog = some 0x1105 ∧ (∀ x, x ≠ Regs.hifErrLog → u.reg x = s.reg x)) ∧
  (∀ (s : State) (src : Src) (o : W32) (size : BitVec 8) (value : W64),
    (match src with | .list _ => false | _ => true) = true → State.accessOk o.toNat size.toNat = false →
    Completes (.registerWrite src o size value) s fun u => u = s)

/-! ### On-chip memory control -/

/-- Bank owners, bank power and W1 retention: what a write of each register leaves, and what the end of a transition
does to the bank's bytes (R136, R144, R147, R150, R151). A region-table entry takes the written word; a write that
would overlap another entry or change one in use is refused with REGION_CONFLICT and changes nothing (R166, R178). -/
def Obligations.BanksAndRegions : Prop :=
  (∀ (s : State) (src : Src) (bank : BankId) (value : W64), s.writesNow src → State.rwgOk value.toNat = true →
    (src = .mgmt ∨ s.bankJob (bankNum bank) = none) →
    ownerFieldsOk (decide (4096 ≤ bankNum bank)) (value.toNat % 2 ^ 32) = true →
    Completes (.bankOwnerWrite src bank value) s fun u =>
      u.regNat (State.ownerOff bank) = value.toNat % 2 ^ 32 &&& 0x13F07 ∧ (s.nothingWaits → u.mem = s.mem ∧ u.jobs = s.jobs)) ∧
  (∀ (s : State) (src : Src) (bank : BankId) (value : W64), s.writesNow src → State.rwgOk value.toNat = true →
    ownerFieldsOk (decide (4096 ≤ bankNum bank)) (value.toNat % 2 ^ 32) = false →
    Completes (.bankOwnerWrite src bank value) s fun u =>
      u.reg (State.ownerOff bank) = s.reg (State.ownerOff bank) ∧ u.mem = s.mem) ∧
  (∀ (s : State) (src : Src) (t : Tile) (value : W32), s.writesNow src → s.flag (Regs.memCompat t.val) 0 = false →
    Completes (.bankPwrWrite src (.til t) value) s fun u =>
      ∀ k, k < 16 →
        u.bankMode (t.val * 16 + k) =
          (if bits value.toNat (2 * k + 1) (2 * k) = 3 then s.bankMode (t.val * 16 + k)
            else bits value.toNat (2 * k + 1) (2 * k)) ∧
        (u.bankMode (t.val * 16 + k) ≠ s.bankMode (t.val * 16 + k) →
          ∃ m ∈ u.store.moves, m.bank = t.val * 16 + k ∧ m.target = u.bankMode (t.val * 16 + k))) ∧
  (∀ (s : State) (src : Src) (t : Tile) (value : W32), s.writesNow src → s.flag (Regs.memCompat t.val) 0 = true →
    Completes (.bankPwrWrite src (.til t) value) s fun u =>
      u.flag (Regs.memCompat t.val) 2 = true ∧ u.reg (Regs.tilPwr t.val) = s.reg (Regs.tilPwr t.val)) ∧
  (∀ (s : State) (src : Src) (d : Die) (i : Fin 4) (value : W32), s.writesNow src →
    Completes (.bankPwrWrite src (.shs d i) value) s fun u =>
      ∀ k, k < 16 →
        u.bankMode (4096 + d.val * 64 + i.val * 16 + k) =
          (if bits value.toNat (2 * k + 1) (2 * k) = 3 then s.bankMode (4096 + d.val * 64 + i.val * 16 + k)
            else bits value.toNat (2 * k + 1) (2 * k)) ∧
        (u.bankMode (4096 + d.val * 64 + i.val * 16 + k) ≠ s.bankMode (4096 + d.val * 64 + i.val * 16 + k) →
          ∃ m ∈ u.store.moves, m.bank = 4096 + d.val * 64 + i.val * 16 + k ∧
            m.target = u.bankMode (4096 + d.val * 64 + i.val * 16 + k))) ∧
  (∀ (s : State) (bank : BankId) (m : BankMove), s.store.moves.find? (fun m => m.bank == bankNum bank) = some m →
    m.zero = true → m.target ≠ 2 → (match bank with | .scratch t _ => s.flag (Regs.memCompat t.val) 0 | _ => false) = false →
    s.nothingWaits →
    Completes (.bankTransitionDone bank) s fun u =>
      (∀ m ∈ u.store.moves, m.bank ≠ bankNum bank) ∧
      (∀ x, u.rd8 x = if bankAddr (bankNum bank) ≤ x ∧ x < bankAddr (bankNum bank) + bankSize (bankNum bank) then 0
        else s.rd8 x)) ∧
  (∀ (s : State) (src : Src) (t : Tile) (value : W32), s.writesNow src → bit value.toNat 0 = true →
    s.flag (Regs.memCompat t.val) 0 = false →
    Completes (.memCompatWrite src t value) s fun u =>
      u.flag (Regs.memCompat t.val) 0 = true ∧ u.flag (Regs.memCompat t.val) 1 = false ∧
      mget u.store.dcache t.val [] = []) ∧
  (∀ (s : State) (src : Src) (t : Tile) (value : W32), s.writesNow src → bit value.toNat 0 = false →
    s.flag (Regs.memCompat t.val) 0 = true →
    Completes (.memCompatWrite src t value) s fun u => u.flag (Regs.memCompat t.val) 0 = false) ∧
  (∀ (s : State) (t : Tile), s.flag (Regs.memCompat t.val) 0 = true → s.flag (Regs.memCompat t.val) 1 = false →
    s.store.compatWaking.contains t.val = true →
    Completes (.compatWakeDone t) s fun u =>
      u.flag (Regs.memCompat t.val) 1 = true ∧ u.store.compatWaking.contains t.val = false ∧
      (s.nothingWaits → u.mem = s.mem)) ∧
  (∀ (s : State) (src : Src) (n : Fin 64) (hi : Bool) (value : W64), s.writesNow src →
    s.regionVerdict (State.regionEff n.val hi value.toNat s) n.val hi value.toNat = .ok →
    Completes (.regionWrite src n hi value) s fun u =>
      u.regNat (if hi then Regs.rgnHi n.val else Regs.rgnLo n.val) =
        value.toNat &&& (if hi then 0x7FFFE3FFFF else 0x7FFFE0000F) ∧ u.mem = s.mem) ∧
  (∀ (s : State) (src : Src) (n : Fin 64) (hi : Bool) (value : W64), s.writesNow src →
    s.regionVerdict (State.regionEff n.val hi value.toNat s) n.val hi value.toNat = .region →
    Completes (.regionWrite src n hi value) s fun u =>
      (∀ i, i < 64 → u.reg (Regs.rgnLo i) = s.reg (Regs.rgnLo i) ∧ u.reg (Regs.rgnHi i) = s.reg (Regs.rgnHi i)) ∧
      u.lastLog = some 0x3240) ∧
  (∀ (s : State) (src : Src) (n : Fin 64) (value : W64), s.writesNow src → 4 ≤ bits value.toNat 3 1 →
    Completes (.regionWrite src n false value) s fun u => u = s)

/-! ### Stacked memory control -/

/-- Scrub counts a single-bit error of a channel and poisons the atom of a double one; repairs use up the spares of
their place, a replaced channel is retired and a spare serves in its place (R171, R173 to R175). A stack channel
accepts the oldest waiting request while an entry is free, promotes a request by one class with the writes that a
read waits for, and completes the request it serves: a write's bytes land; an uncorrectable error of a read
poisons its atom and quenches the job, as a channel that is DOWN does (R159 to R163, R170, R174). -/
def Obligations.StacksServeAndRepair : Prop :=
  (∀ (s : State) (st : Stack) (off : BitVec 36), (s.power.st = 0 ∨ s.power.st = 1) → s.flag Regs.scrubCfg 0 = true →
    off.toNat < 0xC00000000 →
    Completes (.scrubRead st off .single) s fun u =>
      mget u.stk.corrCh (st.val * 132 + s.physCh st.val (channelOf (off.toNat / 64 * 64))) 0 =
        (if off.toNat < 64 then 0
          else mget s.stk.corrCh (st.val * 132 + s.physCh st.val (channelOf (off.toNat / 64 * 64))) 0) + 1 ∧ u.mem = s.mem) ∧
  (∀ (s : State) (st : Stack) (off : BitVec 36), (s.power.st = 0 ∨ s.power.st = 1) → s.flag Regs.scrubCfg 0 = true →
    off.toNat < 0xC00000000 →
    (Completes (.scrubRead st off .double) s fun u =>
      stackAddr st.val (off.toNat / 64 * 64) ∈ u.stk.poison ∧ u.mem = s.mem ∧ u.lastLog = some 0x3211) ∧
    (Completes (.scrubRead st off .addrCheck) s fun u =>
      stackAddr st.val (off.toNat / 64 * 64) ∈ u.stk.poison ∧ u.mem = s.mem ∧ u.lastLog = some 0x3212) ∧
    (Completes (.scrubRead st off .clean) s fun u => u.mem = s.mem ∧ u.stk.poison = s.stk.poison)) ∧
  (∀ (s : State) (st : Stack) (off : BitVec 36) (e : Ecc),
    ¬((s.power.st = 0 ∨ s.power.st = 1) ∧ s.flag Regs.scrubCfg 0 = true ∧ off.toNat < 0xC00000000) →
    Completes (.scrubRead st off e) s fun u => u = s) ∧
  (∀ (s : State) (st : Stack) (pch : Fin 132) (bank : Fin 16) (row : W32), (s.power.st = 0 ∨ s.power.st = 1) →
    mget s.stk.rowsUsed ((st.val * 132 + pch.val) * 16 + bank.val) 0 < 8 →
    Completes (.spareRowRepair st pch bank row) s fun u =>
      mget u.stk.rowsUsed ((st.val * 132 + pch.val) * 16 + bank.val) 0 =
        mget s.stk.rowsUsed ((st.val * 132 + pch.val) * 16 + bank.val) 0 + 1 ∧ u.mem = s.mem) ∧
  (∀ (s : State) (st : Stack) (pch : Fin 132) (bank : Fin 16), s.power.st = 2 →
    mget s.stk.colsUsed ((st.val * 132 + pch.val) * 16 + bank.val) 0 < 2 →
    Completes (.spareColumnGroupRepair st pch bank) s fun u =>
      mget u.stk.colsUsed ((st.val * 132 + pch.val) * 16 + bank.val) 0 =
        mget s.stk.colsUsed ((st.val * 132 + pch.val) * 16 + bank.val) 0 + 1) ∧
  (∀ (s : State) (st : Stack) (pch : Fin 132), s.power.st = 2 → mget s.stk.lanesUsed (st.val * 132 + pch.val) 0 < 2 →
    Completes (.spareTsvLaneRepair st pch) s fun u =>
      mget u.stk.lanesUsed (st.val * 132 + pch.val) 0 = mget s.stk.lanesUsed (st.val * 132 + pch.val) 0 + 1) ∧
  (∀ (s : State) (st : Stack) (ch : Fin 128) (q : Nat), s.power.st = 2 →
    (s.chState st.val (s.physCh st.val ch.val) = .degraded ∨ s.chState st.val (s.physCh st.val ch.val) = .down) →
    s.freeSpare st.val = some q →
    Completes (.channelReplace st ch false) s fun u =>
      u.physCh st.val ch.val = q ∧ u.chState st.val q = .ok ∧ u.chState st.val (s.physCh st.val ch.val) = .retired ∧
      Output.report 0x3222 (0x600 + st.val) ∈ u.sent) ∧
  (∀ (s : State) (st : Stack) (ch : Fin 128), s.chState st.val (s.physCh st.val ch.val) ≠ .down →
    Completes (.channelDown st ch) s fun u => u.chState st.val (s.physCh st.val ch.val) = .down ∧ u.mem = s.mem) ∧
  (∀ (s : State) (st : Stack) (ch : Fin 128) (r : Req) (rest : List Req),
    mget s.stk.waiting (st.val * 128 + ch.val) [] = r :: rest →
    entriesOf (mget s.stk.queues (st.val * 128 + ch.val) [] ++ [r]) ≤ 96 →
    (7168 ≤ r.thread ∨ (s.thread r.thread).copy = none ∧ (s.thread r.thread).unissued = [] ∧ (s.thread r.thread).st = .ready) →
    Completes (.stackRequestAccept st ch) s fun u =>
      mget u.stk.waiting (st.val * 128 + ch.val) [] = rest ∧
      mget u.stk.queues (st.val * 128 + ch.val) [] = enqueue (mget s.stk.queues (st.val * 128 + ch.val) []) r ∧
      u.mem = s.mem ∧ u.threads = s.threads) ∧
  (∀ (s : State) (st : Stack) (ch : Fin 128) (r : Req) (rest : List Req),
    mget s.stk.waiting (st.val * 128 + ch.val) [] = r :: rest →
    entriesOf (mget s.stk.queues (st.val * 128 + ch.val) [] ++ [r]) ≤ 96 → r.thread < 7168 → keyEngine r.thread = 3 →
    (s.thread r.thread).copy = none → (s.thread r.thread).unissued = [] → (s.thread r.thread).st = .waitData →
    (s.thread r.thread).markAt = none → (s.thread r.thread).outstanding < 16 →
    (∀ c ∈ mset s.stk.waiting (st.val * 128 + ch.val) rest, ∀ x ∈ c.2, x.thread ≠ r.thread) →
    Completes (.stackRequestAccept st ch) s fun u =>
      ((u.thread r.thread).st = .ready ∨ (u.thread r.thread).st = .waitList) ∧ u.mem = s.mem) ∧
  (∀ (s : State) (st : Stack) (ch : Fin 128), mget s.stk.waiting (st.val * 128 + ch.val) [] = [] →
    Completes (.stackRequestAccept st ch) s fun u => u = s) ∧
  (∀ (s : State) (st : Stack) (ch : Fin 128) (i : Fin 96) (r : Req),
    (mget s.stk.queues (st.val * 128 + ch.val) [])[i.val]? = some r → 1 < r.cls →
    Completes (.requestPromote st ch i) s fun u =>
      (mget u.stk.queues (st.val * 128 + ch.val) [])[i.val]? = some { r with cls := r.cls - 1 } ∧
      (∀ k, i.val < k → (mget u.stk.queues (st.val * 128 + ch.val) [])[k]? =
        (mget s.stk.queues (st.val * 128 + ch.val) [])[k]?) ∧
      (∀ k x, k < i.val → (mget s.stk.queues (st.val * 128 + ch.val) [])[k]? = some x →
        (mget u.stk.queues (st.val * 128 + ch.val) [])[k]? =
          some (if r.write = false ∧ x.write = true ∧ x.touches r = true ∧ r.cls - 1 < x.cls then { x with cls := r.cls - 1 } else x)) ∧
      u.mem = s.mem) ∧
  (∀ (s : State) (st : Stack) (ch : Fin 128) (r : Req),
    nextServed (mget s.stk.queues (st.val * 128 + ch.val) []) = some r → 7232 ≤ r.thread → r.data = [] →
    (r.thread < runaheadRequester 0 ∨ orphanRequester ≤ r.thread) → s.chState st.val (s.physCh st.val ch.val) ≠ .down →
    Completes (.stackRequestDone st ch .clean) s fun u =>
      mget u.stk.queues (st.val * 128 + ch.val) [] = (mget s.stk.queues (st.val * 128 + ch.val) []).erase r ∧
      u.mem = s.mem ∧ u.jobs = s.jobs ∧ u.threads = s.threads) ∧
  (∀ (s : State) (st : Stack) (ch : Fin 128) (r : Req) (j : Job),
    nextServed (mget s.stk.queues (st.val * 128 + ch.val) []) = some r → r.thread < 7232 →
    s.chState st.val (s.physCh st.val ch.val) ≠ .down → s.findJob (s.thread r.thread).job = some j → j.st = .running →
    (s.thread r.thread).unissued = [] → (s.thread r.thread).copy = none → (s.thread r.thread).tails = [] →
    Completes (.stackRequestDone st ch .clean) s fun u =>
      (u.thread r.thread).outstanding = (s.thread r.thread).outstanding - 1 ∧ u.jobs = s.jobs ∧
      ((s.thread r.thread).st = .ready →
        mget u.stk.queues (st.val * 128 + ch.val) [] = (mget s.stk.queues (st.val * 128 + ch.val) []).erase r) ∧
      (r.write = false ∨ r.data = [] → u.mem = s.mem) ∧
      (r.write = true → (∃ x o, placeOf r.addr = .stack x o) →
        u.rd r.addr r.data.length = s.keepRelease r.addr r.data ∧
        ∀ x, x < r.addr ∨ r.addr + r.data.length ≤ x → u.rd8 x = s.rd8 x)) ∧
  (∀ (s : State) (st : Stack) (ch : Fin 128) (r : Req) (j : Job) (e : Ecc),
    nextServed (mget s.stk.queues (st.val * 128 + ch.val) []) = some r → r.thread < 7232 → r.write = false →
    s.chState st.val (s.physCh st.val ch.val) ≠ .down → s.findJob (s.thread r.thread).job = some j → j.st = .running →
    (e = .double ∨ e = .addrCheck) →
    Completes (.stackRequestDone st ch e) s fun u =>
      State.haltedWith (ThreadId.ofKey r.thread) j (if e = .double then 0x3211 else 0x3212) u ∧
      ((s.thread r.thread).copy = none → (s.thread r.thread).tails = [] → r.atom = true → r.addr / 64 * 64 ∈ u.stk.poison)) ∧
  (∀ (s : State) (st : Stack) (ch : Fin 128) (r : Req) (j : Job) (e : Ecc),
    nextServed (mget s.stk.queues (st.val * 128 + ch.val) []) = some r → r.thread < 7232 →
    s.chState st.val (s.physCh st.val ch.val) = .down → s.findJob (s.thread r.thread).job = some j → j.st = .running →
    Completes (.stackRequestDone st ch e) s fun u => State.haltedWith (ThreadId.ofKey r.thread) j 0x3220 u)

/-! ### Transfers and the stack channels -/

/-- An uncached TE_COPY: between on-chip memories it moves the bytes of its rows, or those that the conversion of a
row makes of them, and changes no other; from stacked memory its reads go out and the thread waits for them; to
stacked memory its writes go out with the row's bytes; from host memory it waits for the port (R84, R85, R87, R115
to R117, R155, R385, R399). TE_ROWCOPY copies to each destination row the source row that its list word names, or
zeros where it names none; a source row in stacked memory is read first (R393). TE_DISPATCH runs its placement
over its record, and each assignment places a row at its expert while the expert has room, at the fallback while
that has room, and else drops it (R391, R392). -/
def Obligations.TransfersPlaceBytes : Prop :=
  (∀ (s : State) (tile : Tile) (n : Fin 28) (h : CmdHead) (j : Job) (at_ : W32) (r : CopyRec),
    s.copying tile n h j at_ r → r.fin = r.fout → fmtMx r.fin = false → fmtTensor r.fin = false → State.copyOverlap r = none →
    (∀ i, i < r.rows → State.inStore (r.src + i * r.spitch)) →
    (∀ i, i < r.rows → windowOf (r.dst + i * r.dpitch) = 0 ∧ ∃ t o, placeOf (r.dst + i * r.dpitch) = .scratch t o) →
    (r.rows = 1 ∨ r.dstBytes ≤ r.dpitch) → s.clearOfServe r.dst ((r.rows - 1) * r.dpitch + r.dstBytes) →
    Completes (.teCopy (.tile tile n) h at_) s fun u =>
      s.advanced (.tile tile n) 1 u ∧
      (∀ i, i < r.rows → u.rd (r.dst + i * r.dpitch) r.dstBytes = s.rd (r.src + i * r.spitch) r.srcBytes) ∧
      (∀ x, (∀ i, i < r.rows → x < r.dst + i * r.dpitch ∨ r.dst + i * r.dpitch + r.dstBytes ≤ x) → u.rd8 x = s.rd8 x)) ∧
  (∀ (s : State) (tile : Tile) (n : Fin 28) (h : CmdHead) (j : Job) (at_ : W32) (r : CopyRec),
    s.copying tile n h j at_ r → r.rows = 1 → r.fin ≠ r.fout → r.sr = false → fmtMx r.fin = false → fmtMx r.fout = false →
    fmtTensor r.fin = false → fmtTensor r.fout = false → State.copyOverlap r = none → State.inStore r.src → windowOf r.dst = 0 →
    (∃ t o, placeOf r.dst = .scratch t o) → bit j.block.flags.toNat 3 = false →
    Completes (.teCopy (.tile tile n) h at_) s fun u =>
      let e := convertRow r.fin r.fout (s.rd r.src r.srcBytes) [] 0x3F800000 0x3F800000 none (s.freeCtr + 1) 0 r.elems
      s.advanced (.tile tile n) 1 u ∧ u.rd r.dst e.bytes.length = s.keepRelease r.dst e.bytes ∧
      (∀ x, x < r.dst ∨ r.dst + e.bytes.length ≤ x → u.rd8 x = s.rd8 x)) ∧
  (∀ (s : State) (tile : Tile) (n : Fin 28) (h : CmdHead) (j : Job) (at_ : W32) (r : CopyRec),
    s.copying tile n h j at_ r → s.hostReadsOf (ThreadId.tile tile n).key r = [] → (∃ x o, placeOf r.src = .stack x o) →
    Completes (.teCopy (.tile tile n) h at_) s fun u =>
      let k := (ThreadId.tile tile n).key
      (u.thread k).st = .waitData ∧ (u.thread k).pc = (s.thread k).pc ∧ (u.thread k).copy.isSome = true ∧ u.mem = s.mem ∧
      ∃ q ∈ u.reqsOut (fun x => x.thread == k), q.write = false ∧ q.addr = r.src) ∧
  (∀ (s : State) (tile : Tile) (n : Fin 28) (h : CmdHead) (j : Job) (at_ : W32) (r : CopyRec),
    s.copying tile n h j at_ r → r.rows = 1 → r.fin = r.fout → fmtMx r.fin = false → fmtTensor r.fin = false →
    State.copyOverlap r = none → State.inStore r.src → (∃ x o, placeOf r.dst = .stack x o) → mget s.store.dcache tile.val [] = [] →
    Completes (.teCopy (.tile tile n) h at_) s fun u =>
      let k := (ThreadId.tile tile n).key
      (s.advanced (.tile tile n) 1 u ∨ (u.thread k).st = .waitData) ∧ u.mem = s.mem ∧
      ∀ q ∈ requestsOf k (s.thread k).job 3 (s.freeCtr + 1) r.gather true r.dst r.srcBytes (s.rd r.src r.srcBytes),
        ∃ y ∈ (u.thread k).unissued ++ u.reqsOut (fun x => x.thread == k), y.addr = q.addr ∧ y.data = q.data ∧ y.write = true) ∧
  (∀ (s : State) (tile : Tile) (n : Fin 28) (h : CmdHead) (j : Job) (at_ : W32) (r : CopyRec),
    s.copying tile n h j at_ r → s.hostReadsOf (ThreadId.tile tile n).key r ≠ [] →
    (s.thread (ThreadId.tile tile n).key).hostDone = false →
    Completes (.teCopy (.tile tile n) h at_) s fun u =>
      let k := (ThreadId.tile tile n).key
      (u.thread k).st = .waitData ∧ (u.thread k).pc = (s.thread k).pc ∧ u.mem = s.mem ∧
      u.host.reads.any (fun x => x.thread == k) = true) ∧
  (∀ (s : State) (tile : Tile) (n : Fin 28) (h : CmdHead) (j : Job) (at_ : W32) (r : RowRec),
    s.rowCopying tile n h j at_ r →
    (∀ i, i < r.rows → State.inStore (r.list + i * r.lstride) ∧ State.inStore (r.src + s.rowIndex r i * r.spitch)) →
    (∀ i, i < r.rows → windowOf (r.dst + i * r.dpitch) = 0 ∧ ∃ t o, placeOf (r.dst + i * r.dpitch) = .scratch t o) →
    (r.rows = 1 ∨ r.rowBytes ≤ r.dpitch) → s.clearOfServe r.dst ((r.rows - 1) * r.dpitch + r.rowBytes) →
    (∀ i k, i < r.rows → k < r.rows →
      (r.list + i * r.lstride + 4 ≤ r.dst + k * r.dpitch ∨ r.dst + k * r.dpitch + r.rowBytes ≤ r.list + i * r.lstride) ∧
      (r.src + s.rowIndex r i * r.spitch + r.rowBytes ≤ r.dst + k * r.dpitch ∨
        r.dst + k * r.dpitch + r.rowBytes ≤ r.src + s.rowIndex r i * r.spitch)) →
    Completes (.teRowcopy (.tile tile n) h at_) s fun u =>
      s.advanced (.tile tile n) 1 u ∧
      (∀ i, i < r.rows → u.rd (r.dst + i * r.dpitch) r.rowBytes =
        (if s.rowIndex r i < r.srcRows then s.rd (r.src + s.rowIndex r i * r.spitch) r.rowBytes
          else List.replicate r.rowBytes 0)) ∧
      (∀ x, (∀ i, i < r.rows → x < r.dst + i * r.dpitch ∨ r.dst + i * r.dpitch + r.rowBytes ≤ x) → u.rd8 x = s.rd8 x)) ∧
  (∀ (s : State) (tile : Tile) (n : Fin 28) (h : CmdHead) (j : Job) (at_ : W32) (r : RowRec),
    s.rowCopying tile n h j at_ r → State.inStore r.list → s.rowIndex r 0 < r.srcRows →
    (∃ x o, placeOf (r.src + s.rowIndex r 0 * r.spitch) = .stack x o) →
    Completes (.teRowcopy (.tile tile n) h at_) s fun u =>
      let k := (ThreadId.tile tile n).key
      (u.thread k).st = .waitData ∧ (u.thread k).pc = (s.thread k).pc ∧ u.mem = s.mem ∧
      ∃ q ∈ u.reqsOut (fun x => x.thread == k), q.write = false ∧ q.addr = r.src + s.rowIndex r 0 * r.spitch) ∧
  (∀ (s : State) (tile : Tile) (n : Fin 28) (h : CmdHead) (j : Job) (at_ : W32) (r : State.DispRec),
    s.issuing (.tile tile n) 0x38 3 h true j → at_.toNat % 64 = 0 → at_.toNat + 128 ≤ j.image.bytes →
    s.recordAcc (j.image.base + at_.toNat) 128 = none →
    State.readDispRec (.tile tile n) (s.thread (ThreadId.tile tile n).key).bases (s.rd (j.image.base + at_.toNat) 128) = some r →
    State.dispFieldsOk r = true →
    (∀ x ∈ State.dispExtents r, x.2.1 ≠ 0 → s.ownScratch ⟨3, tile.val⟩ tile.val x.1 x.2.1 = .ok) →
    (s.checkAll j ⟨3, tile.val⟩ (State.dispExtents r)).1 = .ok → s.dispTableOk r = true →
    Completes (.teDispatch (.tile tile n) h at_) s fun u =>
      s.advanced (.tile tile n) 1 u ∧ (s.untraced h → u.mem = (State.dispatchRun r s).st.mem)) ∧
  (∀ (r : State.DispRec) (t a e : Nat) (p : State.Placing),
    (BitVec.ofNat 32 (p.st.w4 (r.route + 4 * a))).toInt = (e : Int) → e < r.nexp →
    let q := { p with st := p.st.wrNat (r.tok + 4 * a) 4 0xFFFFFFFF }
    (mget p.placed e 0 < q.st.expCap r e →
      (State.assign r t a p).placed = mset p.placed e (mget p.placed e 0 + 1) ∧ (State.assign r t a p).dropped = p.dropped) ∧
    (q.st.expCap r e ≤ mget p.placed e 0 → q.st.expFallback r e < r.nexp →
      mget p.placed (q.st.expFallback r e) 0 < q.st.expCap r (q.st.expFallback r e) →
      (State.assign r t a p).placed =
        mset p.placed (q.st.expFallback r e) (mget p.placed (q.st.expFallback r e) 0 + 1) ∧
      (State.assign r t a p).fallback = p.fallback + 1 ∧ mget (State.assign r t a p).capped e 0 = mget p.capped e 0 + 1) ∧
    (q.st.expCap r e ≤ mget p.placed e 0 → r.nexp ≤ q.st.expFallback r e →
      (State.assign r t a p).placed = p.placed ∧ (State.assign r t a p).dropped = p.dropped + 1 ∧
      mget (State.assign r t a p).capped e 0 = mget p.capped e 0 + 1)) ∧
  (∀ (r : State.DispRec) (t a : Nat) (p : State.Placing),
    (BitVec.ofNat 32 (p.st.w4 (r.route + 4 * a))).toInt < 0 ∨ (r.nexp : Int) ≤ (BitVec.ofNat 32 (p.st.w4 (r.route + 4 * a))).toInt →
    (State.assign r t a p).placed = p.placed ∧ (State.assign r t a p).badIndex = p.badIndex + 1 ∧
    (State.assign r t a p).dropped = p.dropped)

/-! ### Jobs and images -/

/-- A job descriptor whose checks pass admits a job under the next handle; one whose guard or fields fail, whose image is
refused, or that a later step of admission refuses is answered with the code and admits none (R91, R406). -/
def Obligations.JobsAdmitted : Prop :=
  (∀ (s s₁ s₂ s₃ : State) (d : DescHead) (block : W64) (data : List HostSeg) (b : RawBlock) (exps : List RawBlock)
    (dls : List W64) (m : Image) (res : Bool),
    s.takes d 1 2 → block.toNat % 64 = 0 →
    s₁ = data.foldl (fun st g => st.hostWr d.port.val g.addr.toNat g.bytes) (s.consume d 2) →
    b = ⟨s₁.hostRd d.port.val block.toNat 1024⟩ → b.n 4 4 = 2 ^ 32 - 1 - b.n 0 4 → b.fieldsOk = true →
    exps = (List.range (b.n 124 4)).map (fun k => (⟨s₁.hostRd d.port.val (b.n 232 8 + 64 * k) 64⟩ : RawBlock)) →
    exps.findSome? exportCode = none → s₁.refreshTable d.port.val (b.n 56 8) = some dls →
    State.takeImage d.port.val b s₁ = (.ok (m, res), s₂) →
    s₂.admitCand (s₂.candidate d.port.val d.ring.val (s.ring d.port.val d.ring.val).sqHead.toNat b exps dls m res) (b.n 64 8)
      = .ok s₃ →
    Completes (.job d block data) s fun u =>
      u.nextHandle = State.followHandle s.nextHandle ∧ u.jobs.length = s.jobs.length + 1 ∧
      ∃ j ∈ u.jobs, j.handle = s.nextHandle ∧ j.st = .admitted ∧ j.image = m ∧ j.port = d.port.val ∧ j.ring = d.ring.val) ∧
  (∀ (s s₁ : State) (d : DescHead) (block : W64) (data : List HostSeg) (b : RawBlock),
    s.takes d 1 2 → block.toNat % 64 = 0 →
    s₁ = data.foldl (fun st g => st.hostWr d.port.val g.addr.toNat g.bytes) (s.consume d 2) →
    b = ⟨s₁.hostRd d.port.val block.toNat 1024⟩ → b.n 4 4 ≠ 2 ^ 32 - 1 - b.n 0 4 →
    Completes (.job d block data) s fun u =>
      s.answeredWith d 0x1101 u ∧ u.jobs = s.jobs ∧ u.nextHandle = s.nextHandle ∧ u.mem = s.mem) ∧
  (∀ (s s₁ : State) (d : DescHead) (block : W64) (data : List HostSeg) (b : RawBlock),
    s.takes d 1 2 → block.toNat % 64 = 0 →
    s₁ = data.foldl (fun st g => st.hostWr d.port.val g.addr.toNat g.bytes) (s.consume d 2) →
    b = ⟨s₁.hostRd d.port.val block.toNat 1024⟩ → b.n 4 4 = 2 ^ 32 - 1 - b.n 0 4 → b.fieldsOk = false →
    Completes (.job d block data) s fun u =>
      s.answeredWith d 0x1102 u ∧ u.jobs = s.jobs ∧ u.nextHandle = s.nextHandle ∧ u.mem = s.mem) ∧
  (∀ (s s₁ s₂ : State) (d : DescHead) (block : W64) (data : List HostSeg) (b : RawBlock)
    (dls : List W64) (x : W16 × Nat × Nat),
    s.takes d 1 2 → block.toNat % 64 = 0 →
    s₁ = data.foldl (fun st g => st.hostWr d.port.val g.addr.toNat g.bytes) (s.consume d 2) →
    b = ⟨s₁.hostRd d.port.val block.toNat 1024⟩ → b.n 4 4 = 2 ^ 32 - 1 - b.n 0 4 → b.fieldsOk = true →
    ((List.range (b.n 124 4)).map (fun k => (⟨s₁.hostRd d.port.val (b.n 232 8 + 64 * k) 64⟩ : RawBlock))).findSome? exportCode
      = none → s₁.refreshTable d.port.val (b.n 56 8) = some dls →
    State.takeImage d.port.val b s₁ = (.error x, s₂) →
    Completes (.job d block data) s fun u =>
      s.answeredWith d x.1 u ∧ u.jobs = s.jobs ∧ u.nextHandle = s.nextHandle) ∧
  (∀ (s s₁ s₂ : State) (d : DescHead) (block : W64) (data : List HostSeg) (b : RawBlock) (exps : List RawBlock)
    (dls : List W64) (m : Image) (res : Bool) (x : W16 × Nat × Nat),
    s.takes d 1 2 → block.toNat % 64 = 0 →
    s₁ = data.foldl (fun st g => st.hostWr d.port.val g.addr.toNat g.bytes) (s.consume d 2) →
    b = ⟨s₁.hostRd d.port.val block.toNat 1024⟩ → b.n 4 4 = 2 ^ 32 - 1 - b.n 0 4 → b.fieldsOk = true →
    exps = (List.range (b.n 124 4)).map (fun k => (⟨s₁.hostRd d.port.val (b.n 232 8 + 64 * k) 64⟩ : RawBlock)) →
    exps.findSome? exportCode = none → s₁.refreshTable d.port.val (b.n 56 8) = some dls →
    State.takeImage d.port.val b s₁ = (.ok (m, res), s₂) →
    s₂.admitCand (s₂.candidate d.port.val d.ring.val (s.ring d.port.val d.ring.val).sqHead.toNat b exps dls m res) (b.n 64 8)
      = .error x →
    Completes (.job d block data) s fun u =>
      s.answeredWith d x.1 u ∧ u.jobs = s.jobs ∧ u.nextHandle = s.nextHandle)

/-- A job waits in the queue until it may start, and a start wakes a module that is in Idle (R94, R433). It starts
once its units are free: its threads are bound with the job's bases, those the image names are READY at their
start and the others DONE, and the owner registers of its banks read their reset values (R61, R69, R94, R137). A
job that is complete and still is zeroed and let go: it is gone, no thread is bound to it, and its tiles'
scratchpads and buffers and its banks of the shared stores read 0; until it is still, nothing is zeroed (R96,
R411). -/
def Obligations.JobsStartAndEnd : Prop :=
  (∀ (s : State) (h : W32) (j : Job), s.findJob h = some j → s.startReady j = true → s.power.held = false →
    s.power.off = false → s.power.st = 0 →
    Completes (.jobStart h) s fun u =>
      (∃ k, u.findJob h = some k ∧ (k.st = .running ∨ k.st = .completing)) ∧
      (∀ k ∈ State.jobKeys j, (u.thread k).job = h ∧ (u.thread k).bases = j.block.bases ∧
        ((u.thread k).st = .ready ∨ (u.thread k).st = .done)) ∧
      (∀ i t, i < j.image.threadCount →
        State.threadOf j (s.threadRec j i).1.1 (s.threadRec j i).1.2.1 (s.threadRec j i).1.2.2 = some t →
        (u.thread t.key).st = .ready) ∧
      (∀ t ∈ j.block.tiles, t < 256 → ∀ b, b < 16 → u.reg (Regs.tilOwner t b) = Regs.resetValue (Regs.tilOwner t b)) ∧
      u.mem = s.mem) ∧
  (∀ (s : State) (h : W32) (j : Job), s.findJob h = some j → s.startReady j = true → s.power.held = false →
    s.power.off = false → s.power.st = 1 →
    Completes (.jobStart h) s fun u => u.power.st = 5 ∧ u.power.origin = 1 ∧ u.jobs = s.jobs ∧ u.threads = s.threads) ∧
  (∀ (s : State) (h : W32), s.power.held = true ∨ s.power.off = true ∨
      (∀ j, s.findJob h = some j → s.startReady j = false ∨ 2 ≤ s.power.st) →
    Completes (.jobStart h) s fun u => u = s) ∧
  ((∀ (s : State) (h : W32), (∀ j, s.findJob h = some j →
      (j.st ≠ .completing ∧ j.st ≠ .quenching) ∨ s.jobStill j = false) →
    Completes (.jobZeroed h) s fun u => u = s) ∧
  ∀ (s : State) (h : W32) (j : Job), s.findJob h = some j → (j.st = .completing ∨ j.st = .quenching) → s.jobStill j = true →
    Completes (.jobZeroed h) s fun u =>
      u.findJob h = none ∧ (∀ c ∈ u.threads, c.2.job ≠ h) ∧
      (∀ t ∈ j.block.tiles, t < 256 → ∀ x, x < 0x400000 → u.rd8 (scratchAddr t x) = 0) ∧
      (∀ t ∈ j.block.tiles, t < 256 → ∀ x, x < 0x40000 → u.rd8 (tbufAddr t x) = 0) ∧
      (∀ d k, d < 4 → k < 64 → j.ownsBank d k = true → ∀ x, x < 0x200000 → u.rd8 (sharedAddr d (k * 0x200000 + x)) = 0) ∧
      (∀ c ∈ u.enf, c.2.job ≠ h))

/-- A quench descriptor quenches its port's running job with JOB_QUENCHED; every thread of it that waits on nothing
halts and the memory stays as it is. It removes a job that has not started; it answers that a job is gone,
complete or about to be, that it is being quenched, or that it is another port's (R97 to R99). An eviction request
marks its image, and the image leaves the program region once no job uses it (R95, R405). -/
def Obligations.QuenchesAndEvictions : Prop :=
  ((∀ (s : State) (d : DescHead) (h : W32), s.takes d 6 1 → s.findJob h = none →
    Completes (.quench d h) s fun u => s.answeredWith d 0x1402 u ∧ u.jobs = s.jobs ∧ u.threads = s.threads) ∧
  (∀ (s : State) (d : DescHead) (h : W32) (j : Job) (code : W16), s.takes d 6 1 → s.findJob h = some j →
    (if s.ownsPort d.port.val j.port = false then code = 0x1102
      else if j.st = .completing ∨ j.runs = true ∧ s.threadsDone j = true then code = 0x1402
      else j.st = .quenching ∧ code = 0x1401) →
    Completes (.quench d h) s fun u => s.answeredWith d code u ∧ u.jobs = s.jobs ∧ u.threads = s.threads) ∧
  (∀ (s : State) (d : DescHead) (h : W32) (j : Job), s.takes d 6 1 → s.findJob h = some j → j.st = .admitted →
    s.ownsPort d.port.val j.port = true →
    Completes (.quench d h) s fun u =>
      u.findJob h = none ∧ (∀ c ∈ u.sched, c.2.owner ≠ h) ∧ u.threads = s.threads ∧ u.mem = s.mem) ∧
  ∀ (s : State) (d : DescHead) (h : W32) (j : Job), s.takes d 6 1 → s.findJob h = some j → (j.st = .running ∨ j.st = .held) →
    s.ownsPort d.port.val j.port = true → s.threadsDone j = false →
    Completes (.quench d h) s fun u =>
      (∃ k, u.findJob h = some k ∧ k.st = .quenching ∧ k.cause = 0x1401) ∧ u.mem = s.mem ∧
      (∀ t : ThreadId, (s.thread t.key).job = h → (s.thread t.key).st ≠ .free → (s.thread t.key).st ≠ .done →
        (s.thread t.key).st ≠ .waitData → (u.thread t.key).st = .halted) ∧
      (∀ t : ThreadId, (s.thread t.key).job ≠ h → u.thread t.key = s.thread t.key)) ∧
  (∀ (s : State) (d : DescHead) (dg : BitVec 256) (r : Resident), s.takes d 5 1 →
    s.images.find? (fun r => r.evicting.isNone && r.img.digest == dg) = some r →
    Completes (.evictImage d dg) s fun u =>
      (∃ x ∈ u.images, x.img = r.img ∧ x.evicting.isSome = true) ∧ u.images.length = s.images.length ∧ u.jobs = s.jobs) ∧
  (∀ (s : State) (d : DescHead) (dg : BitVec 256), s.takes d 5 1 →
    s.images.find? (fun r => r.evicting.isNone && r.img.digest == dg) = none →
    Completes (.evictImage d dg) s fun u => s.answeredWith d 0x1201 u ∧ u.images = s.images) ∧
  (∀ (s : State) (dg : BitVec 256) (r : Resident),
    s.images.find? (fun r => r.evicting.isSome && r.img.digest == dg && !s.imageUsed r.img) = some r →
    Completes (.imageEvicted dg) s fun u => (∀ x ∈ u.images, x.img.base ≠ r.img.base) ∧ u.mem = s.mem) ∧
  (∀ (s : State) (dg : BitVec 256),
    s.images.find? (fun r => r.evicting.isSome && r.img.digest == dg && !s.imageUsed r.img) = none →
    Completes (.imageEvicted dg) s fun u => u = s)

/-! ### Rings and descriptors -/

/-- A doorbell poll takes SQ_TAIL and CQ_HEAD from a ring in service, and stops one whose tail is ahead by more than
its size with RING_OVERRUN; a nudge wakes the module from a low-power state (R401 to R403, R436). ECHO completes
with code 0; a POWER descriptor begins the entry it asks for, or records its request for Run, is answered where
the module is in that state or may not enter it, and waits behind a sequence in progress (R405, R410, R433). -/
def Obligations.DoorbellsAndEchoes : Prop :=
  (∀ (s : State) (p : HPort) (n : Fin 64) (tail head : W32), s.polls p.val n.val = true →
    s.flag (Regs.sqCfg p.val n.val) 0 = true → (s.ring p.val n.val).stopped = false →
    (tail - (s.ring p.val n.val).sqHead).toNat ≤ 2 ^ s.field (Regs.sqCfg p.val n.val) 4 1 →
    Completes (.doorbellPoll p n tail head) s fun u =>
      (u.ring p.val n.val).sqTail = tail ∧ (u.ring p.val n.val).sqHead = (s.ring p.val n.val).sqHead ∧
      (s.cqEnabled p.val n.val = true → (u.ring p.val n.val).cqHead = head) ∧ u.mem = s.mem) ∧
  (∀ (s : State) (p : HPort) (n : Fin 64) (tail head : W32), s.polls p.val n.val = true →
    s.flag (Regs.sqCfg p.val n.val) 0 = true → (s.ring p.val n.val).stopped = false →
    2 ^ s.field (Regs.sqCfg p.val n.val) 4 1 < (tail - (s.ring p.val n.val).sqHead).toNat →
    Completes (.doorbellPoll p n tail head) s fun u =>
      (u.ring p.val n.val).stopped = true ∧ (u.ring p.val n.val).sqTail = (s.ring p.val n.val).sqTail ∧
      u.lastLog = some 0x1103) ∧
  (∀ (s : State) (p : HPort) (n : Fin 64) (tail head : W32), s.polls p.val n.val = false →
    Completes (.doorbellPoll p n tail head) s fun u => u = s) ∧
  (∀ (s : State) (p : HPort) (n : Fin 64) (tail head : W32), s.polls p.val n.val = true →
    (s.flag (Regs.sqCfg p.val n.val) 0 = false ∨ (s.ring p.val n.val).stopped = true) →
    Completes (.doorbellPoll p n tail head) s fun u =>
      (u.ring p.val n.val).sqTail = (s.ring p.val n.val).sqTail ∧ (u.ring p.val n.val).stopped = (s.ring p.val n.val).stopped ∧
      (s.cqEnabled p.val n.val = true → (u.ring p.val n.val).cqHead = head) ∧ u.power = s.power ∧ u.mem = s.mem) ∧
  (∀ (s : State) (p : HPort) (off : BitVec 12) (tail head : W32), s.portLive p.val = false →
    Completes (.nudge p off tail head) s fun u => u = s) ∧
  (∀ (s : State) (p : HPort) (off : BitVec 12) (tail head : W32), s.portLive p.val = true → s.power.st = 0 →
    Completes (.nudge p off tail head) s fun u => exec (.doorbellPoll p ⟨off.toNat / 64, by omega⟩ tail head) s = .next u) ∧
  (∀ (s : State) (p : HPort) (off : BitVec 12) (tail head : W32), s.portLive p.val = true → s.wakeEnabled 2 = true →
    (s.power.st = 1 ∨ s.power.st = 2 ∨ s.power.st = 3) → s.power.off = false → s.power.held = false → s.power.leak = false →
    Completes (.nudge p off tail head) s fun u => u.power.st = 5 ∧ u.power.origin = s.power.st) ∧
  (∀ (s : State) (d : DescHead), s.takes d 5 1 →
    Completes (.echo d) s fun u => s.answeredWith d 0 u ∧ u.mem = s.mem ∧ u.jobs = s.jobs ∧ u.power = s.power) ∧
  (∀ (s t : State) (d : DescHead) (target : BitVec 8) (wakeAt : W64) (r : PwrReq), s.takes d 5 1 →
    (s.power.st = 0 ∨ s.power.st = 1) → s.power.off = false → s.power.leak = false → s.power.held = false →
    1 ≤ target.toNat → target.toNat ≤ 3 → s.power.st.toNat < target.toNat → (target.toNat = 3 → s.jobs = []) →
    (target.toNat = 1 → s.anyBound = false) →
    r = ⟨target.toNat, false, if wakeAt = 0 then none else some wakeAt,
      some (d.port.val, d.ring.val, (s.ring d.port.val d.ring.val).sqHead.toNat)⟩ →
    (s.consume d 1).installWake r = .ok t →
    Completes (.power d target wakeAt) s fun u =>
      u.power.st = 4 ∧ u.power.target.toNat = target.toNat ∧ u.power.origin = s.power.st ∧
      (target.toNat = 1 → s.answeredWith d 0 u) ∧ u.jobs = s.jobs) ∧
  (∀ (s : State) (d : DescHead) (target : BitVec 8) (wakeAt : W64) (r : PwrReq) (code : W16), s.takes d 5 1 →
    (s.power.st = 0 ∨ s.power.st = 1) → s.power.off = false → s.power.leak = false → s.power.held = false →
    target.toNat ≤ 3 → s.power.st.toNat ≠ target.toNat → (target.toNat = 3 → s.jobs = []) →
    r = ⟨target.toNat, false, if wakeAt = 0 then none else some wakeAt,
      some (d.port.val, d.ring.val, (s.ring d.port.val d.ring.val).sqHead.toNat)⟩ →
    (if target.toNat = 1 ∧ s.anyBound = true then code = 0x6121 else (s.consume d 1).installWake r = .error code) →
    Completes (.power d target wakeAt) s fun u => s.answeredWith d code u ∧ u.power = s.power ∧ u.mem = s.mem) ∧
  (∀ (s : State) (d : DescHead), s.takes d 5 1 → s.power.st = 1 → s.power.off = false →
    s.power.leak = false → s.power.held = false →
    Completes (.power d 0 0) s fun u => ∃ r, u.power.inProgress = some r ∧ r.target = 0 ∧ u.power.st = s.power.st) ∧
  (∀ (s : State) (d : DescHead) (target : BitVec 8) (wakeAt : W64), s.takes d 5 1 → s.power.off = false → s.power.leak = false →
    s.power.held = false → (s.power.st = 0 ∨ s.power.st = 1 ∨ s.power.st = 2) →
    (target.toNat ≤ 3 ∧ s.power.st.toNat = target.toNat ∨ 3 < target.toNat ∨ target.toNat = 3 ∧ s.jobs ≠ []) →
    Completes (.power d target wakeAt) s fun u =>
      s.answeredWith d (if 3 < target.toNat then 0x1102 else if target.toNat = 3 then 0x6121 else 0) u ∧
      u.power = s.power ∧ u.mem = s.mem) ∧
  (∀ (s : State) (d : DescHead) (target : BitVec 8) (wakeAt : W64), s.takes d 5 1 → s.power.off = false → s.power.leak = false →
    s.power.held = false → (s.power.st = 4 ∨ s.power.st = 5) → target.toNat ≤ 3 →
    Completes (.power d target wakeAt) s fun u =>
      (∃ r, u.power.queued = s.power.queued ++ [r] ∧ r.target = target.toNat) ∧ u.power.st = s.power.st ∧ u.mem = s.mem)

/-- A TRANSFER descriptor moves its bytes between host and module memory, through the OR and clear windows as they
act, sets the bits of its FLAG word, changes no other byte of module memory, and completes with code 0. One whose
fields are out of range or whose access is refused moves nothing and carries the code; one that meets a bank not
yet ON waits (R145, R409). An export, by descriptor or by schedule entry, writes the header and the payload of its
shard behind it to host memory. It waits while the job that opened the record runs, and one that fails carries its
code (R41, R369, R410). -/
def Obligations.HostTransfersMove : Prop :=
  (∀ (s : State) (d : DescHead) (host mod : W64) (n : W32) (tag : W16) (h bitsV : W32) (data : List Byte),
    s.takes d 2 1 → State.transferFieldsOk mod.toNat n.toNat 0 0 = true → data.length = n.toNat →
    (s.transferVerdict d.port.val h tag.toNat true mod.toNat n.toNat 0).1 = .ok →
    Completes (.transfer d host mod n 0 tag h bitsV 0 data) s fun u =>
      (windowOf mod.toNat = 0 → u.rd mod.toNat n.toNat = data) ∧
      (windowOf mod.toNat = 1 → u.rd (plainAddr mod.toNat) n.toNat =
        ((s.rd (plainAddr mod.toNat) n.toNat).zip data).map (fun x => x.1 ||| x.2)) ∧
      (windowOf mod.toNat = 2 → u.rd (plainAddr mod.toNat) n.toNat =
        ((s.rd (plainAddr mod.toNat) n.toNat).zip data).map (fun x => x.1 &&& ~~~x.2)) ∧
      s.answeredWith d 0 u ∧
      (∀ x, x < plainAddr mod.toNat ∨ plainAddr mod.toNat + n.toNat ≤ x → u.rd8 x = s.rd8 x)) ∧
  (∀ (s : State) (d : DescHead) (host mod : W64) (n : W32) (tag : W16) (h bitsV : W32) (data : List Byte),
    s.takes d 2 1 → State.transferFieldsOk mod.toNat n.toNat 1 0 = true →
    (s.transferVerdict d.port.val h tag.toNat false mod.toNat n.toNat 0).1 = .ok →
    (host.toNat + n.toNat ≤ s.entryAddr d.port.val (s.boundCq d.port.val d.ring.val) ∨
      s.entryAddr d.port.val (s.boundCq d.port.val d.ring.val) + 16 ≤ host.toNat) →
    Completes (.transfer d host mod n 1 tag h bitsV 0 data) s fun u =>
      u.hostRd d.port.val host.toNat n.toNat = s.load mod.toNat n.toNat ∧ s.answeredWith d 0 u ∧ u.mem = s.mem) ∧
  (∀ (s : State) (d : DescHead) (host mod : W64) (n : W32) (tag : W16) (h bitsV : W32) (flag : W64) (data : List Byte),
    s.takes d 2 1 → State.transferFieldsOk mod.toNat n.toNat 1 flag.toNat = true → flag ≠ 0 →
    (s.transferVerdict d.port.val h tag.toNat false mod.toNat n.toNat flag.toNat).1 = .ok →
    Completes (.transfer d host mod n 1 tag h bitsV flag data) s fun u =>
      u.rdNat (plainAddr flag.toNat) 4 = s.rdNat (plainAddr flag.toNat) 4 ||| bitsV.toNat ∧ s.answeredWith d 0 u ∧
      (∀ x, x < plainAddr flag.toNat ∨ plainAddr flag.toNat + 4 ≤ x → u.rd8 x = s.rd8 x)) ∧
  (∀ (s : State) (d : DescHead) (host mod : W64) (n : W32) (tag : W16) (h bitsV : W32) (flag : W64) (data : List Byte),
    s.takes d 2 1 → State.transferFieldsOk mod.toNat n.toNat 0 flag.toNat = true → flag ≠ 0 → data.length = n.toNat →
    (s.transferVerdict d.port.val h tag.toNat true mod.toNat n.toNat flag.toNat).1 = .ok → windowOf mod.toNat = 0 →
    (plainAddr flag.toNat + 4 ≤ mod.toNat ∨ mod.toNat + n.toNat ≤ plainAddr flag.toNat) →
    Completes (.transfer d host mod n 0 tag h bitsV flag data) s fun u =>
      u.rd mod.toNat n.toNat = data ∧
      u.rdNat (plainAddr flag.toNat) 4 = s.rdNat (plainAddr flag.toNat) 4 ||| bitsV.toNat ∧ s.answeredWith d 0 u ∧
      s.keepsBut u [(mod.toNat, n.toNat), (plainAddr flag.toNat, 4)]) ∧
  (∀ (s : State) (d : DescHead) (host mod : W64) (n : W32) (dir : BitVec 8) (tag : W16) (h bitsV : W32) (flag : W64)
    (data : List Byte) (v : Acc) (code : W16), s.takes d 2 1 →
    v = (s.transferVerdict d.port.val h tag.toNat (dir.toNat == 0) mod.toNat n.toNat flag.toNat).1 →
    (if State.transferFieldsOk mod.toNat n.toNat dir.toNat flag.toNat = false then code = 0x1102 else v = .bad code) →
    Completes (.transfer d host mod n dir tag h bitsV flag data) s fun u => s.answeredWith d code u ∧ u.mem = s.mem) ∧
  (∀ (s : State) (d : DescHead) (host mod : W64) (n : W32) (dir : BitVec 8) (tag : W16) (h bitsV : W32) (flag : W64)
    (data : List Byte), s.takes d 2 1 →
    (s.transferVerdict d.port.val h tag.toNat (dir.toNat == 0) mod.toNat n.toNat flag.toNat).1 = .wait →
    State.transferFieldsOk mod.toNat n.toNat dir.toNat flag.toNat = true →
    Completes (.transfer d host mod n dir tag h bitsV flag data) s fun u =>
      u.host = s.host ∧ u.mem = s.mem ∧ u.hostMem = s.hostMem) ∧
  (∀ (s s₁ : State) (d : DescHead) (r host cap : W64) (tag : W16), s.takes d 4 1 → s.exportWaits r.toNat = false →
    State.exportPlaceOk r.toNat host.toNat = true →
    s₁ = (s.consume d 1).jobs.foldl (fun st j => if j.block.tag.toNat = tag.toNat then st.loseReplay j.handle else st)
      (s.consume d 1) →
    (State.exportRun d.port.val tag.toNat r.toNat host.toNat cap.toNat s₁).1 = 0 →
    (s.entryAddr d.port.val (s.boundCq d.port.val d.ring.val) + 16 ≤ host.toNat ∨
      host.toNat + 128 + ((State.payloadExtents (s₁.readSnap r.toNat)).map (fun x => x.2)).sum
        ≤ s.entryAddr d.port.val (s.boundCq d.port.val d.ring.val)) →
    Completes (.exportDesc d r host cap tag) s fun u =>
      s.answeredWith d 0 u ∧ u.hostNat d.port.val host.toNat 4 = 0x57534844 ∧
      u.hostRd d.port.val (host.toNat + 128) (((State.payloadExtents (s₁.readSnap r.toNat)).flatMap
        (fun x => s₁.load x.1 x.2)).length) =
        (State.payloadExtents (s₁.readSnap r.toNat)).flatMap (fun x => s₁.load x.1 x.2) ∧ u.mem = s.mem) ∧
  (∀ (s : State) (d : DescHead) (r host cap : W64) (tag : W16), s.takes d 4 1 → s.exportWaits r.toNat = true →
    State.exportPlaceOk r.toNat host.toNat = true → Completes (.exportDesc d r host cap tag) s fun u => u = s) ∧
  (∀ (s s₁ : State) (d : DescHead) (r host cap : W64) (tag code : W16), s.takes d 4 1 →
    s₁ = (s.consume d 1).jobs.foldl (fun st j => if j.block.tag.toNat = tag.toNat then st.loseReplay j.handle else st)
      (s.consume d 1) →
    (if State.exportPlaceOk r.toNat host.toNat = false then code = 0x1102
      else s.exportWaits r.toNat = false ∧ code ≠ 0 ∧
        (State.exportRun d.port.val tag.toNat r.toNat host.toNat cap.toNat s₁).1 = code) →
    Completes (.exportDesc d r host cap tag) s fun u => s.answeredWith d code u ∧ u.mem = s.mem) ∧
  (∀ (s : State) (d : Die) (i : Fin 1024) (e : SchedEntry) (j : Job) (r host cap tag : Nat), s.fires d.val i.val 8 e →
    s.findJob e.owner = some j → j.block.exports[e.flags]? = some (r, host, cap, tag) → s.exportWaits r = true →
    Completes (.exportEntry d i) s fun u => u = s) ∧
  (∀ (s : State) (d : Die) (i : Fin 1024) (e : SchedEntry) (j : Job) (r host cap tag : Nat), s.fires d.val i.val 8 e →
    s.findJob e.owner = some j → j.block.exports[e.flags]? = some (r, host, cap, tag) → s.exportWaits r = false →
    (State.exportRun j.port tag r host cap ((s.fired d.val i.val e).loseReplay j.handle)).1 ≠ 0 →
    Completes (.exportEntry d i) s fun u => mfind u.sched (d.val * 1024 + i.val) = none ∧ u.mem = s.mem) ∧
  (∀ (s s₁ : State) (d : Die) (i : Fin 1024) (e : SchedEntry) (j : Job) (r host cap tag : Nat), s.fires d.val i.val 8 e →
    s.findJob e.owner = some j → j.block.exports[e.flags]? = some (r, host, cap, tag) → s.exportWaits r = false →
    s₁ = (s.fired d.val i.val e).loseReplay j.handle →
    (State.exportRun j.port tag r host cap s₁).1 = 0 →
    Completes (.exportEntry d i) s fun u =>
      mfind u.sched (d.val * 1024 + i.val) = none ∧ u.hostNat j.port host 4 = 0x57534844 ∧
      u.hostRd j.port (host + 128) (((State.payloadExtents (s₁.readSnap r)).flatMap (fun x => s₁.load x.1 x.2)).length) =
        (State.payloadExtents (s₁.readSnap r)).flatMap (fun x => s₁.load x.1 x.2) ∧ u.mem = s.mem)

/-- Ring registers start their rings at index 0; a write out of range, or of another size while EN is 1, is discarded,
and one that is not of the port's own host is refused. The coalescing timeout signals what is unsent (R404, R418
to R420). A departed port's rings stop and its transaction rolls back; a port that returns comes up at reset; a
completed read of host memory lets its thread go on, a part of one leaves the rest, and a failed one quenches its
job (R399, R415). -/
def Obligations.RingsAndHostPorts : Prop :=
  (∀ (s : State) (p : HPort) (n : Fin 64) (v : W32), s.writesNow (.host p) → s.flag (Regs.sqCfg p.val n.val) 0 = false →
    6 ≤ bits v.toNat 4 1 → bits v.toNat 4 1 ≤ 16 →
    Completes (.sqCfgWrite (.host p) p n v) s fun u =>
      u.regNat (Regs.sqCfg p.val n.val) = v.toNat &&& 0x7FF ∧
      (bit v.toNat 0 = true → (u.ring p.val n.val).sqHead = 0 ∧ (u.ring p.val n.val).sqTail = 0 ∧
        (u.ring p.val n.val).stopped = false)) ∧
  (∀ (s : State) (p : HPort) (n : Fin 64) (v : W32), s.writesNow (.host p) → s.flag (Regs.cqCfg p.val n.val) 0 = false →
    6 ≤ bits v.toNat 4 1 → bits v.toNat 4 1 ≤ 16 → (bit v.toNat 0 = true → (s.ring p.val n.val).held = []) →
    Completes (.cqCfgWrite (.host p) p n v) s fun u =>
      u.regNat (Regs.cqCfg p.val n.val) = v.toNat ∧
      (bit v.toNat 0 = true → (u.ring p.val n.val).cqHead = 0 ∧ (u.ring p.val n.val).cqTail = 0)) ∧
  (∀ (s : State) (p : HPort) (n : Fin 64) (v : W32), s.writesNow (.host p) →
    (bits v.toNat 4 1 < 6 ∨ 16 < bits v.toNat 4 1) →
    Completes (.sqCfgWrite (.host p) p n v) s (fun u => u = s) ∧ Completes (.cqCfgWrite (.host p) p n v) s (fun u => u = s)) ∧
  (∀ (s : State) (p : HPort) (n : Fin 64) (v : W32), s.writesNow (.host p) → 6 ≤ bits v.toNat 4 1 → bits v.toNat 4 1 ≤ 16 →
    s.flag (Regs.sqCfg p.val n.val) 0 = true →
    Completes (.sqCfgWrite (.host p) p n v) s fun u =>
      u.regNat (Regs.sqCfg p.val n.val) =
        (if bits v.toNat 10 1 = s.field (Regs.sqCfg p.val n.val) 10 1 then v.toNat &&& 0x7FF else s.regNat (Regs.sqCfg p.val n.val)) ∧
      u.host = s.host) ∧
  (∀ (s : State) (p : HPort) (n : Fin 64) (v : W32), s.writesNow (.host p) → 6 ≤ bits v.toNat 4 1 → bits v.toNat 4 1 ≤ 16 →
    s.flag (Regs.cqCfg p.val n.val) 0 = true →
    Completes (.cqCfgWrite (.host p) p n v) s fun u =>
      u.regNat (Regs.cqCfg p.val n.val) =
        (if bits v.toNat 10 1 = s.field (Regs.cqCfg p.val n.val) 10 1 then v.toNat else s.regNat (Regs.cqCfg p.val n.val)) ∧
      u.host = s.host) ∧
  (∀ (s : State) (src : Src) (p : HPort) (n : Fin 64) (v : W32), s.writesNow src → src ≠ .host p →
    Completes (.sqCfgWrite src p n v) s (fun u => u.lastLog = some 0x1106 ∧ u.host = s.host ∧
      u.regNat (Regs.sqCfg p.val n.val) = s.regNat (Regs.sqCfg p.val n.val)) ∧
    Completes (.cqCfgWrite src p n v) s (fun u => u.lastLog = some 0x1106 ∧ u.host = s.host ∧
      u.regNat (Regs.cqCfg p.val n.val) = s.regNat (Regs.cqCfg p.val n.val))) ∧
  (∀ (s : State) (p : HPort) (n : Fin 64), ((s.ring p.val n.val).unsent = 0 ∨ s.cqEnabled p.val n.val = false ∨
      s.portLive p.val = false ∨ s.flag (Regs.cqCfg p.val n.val) 11 = false) →
    Completes (.coalesceTimeout p n) s fun u => u = s) ∧
  (∀ (s : State) (p : HPort) (n : Fin 64), (s.ring p.val n.val).unsent ≠ 0 → s.cqEnabled p.val n.val = true →
    s.portLive p.val = true → s.flag (Regs.cqCfg p.val n.val) 11 = true →
    Completes (.coalesceTimeout p n) s fun u =>
      (u.ring p.val n.val).unsent = 0 ∧
      (bit (s.port p.val).masked.toNat (s.field (Regs.cqCfg p.val n.val) 10 5) = false →
        Output.msix p.val (s.field (Regs.cqCfg p.val n.val) 10 5) ∈ u.sent)) ∧
  (∀ (s : State) (p : HPort) (c : DepartCause), s.portLive p.val = true →
    (s.port (1 - p.val)).adopter = none →
    Completes (.hostDeparted p c) s fun u =>
      (u.port p.val).departed = true ∧ u.portLive p.val = false ∧ (u.acc p.val).st = 0 ∧
      (∀ x ∈ u.host.rings, x.1 / 64 = p.val → x.2.stopped = true) ∧ u.lastLog = some 0x1160 ∧ u.jobs = s.jobs) ∧
  (∀ (s : State) (p : HPort) (speed : BitVec 2) (width : BitVec 5), s.portLive p.val = false → s.power.off = false →
    Completes (.hostPortReturns p speed width) s fun u =>
      u.portLive p.val = true ∧ (u.port p.val).speed = speed ∧ (u.port p.val).width = width ∧
      (∀ n, n < 64 → u.reg (Regs.sqCfg p.val n) = Regs.resetValue (Regs.sqCfg p.val n)) ∧ u.mem = s.mem) ∧
  (∀ (s : State) (p : HPort) (c : DepartCause), s.portLive p.val = false → Completes (.hostDeparted p c) s fun u => u = s) ∧
  (∀ (s : State) (p : HPort) (speed : BitVec 2) (width : BitVec 5), (s.portLive p.val = true ∨ s.power.off = true) →
    Completes (.hostPortReturns p speed width) s fun u => u = s) ∧
  (∀ (s : State) (p : HPort) (addr : W64) (ok : Bool) (data : List Byte) (third : Bool),
    (∀ r ∈ s.host.reads, r.port ≠ p.val ∨ r.addr ≠ addr.toNat) →
    Completes (.hostReadCompletion p addr ok data third) s fun u => u = s) ∧
  (∀ (s : State) (p : HPort) (addr : W64) (data : List Byte) (third : Bool) (r : HostRead), r ∈ s.host.reads → r.port = p.val →
    r.addr = addr.toNat → 0 < data.length → data.length < r.bytes →
    Completes (.hostReadCompletion p addr true data third) s fun u =>
      u.hostRd p.val addr.toNat data.length = data ∧ u.thread r.thread = s.thread r.thread ∧
      { r with addr := addr.toNat + data.length, bytes := r.bytes - data.length } ∈ u.host.reads ∧ u.mem = s.mem) ∧
  (∀ (s : State) (p : HPort) (addr : W64) (data : List Byte) (third : Bool) (r : HostRead), r.port = p.val →
    r.addr = addr.toNat → r.bytes = data.length → 0 < r.bytes → s.host.reads.filter (fun x => x.thread == r.thread) = [r] →
    (s.thread r.thread).st = .waitData →
    Completes (.hostReadCompletion p addr true data third) s fun u =>
      u.hostRd p.val addr.toNat data.length = data ∧ (u.thread r.thread).hostDone = true ∧
      ((u.thread r.thread).st = .ready ∨ (u.thread r.thread).st = .waitList) ∧
      (∀ x ∈ u.host.reads, x.thread ≠ r.thread) ∧ u.mem = s.mem) ∧
  (∀ (s : State) (p : HPort) (addr : W64) (data : List Byte) (third : Bool) (r : HostRead) (t : ThreadId) (j : Job),
    r.port = p.val → r.addr = addr.toNat → r ∈ s.host.reads → r.thread = t.key → (s.thread r.thread).st = .waitData →
    s.findJob (s.thread r.thread).job = some j → j.st = .running →
    Completes (.hostReadCompletion p addr false data third) s fun u =>
      (u.thread r.thread).st = .halted ∧ (∃ k, u.findJob j.handle = some k ∧ k.st = .quenching ∧ k.cause = 0x1152) ∧
      (third = true → u.portLive p.val = false))

/-! ### The matrix engine -/

/-- MX_OPND sets an operand slot; an idle array is granted to a waiting thread, first to the one behind the last
holder, and the tile's switch for zero blocks is read then; a matrix command waits for the array. ENF_FLUSH with
no set to drain lets the array go, and waits for the sets that drain (R188, R194, R208, R247). A drain writes its
values to the rows of D, added to the old D with DST ADD and masked elements as FILL says, and a vector step its
elements and its GG vector, and neither writes another byte. A drain or a step whose access fails is gone and
quenches its job; without one, nothing happens (R196, R202, R204, R206). -/
def Obligations.MatrixSlotsArrayAndDrains : Prop :=
  (∀ (s : State) (tile : Tile) (n : Fin 28) (h : CmdHead) (j : Job) (addr : W64) (slot format flags : BitVec 8) (pitch : W32)
    (a : Nat), s.issuing (.tile tile n) 0x20 1 h true j → State.opndFieldsOk addr slot format flags = true →
    resolveAddr (.tile tile n) (s.thread (ThreadId.tile tile n).key).bases addr = some a →
    Completes (.mxOpnd (.tile tile n) h addr slot format flags pitch) s fun u =>
      s.advanced (.tile tile n) 1 u ∧
      mfind (u.thread (ThreadId.tile tile n).key).slots slot.toNat = some ⟨a, format.toNat, flags.toNat, pitch.toNat⟩ ∧
      (∀ i, i ≠ slot.toNat → mfind (u.thread (ThreadId.tile tile n).key).slots i =
        mfind (s.thread (ThreadId.tile tile n).key).slots i)) ∧
  (∀ (s : State) (t : Tile), (∃ n, mfind s.matrix.holder t.val = some n) →
    Completes (.arrayGrant t) s fun u => u = s) ∧
  (∀ (s : State) (t : Tile) (next : Option Nat), mfind s.matrix.holder t.val = none →
    next = ((List.range 5).map (fun i => (mget s.matrix.last t.val 4 + 1 + i) % 5)).find? (fun n =>
      if n = 4 then !(mget s.matrix.borrowed t.val []).isEmpty else s.wantsArray t.val n) →
    Completes (.arrayGrant t) s fun u =>
      (next = none → u = s) ∧
      (∀ n, next = some n → mfind u.matrix.holder t.val = some n ∧
        mfind u.matrix.zskip t.val = some (s.flag (Regs.meCtrl t.val) 0) ∧ u.mem = s.mem)) ∧
  (∀ (s : State) (t : Tile) (n : Nat), mfind s.matrix.holder t.val = none → n = (mget s.matrix.last t.val 4 + 1) % 5 →
    n < 4 → s.wantsArray t.val n = true →
    Completes (.arrayGrant t) s fun u => mfind u.matrix.holder t.val = some n ∧ u.mem = s.mem) ∧
  (∀ (s : State) (t : Tile) (k : Nat), mfind s.matrix.holder t.val = none → k < 4 → s.wantsArray t.val k = true →
    Completes (.arrayGrant t) s fun u =>
      ∃ n, mfind u.matrix.holder t.val = some n ∧ (n = 4 ∨ s.wantsArray t.val n = true)) ∧
  (∀ (s : State) (tile : Tile) (n : Fin 28) (h : CmdHead) (j : Job), s.issuing (.tile tile n) 0x24 1 h true j →
    mfind s.matrix.flushing (ThreadId.tile tile n).key = none → mfind s.matrix.holder tile.val = some n.val →
    mfind s.matrix.chain tile.val = none → mfind s.enf (tile.val * 2) = none → mfind s.enf (tile.val * 2 + 1) = none →
    Completes (.enfFlush (.tile tile n) h) s fun u =>
      s.advanced (.tile tile n) 1 u ∧ mfind u.matrix.holder tile.val = none) ∧
  (∀ (s : State) (tile : Tile) (n : Fin 28) (h : CmdHead) (j : Job) (i : Fin 2) (e : EnfSet),
    s.issuing (.tile tile n) 0x24 1 h true j → mfind s.matrix.flushing (ThreadId.tile tile n).key = none →
    mfind s.matrix.holder tile.val = some n.val → mfind s.matrix.chain tile.val = none →
    mfind s.enf (tile.val * 2 + i.val) = some e → (e.st = .accumulating ∨ e.st = .draining) →
    Completes (.enfFlush (.tile tile n) h) s fun u =>
      (∃ e', mfind u.enf (tile.val * 2 + i.val) = some e' ∧ e'.st = .draining) ∧
      (u.thread (ThreadId.tile tile n).key).st = .waitUnit ∧ mfind u.matrix.holder tile.val = none) ∧
  (∀ (s : State) (tile : Tile) (n : Fin 28) (h : CmdHead) (j : Job) (c : Sys2Proof.Machine.Chain), s.issuing (.tile tile n) 0x24 1 h true j →
    mfind s.matrix.flushing (ThreadId.tile tile n).key = none → mfind s.matrix.holder tile.val = some n.val →
    mfind s.matrix.chain tile.val = some c →
    Completes (.enfFlush (.tile tile n) h) s fun u => State.haltedWith (.tile tile n) j 0x1133 u) ∧
  (∀ (s : State) (tile : Tile) (n : Fin 28) (h : CmdHead) (j : Job), s.issuing (.tile tile n) 0x24 1 h true j →
    mfind s.matrix.flushing (ThreadId.tile tile n).key = some 0 →
    Completes (.enfFlush (.tile tile n) h) s fun u => s.advanced (.tile tile n) 1 u) ∧
  (∀ (s : State) (tile : Tile) (n : Fin 28) (h : CmdHead) (j : Job), s.issuing (.tile tile n) 0x24 1 h true j →
    ((∃ k, mfind s.matrix.flushing (ThreadId.tile tile n).key = some (k + 1)) ∨
      mfind s.matrix.flushing (ThreadId.tile tile n).key = none ∧ mfind s.matrix.holder tile.val ≠ some n.val) →
    Completes (.enfFlush (.tile tile n) h) s fun u =>
      (u.thread (ThreadId.tile tile n).key).st = .waitUnit ∧ u.matrix = s.matrix ∧ u.enf = s.enf ∧ u.mem = s.mem) ∧
  (∀ (s : State) (tile : Tile) (n : Fin 28) (h : CmdHead) (j : Job) (b : MmaBody) (flags : BitVec 8) (sigma : W32),
    mfind s.matrix.holder tile.val ≠ some n.val →
    (s.issuing (.tile tile n) 0x21 1 h (mmaFieldsOk b) j →
      Completes (.mxMma (.tile tile n) h b) s fun u =>
        (u.thread (ThreadId.tile tile n).key).st = .waitUnit ∧ u.matrix = s.matrix ∧ u.mem = s.mem) ∧
    (s.issuing (.tile tile n) 0x22 1 h (fusedFieldsOk b flags sigma) j →
      Completes (.mxNormBwd (.tile tile n) h b flags sigma) s fun u =>
        (u.thread (ThreadId.tile tile n).key).st = .waitUnit ∧ u.matrix = s.matrix ∧ u.mem = s.mem) ∧
    (s.issuing (.tile tile n) 0x23 1 h (fusedFieldsOk b flags sigma) j →
      Completes (.mxSoftmaxBwd (.tile tile n) h b flags sigma) s fun u =>
        (u.thread (ThreadId.tile tile n).key).st = .waitUnit ∧ u.matrix = s.matrix ∧ u.mem = s.mem)) ∧
  (∀ (s : State) (t : Tile) (d : OsDrain) (j : Job), mfind s.matrix.osDrain t.val = some d → s.findJob d.job = some j →
    (d.trace = false ∨ s.flag Regs.silCtrl 0 = false) → 4 * d.n ≤ d.pitch →
    (∀ i, i < d.m → ∃ x, x < 3 ∧ areaOf t.val (d.addr + i * d.pitch) = x ∧ areaOf t.val (d.addr + i * d.pitch + 4 * d.n - 1) = x) →
    (s.checkSpans t.val j (if d.accum then 1 else 0) (State.wholeSpans [⟨2, d.addr, d.pitch, d.m, 4 * d.n, true, true⟩])).1 = .ok →
    Completes (.osDrainDone t) s fun u =>
      mfind u.matrix.osDrain t.val = none ∧
      (∀ i c, i < d.m → c < d.n →
        let old := BitVec.ofNat 32 (s.rdNat (d.addr + i * d.pitch + 4 * c) 4)
        let v := d.vals.getD (i * d.n + c) 0
        BitVec.ofNat 32 (u.rdNat (d.addr + i * d.pitch + 4 * c) 4) =
          if d.masked.getD (c / 32) false then (if d.fill = 0 then old else if d.fill = 1 then 0 else 0xFF800000)
          else if d.accum then Sys2Proof.Num.accum s.freeCtr (4 * (i * d.n + c)) old v else v) ∧
      (∀ y, (∀ i, i < d.m → y < d.addr + i * d.pitch ∨ d.addr + i * d.pitch + 4 * d.n ≤ y) → u.rd8 y = s.rd8 y)) ∧
  (∀ (s : State) (t : Tile) (n : Fin 28) (d : OsDrain) (j : Job) (code : W16) (a : Nat), mfind s.matrix.osDrain t.val = some d →
    d.thread = (ThreadId.tile t n).key → (s.thread d.thread).job = d.job → s.findJob d.job = some j → j.st = .running →
    s.checkSpans t.val j (if d.accum then 1 else 0) (State.wholeSpans [⟨2, d.addr, d.pitch, d.m, 4 * d.n, true, true⟩]) = (.bad code, a) →
    Completes (.osDrainDone t) s fun u =>
      mfind u.matrix.osDrain t.val = none ∧ State.haltedWith (.tile t n) j code u) ∧
  (∀ (s : State) (t : Tile), mfind s.matrix.osDrain t.val = none → Completes (.osDrainDone t) s fun u => u = s) ∧
  (∀ (s : State) (t : Tile) (n : Fin 4) (f : FusedStep) (j : Job),
    s.matrix.fused.find? (fun f => f.thread == t.val * 28 + n.val) = some f → s.findJob f.job = some j →
    (f.trace = false ∨ s.flag Regs.silCtrl 0 = false) →
    4 * f.n ≤ 512 → (∀ i, i < f.m → windowOf (f.addr + i * 512) = 0 ∧ ∃ x o, placeOf (f.addr + i * 512) = .tbuf x o) →
    (∀ g, f.gg = some g → windowOf g = 0 ∧ (∃ x o, placeOf g = .scratch x o) ∧
      ∀ i, i < f.m → g + 4 * f.n ≤ f.addr + i * 512 ∨ f.addr + i * 512 + 4 * f.n ≤ g) →
    (s.checkSpans t.val j 1 (State.wholeSpans (State.fusedSpans f))).1 = .ok →
    Completes (.fusedStepDone t n) s fun u =>
      u.matrix.fused = s.matrix.fused.erase f ∧
      (∀ i c, i < f.m → c < f.n →
        u.rdNat (f.addr + i * 512 + 4 * c) 4 = ((s.fusedVals f s.freeCtr).getD (i * f.n + c) 0).toNat) ∧
      (∀ g c, f.gg = some g → c < f.n → u.rdNat (g + 4 * c) 4 = ((s.fusedGg f s.freeCtr g).getD c 0).toNat) ∧
      s.keepsBut u ((List.range f.m).map (fun i => (f.addr + i * 512, 4 * f.n)) ++ f.gg.toList.map (fun g => (g, 4 * f.n)))) ∧
  (∀ (s : State) (t : Tile) (n : Fin 4) (f : FusedStep) (j : Job) (code : W16) (a : Nat),
    s.matrix.fused.find? (fun f => f.thread == t.val * 28 + n.val) = some f → s.findJob f.job = some j → j.st = .running →
    (s.thread f.thread).job = f.job → s.checkSpans t.val j 1 (State.wholeSpans (State.fusedSpans f)) = (.bad code, a) →
    Completes (.fusedStepDone t n) s fun u =>
      u.matrix.fused = s.matrix.fused.erase f ∧ State.haltedWith (.tile t (Fin.castLE (by omega) n)) j code u) ∧
  (∀ (s : State) (t : Tile) (n : Fin 4), s.matrix.fused.find? (fun f => f.thread == t.val * 28 + n.val) = none →
    Completes (.fusedStepDone t n) s fun u => u = s)

/-- A weight-stationary product writes each element of D as the dot product of its decoded row and column, within its
rounding bound and added to the old D with DST ADD; a masked element as FILL says; and no byte outside D. It lets
the array go (R184, R185, R192, R194, R196, R202). An output-stationary product leaves its result on the way to D,
or keeps it in the array with the array held, and the fused products leave their vector step, with the operands
their slots name (R196, R204, R205). -/
def Obligations.ProductsStoreAndStep : Prop :=
  (∀ (s : State) (tile : Tile) (n : Fin 28) (h : CmdHead) (j : Job) (b : MmaBody),
    s.issuing (.tile tile n) 0x21 1 h true j → mmaFieldsOk b = true → s.productReady tile.val n.val j (prodOf b) none →
    (prodOf b).os = false → s.untraced h →
    Completes (.mxMma (.tile tile n) h b) s fun u =>
      let x := s.productData tile.val n.val (prodOf b)
      let d := (s.opnd tile.val n.val 2).addr
      s.advanced (.tile tile n) 1 u ∧ mfind u.matrix.holder tile.val = none ∧
      (∃ tok, ∀ i c, i < b.m.toNat → c < b.n.toNat →
        BitVec.ofNat 32 (u.rdNat (d + 512 * i + 4 * c) 4) =
          if x.masked i c then
            (if (prodOf b).fill = 0 then BitVec.ofNat 32 (s.rdNat (d + 512 * i + 4 * c) 4)
              else if (prodOf b).fill = 1 then 0 else 0xFF800000)
          else x.element tok (16 * (i * b.n.toNat + c)) 0
            (if (prodOf b).dst = 1 then some (BitVec.ofNat 32 (s.rdNat (d + 512 * i + 4 * c) 4)) else none) (x.terms i c)) ∧
      (∀ y, (∀ i, i < b.m.toNat → y < d + 512 * i ∨ d + 512 * i + 4 * b.n.toNat ≤ y) → u.rd8 y = s.rd8 y)) ∧
  (∀ (s : State) (tile : Tile) (n : Fin 28) (h : CmdHead) (j : Job) (b : MmaBody),
    s.issuing (.tile tile n) 0x21 1 h true j → mmaFieldsOk b = true → s.productReady tile.val n.val j (prodOf b) none →
    (prodOf b).os = true → (prodOf b).dst ≠ 2 →
    Completes (.mxMma (.tile tile n) h b) s fun u =>
      let x := s.productData tile.val n.val (prodOf b)
      s.advanced (.tile tile n) 1 u ∧
      ∃ d, mfind u.matrix.osDrain tile.val = some d ∧ d.thread = (ThreadId.tile tile n).key ∧ d.job = j.handle ∧
        d.addr = (s.opnd tile.val n.val 2).addr ∧ d.pitch = (s.opnd tile.val n.val 2).pitch ∧ d.m = b.m.toNat ∧
        d.n = b.n.toNat ∧ d.accum = ((prodOf b).dst == 1) ∧ d.fill = (prodOf b).fill ∧
        ∃ tok, ∀ i, i < d.m * d.n →
          d.vals.getD i 0 = x.element tok (16 * i) (s.keptAcc tile.val (prodOf b) i) none (x.terms (i / d.n) (i % d.n))) ∧
  (∀ (s : State) (tile : Tile) (n : Fin 28) (h : CmdHead) (j : Job) (b : MmaBody),
    s.issuing (.tile tile n) 0x21 1 h true j → mmaFieldsOk b = true → s.productReady tile.val n.val j (prodOf b) none →
    (prodOf b).os = true → (prodOf b).dst = 2 → s.untraced h →
    Completes (.mxMma (.tile tile n) h b) s fun u =>
      let x := s.productData tile.val n.val (prodOf b)
      s.advanced (.tile tile n) 1 u ∧ mfind u.matrix.holder tile.val = some n.val ∧ u.mem = s.mem ∧
      ∃ c, mfind u.matrix.chain tile.val = some c ∧ c.thread = (ThreadId.tile tile n).key ∧ c.m = b.m.toNat ∧ c.n = b.n.toNat ∧
        ∃ tok, ∀ i, i < c.m * c.n →
          c.acc.getD i 0 = x.element tok (16 * i) (s.keptAcc tile.val (prodOf b) i) none (x.terms (i / c.n) (i % c.n))) ∧
  (∀ (s : State) (tile : Tile) (n : Fin 28) (h : CmdHead) (j : Job) (b : MmaBody) (flags : BitVec 8) (sigma : W32),
    s.issuing (.tile tile n) 0x22 1 h true j → fusedFieldsOk b flags sigma = true →
    s.productReady tile.val n.val j (prodOf b) (some ⟨true, bit flags.toNat 0, sigma⟩) →
    Completes (.mxNormBwd (.tile tile n) h b flags sigma) s fun u =>
      s.advanced (.tile tile n) 1 u ∧ mfind u.matrix.holder tile.val = none ∧
      ∃ f ∈ u.matrix.fused, f.thread = (ThreadId.tile tile n).key ∧ f.job = j.handle ∧ f.norm = true ∧ f.m = b.m.toNat ∧
        f.n = b.n.toNat ∧ f.addr = (s.opnd tile.val n.val 2).addr ∧ f.x = s.opnd tile.val n.val 8 ∧
        f.rowv = s.opnd tile.val n.val 9 ∧ f.colv = (s.opnd tile.val n.val 10).addr ∧
        f.gg = if bit flags.toNat 0 then some (s.opnd tile.val n.val 11).addr else none) ∧
  (∀ (s : State) (tile : Tile) (n : Fin 28) (h : CmdHead) (j : Job) (b : MmaBody) (flags : BitVec 8) (sigma : W32),
    s.issuing (.tile tile n) 0x23 1 h true j → fusedFieldsOk b flags sigma = true →
    s.productReady tile.val n.val j (prodOf b) (some ⟨false, bit flags.toNat 0, sigma⟩) →
    Completes (.mxSoftmaxBwd (.tile tile n) h b flags sigma) s fun u =>
      s.advanced (.tile tile n) 1 u ∧ mfind u.matrix.holder tile.val = none ∧
      ∃ f ∈ u.matrix.fused, f.thread = (ThreadId.tile tile n).key ∧ f.job = j.handle ∧ f.norm = false ∧ f.sigma = sigma ∧
        f.m = b.m.toNat ∧ f.n = b.n.toNat ∧ f.addr = (s.opnd tile.val n.val 2).addr ∧ f.x = s.opnd tile.val n.val 8 ∧
        f.rowv = s.opnd tile.val n.val 9 ∧ f.gg = none)

/-! ### Releases, launches and refreshes that fall due -/

/-- RELEASE writes the generation and the position it names into its serve entry with their complements, unless that would move
the generation earlier or the index names no entry; an entry that cannot be read quenches the job. A launch entry adds one to
its launch count (R260, R324, R385). -/
def Obligations.ReleasesAndLaunches : Prop :=
  (∀ (s : State) (d : Die) (i : Fin 1024) (e : SchedEntry) (j : Job), s.fires d.val i.val 3 e →
    s.findJob e.owner = some j →
    Completes (.releaseEntry d i) s fun u =>
      let k := e.target.toNat % 65536
      let a := State.serveAddr j k
      let read := (s.fired d.val i.val e).readRelease j k
      mfind u.sched (d.val * 1024 + i.val) = none ∧
      (j.block.serveCount ≤ k → u.mem = s.mem) ∧
      (∀ en, k < j.block.serveCount → read = .ok en → genDiff (e.target.toNat / 65536) en.relGen < 0 → u.mem = s.mem) ∧
      (∀ en, k < j.block.serveCount → read = .ok en → 0 ≤ genDiff (e.target.toNat / 65536) en.relGen → State.plainPlace a →
        u.rdNat (a + 8) 8 = e.position.toNat ∧ u.rdNat (a + 16) 2 = e.target.toNat / 65536 ∧
        u.rd a 8 = s.rd a 8 ∧ u.rd (a + 18) 14 = s.rd (a + 18) 14 ∧
        isZeroGuard (u.rd a 64) = true ∧ s.keepsBut u [(a, 64)]) ∧
      (∀ c x y, k < j.block.serveCount → read = .error (.broken c x y) → State.asked c = false → j.st = .running →
        u.mem = s.mem ∧ State.quenchedBy j c u)) ∧
  (∀ (s : State) (d : Die) (i : Fin 1024) (e : SchedEntry), s.fires d.val i.val 3 e → s.findJob e.owner = none →
    Completes (.releaseEntry d i) s fun u => u = s.fired d.val i.val e) ∧
  (∀ (s : State) (d : Die) (i : Fin 1024) (e : SchedEntry), s.fires d.val i.val 7 e →
    Completes (.collectiveLaunch d i) s fun u =>
      let k := (e.target.toNat * 4 + d.val) * 256 + e.flags
      mfind u.sched (d.val * 1024 + i.val) = none ∧ u.mem = s.mem ∧
      (s.findJob e.target = none → u.ni = s.ni) ∧
      (s.findJob e.target ≠ none → mget u.ni.launches k 0 = mget s.ni.launches k 0 + 1 ∧
        ∀ x, x ≠ k → mget u.ni.launches x 0 = mget s.ni.launches x 0)) ∧
  (∀ (s : State) (d : Die) (i : Fin 1024) (e : SchedEntry) (j : Job), s.fires d.val i.val 6 e → s.findJob e.owner = some j →
    Completes (.refreshLaunch d i) s fun u =>
      mfind u.sched (d.val * 1024 + i.val) = none ∧ u.mem = s.mem ∧
      (∀ n ∈ s.refreshOn j e.flags d.val,
        mget u.solver.launches (State.launchKey j.handle n e.flags) 0 =
          mget s.solver.launches (State.launchKey j.handle n e.flags) 0 + 1) ∧
      (∀ x, (∀ n ∈ s.refreshOn j e.flags d.val, x ≠ State.launchKey j.handle n e.flags) →
        mget u.solver.launches x 0 = mget s.solver.launches x 0)) ∧
  (∀ (s : State) (d : Die) (i : Fin 1024) (e : SchedEntry), s.fires d.val i.val 6 e → s.findJob e.owner = none →
    Completes (.refreshLaunch d i) s fun u => u = s.fired d.val i.val e)

/-! ### The vector engine -/

/-- VE_OP writes COUNT elements, each the operation on the elements its operands name, and VE_RED one word a segment,
by itself or added to what the destination held; neither writes another byte. A conversion that counts a NaN stops
a job that asked for it, with the results written. Both wait for a buffer that a matrix command holds (R118, R216
to R225, R230). VE_LD fills the tile buffer from memory, VE_ST stores it, and VE_SC loads, stores or computes one
scalar. A place that they may not name is a bad field; a buffer that a matrix command holds makes a move wait
(R226 to R228). -/
def Obligations.VectorCommandsComplete : Prop :=
  (∀ (s : State) (tile : Tile) (n : Fin 28) (h : CmdHead) (j : Job) (op fmt : BitVec 8) (count d a b c rowlen : W16) (imm : W32)
    (x : VCmd), s.issuing (.tile tile n) 0x20 2 h true j →
    veOpOk op fmt count.toNat d a b c rowlen.toNat imm = true → x = veOpCmd op fmt count.toNat d a b c rowlen.toNat imm →
    s.buffersHeld tile.val (State.veReads x ++ [(x.d.loc * 64, count.toNat * vecBytes x.fd)]) = false →
    s.buffersAcc j tile.val (State.veReads x) (some (x.d.loc * 64, count.toNat * vecBytes x.fd)) = .ok → s.untraced h →
    Completes (.veOp (.tile tile n) h op fmt count d a b c rowlen imm) s fun u =>
      let at_ := tbufAddr tile.val (x.d.loc * 64)
      let w := vecBytes x.fd
      let out := s.veOut (.tile tile n) tile.val x
      (s.traps j.handle (State.veCount .nan out) = false → s.advanced (.tile tile n) 1 u) ∧
      (s.traps j.handle (State.veCount .nan out) = true → State.haltedWith (.tile tile n) j 0x2104 u) ∧
      (∀ i, i < count.toNat →
        let src := fun k => s.veOperand (.tile tile n) tile.val x s.freeCtr k i
        u.rd (at_ + w * i) w = (State.veNarrow x.fd s.freeCtr (8 * i + 7)
          (veCompute x.op x.int s.freeCtr (8 * i) (src 0) (src 1) (src 2))).1) ∧
      s.keepsBut u [(at_, w * count.toNat)]) ∧
  (∀ (s : State) (tile : Tile) (n : Fin 28) (h : CmdHead) (j : Job) (op fmt : BitVec 8) (count d a b seg : W16)
    (flags : BitVec 8) (x : VCmd), s.issuing (.tile tile n) 0x21 2 h true j →
    veRedOk op fmt count.toNat d a b seg.toNat flags = true →
    x = veRedCmd op fmt count.toNat d a b → x.d.mode = 0 →
    s.buffersHeld tile.val (State.veReads x ++ [(x.d.loc * 64, 4 * (count.toNat / seg.toNat))]) = false →
    s.buffersAcc j tile.val
      (State.veReads x ++ (if bit flags.toNat 0 then [(x.d.loc * 64, 4 * (count.toNat / seg.toNat))] else []))
      (some (x.d.loc * 64, 4 * (count.toNat / seg.toNat))) = .ok → s.untraced h →
    Completes (.veRed (.tile tile n) h op fmt count d a b seg flags) s fun u =>
      let at_ := tbufAddr tile.val (x.d.loc * 64)
      s.advanced (.tile tile n) 1 u ∧
      (∀ g, g < count.toNat / seg.toNat →
        let v := reduceSeg x.op seg.toNat s.freeCtr (8 * g) ((List.range seg.toNat).map (fun i =>
          (s.veOperand (.tile tile n) tile.val x s.freeCtr 0 (g * seg.toNat + i),
            s.veOperand (.tile tile n) tile.val x s.freeCtr 1 (g * seg.toNat + i))))
        u.rdNat (at_ + 4 * g) 4 = (if bit flags.toNat 0 then
          reduceAcc x.op s.freeCtr (8 * g + 4) (BitVec.ofNat 32 (s.rdNat (at_ + 4 * g) 4)) v else v).toNat) ∧
      s.keepsBut u [(at_, 4 * (count.toNat / seg.toNat))]) ∧
  (∀ (s : State) (tile : Tile) (n : Fin 28) (h : CmdHead) (j : Job) (op fmt : BitVec 8) (count d a b seg : W16)
    (flags : BitVec 8) (x : VCmd), s.issuing (.tile tile n) 0x21 2 h true j →
    veRedOk op fmt count.toNat d a b seg.toNat flags = true →
    x = veRedCmd op fmt count.toNat d a b → x.d.mode = 1 →
    x.d.loc < (s.thread (ThreadId.tile tile n).key).sc.length →
    s.buffersHeld tile.val (State.veReads x) = false → s.buffersAcc j tile.val (State.veReads x) none = .ok → s.untraced h →
    Completes (.veRed (.tile tile n) h op fmt count d a b seg flags) s fun u =>
      let sc := (s.thread (ThreadId.tile tile n).key).sc
      let v := reduceSeg x.op seg.toNat s.freeCtr 0 ((List.range seg.toNat).map (fun i =>
        (s.veOperand (.tile tile n) tile.val x s.freeCtr 0 i, s.veOperand (.tile tile n) tile.val x s.freeCtr 1 i)))
      s.advanced (.tile tile n) 1 u ∧ u.mem = s.mem ∧
      (u.thread (ThreadId.tile tile n).key).sc.getD x.d.loc 0 =
        (if bit flags.toNat 0 then reduceAcc x.op s.freeCtr 4 (sc.getD x.d.loc 0) v else v) ∧
      (∀ k, k ≠ x.d.loc → (u.thread (ThreadId.tile tile n).key).sc.getD k 0 = sc.getD k 0)) ∧
  (∀ (s : State) (tile : Tile) (n : Fin 28) (h : CmdHead) (j : Job) (op fmt : BitVec 8) (count d a b c rowlen : W16) (imm : W32)
    (x : VCmd), s.issuing (.tile tile n) 0x20 2 h true j →
    veOpOk op fmt count.toNat d a b c rowlen.toNat imm = true → x = veOpCmd op fmt count.toNat d a b c rowlen.toNat imm →
    Completes (.veOp (.tile tile n) h op fmt count d a b c rowlen imm) s fun u =>
      let dst := (x.d.loc * 64, count.toNat * vecBytes x.fd)
      let held := s.buffersHeld tile.val (State.veReads x ++ [dst])
      (held = true → u.mem = s.mem ∧ (u.thread (ThreadId.tile tile n).key).st = .waitUnit ∧
        (u.thread (ThreadId.tile tile n).key).pc = (s.thread (ThreadId.tile tile n).key).pc) ∧
      (held = false → s.buffersAcc j tile.val (State.veReads x) (some dst) = .wait → u.mem = s.mem ∧
        (u.thread (ThreadId.tile tile n).key).st = .waitData) ∧
      (∀ code, held = false → s.buffersAcc j tile.val (State.veReads x) (some dst) = .bad code → State.asked code = false →
        State.haltedWith (.tile tile n) j code u ∧ s.keepsBut u [(tbufAddr tile.val dst.1, dst.2)])) ∧
  (∀ (s : State) (tile : Tile) (n : Fin 28) (h : CmdHead) (j : Job) (op fmt : BitVec 8) (count d a b seg : W16)
    (flags : BitVec 8) (x : VCmd), s.issuing (.tile tile n) 0x21 2 h true j →
    veRedOk op fmt count.toNat d a b seg.toNat flags = true → x = veRedCmd op fmt count.toNat d a b →
    Completes (.veRed (.tile tile n) h op fmt count d a b seg flags) s fun u =>
      let dst := (x.d.loc * 64, 4 * (count.toNat / seg.toNat))
      let own := if x.d.mode = 0 then [dst] else []
      let reads := State.veReads x ++ (if x.d.mode = 0 ∧ bit flags.toNat 0 then [dst] else [])
      let held := s.buffersHeld tile.val (State.veReads x ++ own)
      (held = true → u.mem = s.mem ∧ (u.thread (ThreadId.tile tile n).key).st = .waitUnit) ∧
      (held = false → s.buffersAcc j tile.val reads own.head? = .wait → u.mem = s.mem ∧
        (u.thread (ThreadId.tile tile n).key).st = .waitData) ∧
      (∀ code, held = false → s.buffersAcc j tile.val reads own.head? = .bad code → State.asked code = false →
        State.haltedWith (.tile tile n) j code u ∧ s.keepsBut u [(tbufAddr tile.val dst.1, dst.2)])) ∧
  (∀ (s : State) (tile : Tile) (n : Fin 28) (h : CmdHead) (j : Job) (addr : W64) (tb : W16) (bytes : W32) (a : Nat),
    s.issuing (.tile tile n) 0x22 2 h true j → State.moveFieldsOk addr tb.toNat bytes.toNat = true →
    resolveAddr (.tile tile n) (s.thread (ThreadId.tile tile n).key).bases addr = some a → a % 64 = 0 →
    State.vePlaceOk tile.val a bytes.toNat = true →
    s.meetsHeld tile.val (tbufAddr tile.val (tb.toNat * 64), bytes.toNat) = false →
    s.access j ⟨2, tile.val⟩ false true a bytes.toNat = .ok →
    s.bufferAcc j tile.val true (tb.toNat * 64, bytes.toNat) = .ok → s.untraced h →
    Completes (.veLd (.tile tile n) h addr tb bytes) s fun u =>
      let t := tbufAddr tile.val (tb.toNat * 64)
      s.advanced (.tile tile n) 1 u ∧ u.rd t bytes.toNat = s.rd a bytes.toNat ∧ s.keepsBut u [(t, bytes.toNat)]) ∧
  (∀ (s : State) (tile : Tile) (n : Fin 28) (h : CmdHead) (j : Job) (addr : W64) (tb : W16) (bytes : W32) (a : Nat),
    s.issuing (.tile tile n) 0x23 2 h true j → State.moveFieldsOk addr tb.toNat bytes.toNat = true →
    resolveAddr (.tile tile n) (s.thread (ThreadId.tile tile n).key).bases addr = some a → a % 64 = 0 →
    State.vePlaceOk tile.val a bytes.toNat = true →
    s.meetsHeld tile.val (tbufAddr tile.val (tb.toNat * 64), bytes.toNat) = false →
    s.access j ⟨2, tile.val⟩ true true a bytes.toNat = .ok →
    s.bufferAcc j tile.val false (tb.toNat * 64, bytes.toNat) = .ok → s.clearOfServe a bytes.toNat → s.untraced h →
    Completes (.veSt (.tile tile n) h addr tb bytes) s fun u =>
      let b := if State.cacheable a then s.cacheInvalidate (ThreadId.tile tile n).key tile.val a bytes.toNat else s
      s.advanced (.tile tile n) 1 u ∧ u.rd a bytes.toNat = s.rd (tbufAddr tile.val (tb.toNat * 64)) bytes.toNat ∧
      b.keepsBut u [(a, bytes.toNat)]) ∧
  (∀ (s : State) (tile : Tile) (n : Fin 28) (h : CmdHead) (j : Job) (addr : W64) (tb : W16) (bytes : W32) (a : Nat),
    State.moveFieldsOk addr tb.toNat bytes.toNat = true →
    resolveAddr (.tile tile n) (s.thread (ThreadId.tile tile n).key).bases addr = some a →
    ∀ c ∈ [(true, 0x22, Instr.veLd (.tile tile n) h addr tb bytes), (false, 0x23, .veSt (.tile tile n) h addr tb bytes)],
    s.issuing (.tile tile n) c.2.1 2 h true j →
    Completes c.2.2 s fun u =>
      let buf := (tb.toNat * 64, bytes.toNat)
      let placed := a % 64 = 0 ∧ State.vePlaceOk tile.val a bytes.toNat = true
      let held := s.meetsHeld tile.val (tbufAddr tile.val buf.1, buf.2)
      let acc := (s.access j ⟨2, tile.val⟩ (!c.1) true a bytes.toNat).andThen (s.bufferAcc j tile.val c.1 buf)
      (¬ placed → State.haltedWith (.tile tile n) j 0x1113 u ∧ u.mem = s.mem) ∧
      (placed → held = true → (u.thread (ThreadId.tile tile n).key).st = .waitUnit ∧ u.mem = s.mem) ∧
      (placed → held = false → acc = .wait → (u.thread (ThreadId.tile tile n).key).st = .waitData ∧ u.mem = s.mem) ∧
      (∀ code, placed → held = false → acc = .bad code → State.asked code = false →
        State.haltedWith (.tile tile n) j code u ∧
        s.keepsBut u [(if c.1 then tbufAddr tile.val buf.1 else a, bytes.toNat)])) ∧
  (∀ (s : State) (tile : Tile) (n : Fin 28) (h : CmdHead) (j : Job) (op fmt d a b : BitVec 8) (imm : W32),
    s.issuing (.tile tile n) 0x24 2 h true j → State.scFieldsOk op fmt d a b 0 = true → op ≠ 1 → op ≠ 2 →
    (s.thread (ThreadId.tile tile n).key).sc.length = 8 → s.untraced h →
    Completes (.veSc (.tile tile n) h op fmt d a b 0 imm) s fun u =>
      let sc := (s.thread (ThreadId.tile tile n).key).sc
      s.advanced (.tile tile n) 1 u ∧ u.mem = s.mem ∧
      (u.thread (ThreadId.tile tile n).key).sc.getD d.toNat 0 =
        State.scCompute op.toNat (fmt == 1) s.freeCtr (sc.getD a.toNat 0) (sc.getD b.toNat 0) imm ∧
      (∀ k, k ≠ d.toNat → (u.thread (ThreadId.tile tile n).key).sc.getD k 0 = sc.getD k 0)) ∧
  (∀ (s : State) (tile : Tile) (n : Fin 28) (h : CmdHead) (j : Job) (fmt d a b : BitVec 8) (addr : W64) (imm : W32) (x : Nat),
    s.issuing (.tile tile n) 0x24 2 h true j → State.scFieldsOk 1 fmt d a b addr = true →
    resolveAddr (.tile tile n) (s.thread (ThreadId.tile tile n).key).bases addr = some x → x % 4 = 0 →
    State.vePlaceOk tile.val x 4 = true → s.access j ⟨2, tile.val⟩ false true x 4 = .ok →
    (s.thread (ThreadId.tile tile n).key).sc.length = 8 → s.untraced h →
    Completes (.veSc (.tile tile n) h 1 fmt d a b addr imm) s fun u =>
      let sc := (s.thread (ThreadId.tile tile n).key).sc
      s.advanced (.tile tile n) 1 u ∧ u.mem = s.mem ∧
      ((u.thread (ThreadId.tile tile n).key).sc.getD d.toNat 0).toNat = s.rdNat x 4 ∧
      (∀ k, k ≠ d.toNat → (u.thread (ThreadId.tile tile n).key).sc.getD k 0 = sc.getD k 0)) ∧
  (∀ (s : State) (tile : Tile) (n : Fin 28) (h : CmdHead) (j : Job) (fmt d a b : BitVec 8) (addr : W64) (imm : W32) (x : Nat),
    s.issuing (.tile tile n) 0x24 2 h true j → State.scFieldsOk 2 fmt d a b addr = true →
    resolveAddr (.tile tile n) (s.thread (ThreadId.tile tile n).key).bases addr = some x → x % 4 = 0 →
    State.vePlaceOk tile.val x 4 = true → s.access j ⟨2, tile.val⟩ true true x 4 = .ok → s.untraced h →
    Completes (.veSc (.tile tile n) h 2 fmt d a b addr imm) s fun u =>
      let m := if State.cacheable x then s.cacheInvalidate (ThreadId.tile tile n).key tile.val x 4 else s
      s.advanced (.tile tile n) 1 u ∧
      u.rdNat x 4 = ((s.thread (ThreadId.tile tile n).key).sc.getD a.toNat 0).toNat ∧
      m.keepsBut u [(x, 4)]) ∧
  (∀ (s : State) (tile : Tile) (n : Fin 28) (h : CmdHead) (j : Job) (op fmt d a b : BitVec 8) (addr : W64) (imm : W32) (x : Nat),
    s.issuing (.tile tile n) 0x24 2 h true j → (op = 1 ∨ op = 2) → State.scFieldsOk op fmt d a b addr = true →
    resolveAddr (.tile tile n) (s.thread (ThreadId.tile tile n).key).bases addr = some x →
    Completes (.veSc (.tile tile n) h op fmt d a b addr imm) s fun u =>
      let placed := x % 4 = 0 ∧ State.vePlaceOk tile.val x 4 = true
      let acc := s.access j ⟨2, tile.val⟩ (op == 2) true x 4
      (¬ placed → State.haltedWith (.tile tile n) j 0x1113 u ∧ u.mem = s.mem) ∧
      (placed → acc = .wait → (u.thread (ThreadId.tile tile n).key).st = .waitData ∧ u.mem = s.mem) ∧
      (∀ code, placed → acc = .bad code → State.asked code = false →
        State.haltedWith (.tile tile n) j code u ∧ s.keepsBut u (if op = 2 then [(x, 4)] else [])))

/-! ### Enfleurage -/

/-- A drain lands its set by the decay rule, the first to arrive of those for one tile: in a new epoch the tile becomes BETA
times what it held plus ALPHA times the sums, or ALPHA times the sums where BETA is 0, and in the epoch it has it adds the
sums; its epoch field becomes the set's and its drain count grows by one. A write of ENF.EPOCH makes every ROWCNT of the tile
0 (R237, R246, R251). -/
def Obligations.StatisticsLand : Prop :=
  (∀ (s : State) (t : Tile) (set : Fin 2) (e : EnfSet), mfind s.enf (t.val * 2 + set.val) = some e → e.st = .draining →
    s.drainFirst e = true → s.drainAcc t.val e = .ok →
    (e.dest + 65536 ≤ e.hdr ∨ e.hdr + 512 ≤ e.dest) → e.idx < 136 →
    Completes (.enfDrainLand t set) s fun u =>
      let fresh := s.rdNat (e.hdr + 2 * e.idx) 2 ≠ e.epoch
      let v := fun x => Sys2Proof.Num.mul s.freeCtr (6 * x) e.alpha (e.sums.getD x 0)
      let old := fun x => BitVec.ofNat 32 (s.rdNat (e.dest + 4 * x) 4)
      mfind u.enf (t.val * 2 + set.val) = none ∧ u.rdNat (e.hdr + 2 * e.idx) 2 = e.epoch % 65536 ∧
      u.rdNat (e.hdr + 280) 4 = (s.rdNat (e.hdr + 280) 4 + 1) % 2 ^ 32 ∧
      (e.idx = 0 → fresh → u.rdNat (e.hdr + 272) 8 = e.rows % 2 ^ 64) ∧
      (e.idx = 0 → ¬ fresh → u.rdNat (e.hdr + 272) 8 = (s.rdNat (e.hdr + 272) 8 + e.rows) % 2 ^ 64) ∧
      (e.idx ≠ 0 → u.rdNat (e.hdr + 272) 8 = s.rdNat (e.hdr + 272) 8) ∧
      (∀ neg ex, fresh → Sys2Proof.Num.fp32.decode e.beta.toNat = .fin neg 0 ex →
        ∀ x, x < 16384 → u.rdNat (e.dest + 4 * x) 4 = (v x).toNat) ∧
      (fresh → (∀ neg ex, Sys2Proof.Num.fp32.decode e.beta.toNat ≠ .fin neg 0 ex) →
        ∀ x, x < 16384 → u.rdNat (e.dest + 4 * x) 4 =
          (Sys2Proof.Num.accum s.freeCtr (6 * x + 4) (Sys2Proof.Num.mul s.freeCtr (6 * x + 2) e.beta (old x)) (v x)).toNat) ∧
      (¬ fresh → ∀ x, x < 16384 → u.rdNat (e.dest + 4 * x) 4 = (Sys2Proof.Num.accum s.freeCtr (6 * x + 4) (old x) (v x)).toNat) ∧
      s.keepsBut u [(e.dest, 65536), (e.hdr, 512)]) ∧
  (∀ (s : State) (t : Tile) (set : Fin 2),
    (∀ e, mfind s.enf (t.val * 2 + set.val) = some e → e.st ≠ .draining ∨ s.drainFirst e = false ∨ s.drainAcc t.val e = .wait) →
    Completes (.enfDrainLand t set) s fun u => u = s) ∧
  (∀ (s : State) (t : Tile) (set : Fin 2) (e : EnfSet) (j : Job) (c : W16), mfind s.enf (t.val * 2 + set.val) = some e →
    e.st = .draining → s.drainFirst e = true → s.drainAcc t.val e = .bad c → s.findJob e.job = some j → j.st = .running →
    State.asked c = false →
    Completes (.enfDrainLand t set) s fun u =>
      mfind u.enf (t.val * 2 + set.val) = none ∧ State.quenchedBy j c u ∧ s.keepsBut u [(e.dest, 65536)]) ∧
  (∀ (s : State) (src : Src) (t : Tile) (value : W32), s.writesNow src →
    Completes (.enfEpochWrite src t value) s fun u =>
      u.regNat (Regs.enfEpoch t.val) = value.toNat % 65536 ∧ (∀ n, n < 64 → u.reg (Regs.enfCtx t.val n 1) = 0) ∧
      u.mem = s.mem ∧ u.enf = s.enf)

/-! ### Solver engines -/

/-- SV_BEGIN begins the next launched occurrence, skips one that is marked abandoned, or waits for its launch; a refresh with
LAUNCH 0 launches itself. SV_RUN hands its sound record to the idle engine and waits for a busy one or a held slot. SV_END
writes the occurrence's status record once the thread's operation is over. A solver descriptor launches its refresh on every
engine (R256, R257, R260 to R262, R264, R276, R282, R407, R410). -/
def Obligations.SolverThreadsDrive : Prop :=
  (∀ (s : State) (e : Sys2Proof.Engine) (n : Fin 2) (h : CmdHead) (j : Job) (r : W16), s.issuing (.solver e n) 0x20 4 h true j →
    r.toNat < 256 → s.untraced h →
    Completes (.svBegin (.solver e n) h r) s fun u =>
      let k := State.launchKey j.handle e.val r.toNat
      let begun := mget s.solver.begins k 0
      let launched := mget s.solver.launches k 0 + (if s.refreshLaunch j r.toNat = 0 then 1 else 0)
      let marked := s.solver.marks.contains (k, begun + 1)
      u.mem = s.mem ∧ mget u.solver.launches k 0 = launched ∧
      (begun < launched → mget u.solver.begins k 0 = begun + 1) ∧
      (begun < launched → marked = false → s.advanced (.solver e n) 1 u ∧
        (⟨n.val, r.toNat, begun + 1, 0, 0, 0, 0, 0, 0, 0⟩ : OpenOcc) ∈ (u.slvEngine e.val).opens) ∧
      (begun < launched → marked = true →
        (u.thread (ThreadId.solver e n).key).pc = s.findEnd (j.image.bytes / 32 + 1) j.image.base
          (stepThread 1 (s.thread (ThreadId.solver e n).key)).pc ∧
        (⟨n.val, r.toNat, begun + 1, 0x2310, 0, 0, 0, 0, 0, 0⟩ : OpenOcc) ∈ (u.slvEngine e.val).opens) ∧
      (launched ≤ begun → (u.thread (ThreadId.solver e n).key).st = .waitBeat ∧ u.solver.begins = s.solver.begins ∧
        u.solver.engines = s.solver.engines ∧
        (u.thread (ThreadId.solver e n).key).pc = (s.thread (ThreadId.solver e n).key).pc)) ∧
  (∀ (s : State) (e : Sys2Proof.Engine) (n : Fin 2) (h : CmdHead) (j : Job) (at_ : W32) (r : SlvRec),
    s.issuing (.solver e n) 0x21 4 h true j → at_.toNat % 128 = 0 → at_.toNat + 128 ≤ j.image.bytes →
    (s.slvEngine e.val).op = none → s.recordFor (.solver e n) j e.val at_.toNat r →
    (r.outslot = true → (∀ x ∈ s.solver.holds, x.1 ≠ r.out) ∧ s.pinned r.out (1 - s.curBuf r.out) = false) →
    Completes (.svRun (.solver e n) h at_) s fun u =>
      s.advanced (.solver e n) 1 u ∧ (s.untraced h → u.mem = s.mem) ∧
      (u.slvEngine e.val).op = some { thread := n.val, r := r, buf := 1 - s.curBuf r.out, steps := 0, iter := 0, staged := false
                                      overflow := false, resid := none, sigma := none, result := [], tiles := r.tiles
                                      cmd := (s.thread (ThreadId.solver e n).key).pc } ∧
      u.solver.holds = (if r.outslot then s.solver.holds ++ [(r.out, e.val)] else s.solver.holds) ∧
      (∀ x ∈ r.tiles, e.val ∈ mget u.matrix.borrowed x [])) ∧
  (∀ (s : State) (e : Sys2Proof.Engine) (n : Fin 2) (h : CmdHead) (j : Job) (at_ : W32) (r : SlvRec),
    s.issuing (.solver e n) 0x21 4 h true j → at_.toNat % 128 = 0 → at_.toNat + 128 ≤ j.image.bytes →
    (s.slvEngine e.val).op = none → s.recordFor (.solver e n) j e.val at_.toNat r → r.outslot = true →
    ((∃ x ∈ s.solver.holds, x.1 = r.out) ∨ s.pinned r.out (1 - s.curBuf r.out) = true) →
    Completes (.svRun (.solver e n) h at_) s fun u =>
      (u.thread (ThreadId.solver e n).key).st = .waitUnit ∧ u.solver = s.solver ∧ u.mem = s.mem) ∧
  (∀ (s : State) (e : Sys2Proof.Engine) (n : Fin 2) (h : CmdHead) (j : Job) (at_ : W32) (o : SlvOp),
    s.issuing (.solver e n) 0x21 4 h true j → at_.toNat % 128 = 0 → at_.toNat + 128 ≤ j.image.bytes →
    (s.slvEngine e.val).op = some o →
    Completes (.svRun (.solver e n) h at_) s fun u =>
      (u.thread (ThreadId.solver e n).key).st = (if o.thread = n.val then .waitOrder else .waitUnit) ∧
      u.solver = s.solver ∧ u.mem = s.mem) ∧
  (∀ (s : State) (e : Sys2Proof.Engine) (n : Fin 2) (h : CmdHead) (j : Job) (at_ : W32),
    s.issuing (.solver e n) 0x21 4 h true j → at_.toNat % 128 = 0 → at_.toNat + 128 ≤ j.image.bytes →
    (s.slvEngine e.val).op = none →
    Completes (.svRun (.solver e n) h at_) s fun u =>
      let bs := s.rd (j.image.base + at_.toNat) 128
      let read := readRec (.solver e n) (s.thread (ThreadId.solver e n).key).bases bs
      (recGuard bs = false → State.haltedWith (.solver e n) j 0x8010 u ∧ u.mem = s.mem) ∧
      (recGuard bs = true → read = none → State.haltedWith (.solver e n) j 0x1113 u ∧ u.mem = s.mem) ∧
      (∀ r, recGuard bs = true → read = some r → (recStatic bs j.image.bytes = false ∨ s.recIssueOk j e.val r = false ∨
          r.sparse = true ∧ s.schedOk j.image.base j.image.bytes r.sched = false) →
        State.haltedWith (.solver e n) j 0x2320 u ∧ u.mem = s.mem)) ∧
  (∀ (s : State) (e : Sys2Proof.Engine) (n : Fin 2) (h : CmdHead) (j : Job) (r : W16) (o : OpenOcc) (a : Nat),
    s.issuing (.solver e n) 0x22 4 h true j → r.toNat < 256 → (∀ x, (s.slvEngine e.val).op = some x → x.thread ≠ n.val) →
    s.openOf e.val n.val = some o →
    resolveAddr (.solver e n) (s.thread (ThreadId.solver e n).key).bases (s.refreshStatus j r.toNat) = some a →
    s.access j ⟨6, e.val⟩ true true (a + 64 * e.val) 64 = .ok → State.plainPlace (a + 64 * e.val) → s.untraced h →
    Completes (.svEnd (.solver e n) h r) s fun u =>
      let x := a + 64 * e.val
      s.advanced (.solver e n) 1 u ∧ u.openOf e.val n.val = none ∧
      u.rdNat x 4 = o.occ % 2 ^ 32 ∧ u.rdNat (x + 4) 2 = o.abandoned % 65536 ∧ u.rdNat (x + 6) 2 = o.committed % 65536 ∧
      u.rdNat (x + 8) 2 = o.overflow % 65536 ∧ u.rdNat (x + 10) 2 = o.highres % 65536 ∧
      u.rdNat (x + 12) 4 = o.small % 2 ^ 32 ∧ u.rdNat (x + 16) 4 = o.zero % 2 ^ 32 ∧ u.rdNat (x + 20) 4 = o.maxResid.toNat ∧
      u.rdNat (x + 24) 8 = s.beat.pos.toNat ∧ u.rdNat (x + 32) 32 = 0 ∧ s.keepsBut u [(x, 64)]) ∧
  (∀ (s : State) (e : Sys2Proof.Engine) (n : Fin 2) (h : CmdHead) (j : Job) (r : W16), s.issuing (.solver e n) 0x22 4 h true j →
    r.toNat < 256 →
    Completes (.svEnd (.solver e n) h r) s fun u =>
      let busy := ∃ x, (s.slvEngine e.val).op = some x ∧ x.thread = n.val
      let at_ := resolveAddr (.solver e n) (s.thread (ThreadId.solver e n).key).bases (s.refreshStatus j r.toNat)
      (busy → (u.thread (ThreadId.solver e n).key).st = .waitOrder ∧ u.solver = s.solver ∧ u.mem = s.mem) ∧
      (¬ busy → s.openOf e.val n.val = none ∨ at_ = none → State.haltedWith (.solver e n) j 0x1113 u ∧ u.mem = s.mem) ∧
      (∀ a c, ¬ busy → s.openOf e.val n.val ≠ none → at_ = some a →
        s.access j ⟨6, e.val⟩ true true (a + 64 * e.val) 64 = .bad c → State.asked c = false →
        State.haltedWith (.solver e n) j c u ∧ u.mem = s.mem) ∧
      (∀ a, ¬ busy → s.openOf e.val n.val ≠ none → at_ = some a →
        s.access j ⟨6, e.val⟩ true true (a + 64 * e.val) 64 = .wait →
        (u.thread (ThreadId.solver e n).key).st = .waitData ∧ u.solver = s.solver ∧ u.mem = s.mem)) ∧
  (∀ (s : State) (d : DescHead) (hd : W32) (r : W16), s.takes d 3 1 →
    Completes (.solver d hd r) s fun u =>
      (∀ j, s.jobFor d.port.val hd = some j → r.toNat < j.image.solverCount → s.refreshLaunch j r.toNat = 1 →
        s.answeredWith d 0 u ∧ u.mem = s.mem ∧
        ∀ x ∈ (List.range 4).flatMap (fun y => s.refreshOn j r.toNat y),
          mget u.solver.launches (State.launchKey hd x r.toNat) 0 = mget s.solver.launches (State.launchKey hd x r.toNat) 0 + 1) ∧
      ((∀ j, s.jobFor d.port.val hd = some j → j.image.solverCount ≤ r.toNat ∨ s.refreshLaunch j r.toNat ≠ 1) →
        s.answeredWith d 0x1102 u ∧ u.mem = s.mem ∧ u.solver = s.solver))

/-- Each solver operation stages what its rule computes from its inputs, and writes no byte outside its WORK; one
whose inputs or pattern fail halts its thread; a row that the engine does not run changes nothing (R263, R266 to
R274, R281, R285). At the end of a step a staged generation becomes current in the buffer that was not, under the
next number, and a result without a slot goes to its destination; an overflow or a residual above RES_MAX discards
it and CUR stays; an abandoned operation ends; an unfinished one goes on. SLOT_INIT leaves a slot without a
generation (R256, R275 to R277, R282). A result longer than its buffer ends at the buffer's end, the model's
choice (notes/assumptions/24). A chunk of a borrowed tile fills the lent banks and gives the array back; engines
that borrow one tile take turns, the model's reading (notes/assumptions/24). A pin latches what its slot has and
is let go; only a list of the job that holds the engine writes it (R257, R278). -/
def Obligations.SolverOperationsAndGenerations : Prop :=
  (∀ (s : State) (e : Sys2Proof.Engine),
    ∀ c ∈ ([(1, .chol e, State.computeFactor), (2, .ldlt e, State.computeFactor),
      (3, .trsv e, fun s j r => s.computeSolve j r 1), (4, .trsm e, fun s j r => s.computeSolve j r r.mh),
      (5, .invRoot e, State.computeRoot), (6, .inv e, State.computeRoot), (7, .eigbasis e, State.computeRoot),
      (8, .solveLs e, fun s _ r => s.computeLs r), (14, .slotLoad e, fun s _ r => s.computeLoad r),
      (15, .slotInit e, fun s _ r => s.computeInit r)] : List (Nat × Instr × (State → Job → SlvRec → State.SlvOut))),
    Completes c.2.1 s fun u =>
      (∀ (o : SlvOp) (j : Job), s.works e.val o j → o.r.op = c.1 → o.staged = false →
        (s.checkAll j ⟨6, e.val⟩ (s.readExtents j o.r)).1 = .ok → s.patternFault j o.r = none →
        let y := c.2.2 s j o.r
        (u.slvEngine e.val).op = some { o with staged := true, iter := o.r.iters, overflow := y.overflows o.r.sparse
                                               resid := y.resid, sigma := y.sigma, result := y.segs } ∧
        (∀ q ∈ (s.slvEngine e.val).opens, q.thread = o.thread →
          { q with small := q.small + y.small, zero := q.zero + y.zero, maxResid := State.worse q.maxResid y.resid }
            ∈ (u.slvEngine e.val).opens) ∧
        s.keepsBut u [(o.r.work, State.workBytes o.r)]) ∧
      (∀ (o : SlvOp) (j : Job) (n : Fin 2) (code : W16), s.works e.val o j → o.r.op = c.1 → o.staged = false → o.thread = n.val →
        State.asked code = false →
        ((s.checkAll j ⟨6, e.val⟩ (s.readExtents j o.r)).1 = .bad code ∨
          (s.checkAll j ⟨6, e.val⟩ (s.readExtents j o.r)).1 = .ok ∧ s.patternFault j o.r = some code) →
        State.haltedWith (.solver e n) j code u ∧ u.mem = s.mem) ∧
      (∀ (o : SlvOp) (j : Job), s.works e.val o j → o.r.op = c.1 → o.staged = false →
        (s.checkAll j ⟨6, e.val⟩ (s.readExtents j o.r)).1 = .wait → u.solver = s.solver ∧ u.mem = s.mem) ∧
      ((s.slvEngine e.val).op = none → u = s) ∧
      (∀ o, (s.slvEngine e.val).op = some o → (o.r.op ≠ c.1 ∨ o.staged = true ∨ s.stepsRun = false ∨
        ∀ j, s.findJob (s.thread (State.svKey e.val o.thread)).job = some j → State.opLives j o = false) → u = s)) ∧
  (∀ (s : State) (e : Sys2Proof.Engine) (o : SlvOp) (j : Job) (q : OpenOcc), s.works e.val o j →
    s.openOf e.val o.thread = some q → q.abandoned = 0 → o.staged = true → o.overflow = false → State.residOk o = true →
    (s.checkAll j ⟨6, e.val⟩ [(o.r.out, s.outBytes j o.r, true)]).1 = .ok →
    Completes (.solverStepEnd e) s fun u =>
      let slot := o.r.out
      let size := State.slotBytes o.r.n o.r.op
      let b := slot + 4096 + o.buf * size
      let gen := (s.curGen slot + 1) % 65536
      (u.slvEngine e.val).op = none ∧ (∀ x ∈ u.solver.holds, x.2 ≠ e.val) ∧
      (∃ p ∈ (u.slvEngine e.val).opens, p.thread = q.thread ∧ p.committed = q.committed + 1) ∧
      (o.r.outslot = true → o.r.op ≠ 15 → o.buf ≤ 1 →
        u.curGen slot = gen ∧ u.curBuf slot = o.buf ∧ u.curValid slot = true ∧ u.curGuard slot = true ∧
        u.rdNat (slot + 8) 8 = s.beat.pos.toNat ∧ u.rdNat (slot + 20) 4 = o.r.lambda.toNat ∧
        (∀ v, o.sigma = some v → u.rdNat (slot + 16) 4 = v.toNat) ∧ (∀ v, o.resid = some v → u.rdNat (slot + 24) 4 = v.toNat) ∧
        u.rdNat (slot + 30) 1 = o.r.op % 256 ∧ u.rdNat (slot + 32) 2 = 0 ∧ u.rdNat (slot + 34) 2 = gen ∧
        (∀ pre off ws, o.result = pre ++ [(off, ws)] → off + 4 * ws.length ≤ size →
          ∀ i, i < ws.length → u.rdNat (b + off + 4 * i) 4 = (ws.getD i 0).toNat) ∧
        s.keepsBut u [(slot, 64), (b, size)]) ∧
      (o.r.op = 15 →
        u.curGen slot = 0 ∧ u.curValid slot = false ∧ u.curGuard slot = true ∧ u.slotN slot = o.r.n % 65536 ∧
        s.keepsBut u [(slot, 64)]) ∧
      (∀ ws, o.r.outslot = false → o.r.op ≠ 15 → o.result = [(0, ws)] → State.plainPlace slot →
        (∀ i, i < ws.length → u.rdNat (slot + 4 * i) 4 = (ws.getD i 0).toNat) ∧ s.keepsBut u [(slot, 4 * ws.length)])) ∧
  (∀ (s : State) (e : Sys2Proof.Engine) (o : SlvOp) (j : Job) (q : OpenOcc), s.works e.val o j →
    s.openOf e.val o.thread = some q → q.abandoned = 0 → o.staged = true → (o.overflow = true ∨ State.residOk o = false) →
    Completes (.solverStepEnd e) s fun u =>
      let slot := o.r.out
      (u.slvEngine e.val).op = none ∧ u.rdNat slot 8 = s.rdNat slot 8 ∧
      (o.r.outslot = true → u.rdNat (slot + 32) 2 = (if o.overflow then 0x2303 else 0x2304) ∧
        u.rdNat (slot + 34) 2 = (if o.r.op = 15 then 0 else (s.curGen slot + 1) % 65536) ∧ s.keepsBut u [(slot + 32, 4)]) ∧
      (o.r.outslot = false → u.mem = s.mem) ∧
      (∃ p ∈ (u.slvEngine e.val).opens, p.thread = q.thread ∧ p.committed = q.committed ∧
        p.overflow = q.overflow + (if o.overflow then 1 else 0) ∧ p.highres = q.highres + (if o.overflow then 0 else 1))) ∧
  (∀ (s : State) (e : Sys2Proof.Engine) (o : SlvOp) (j : Job) (q : OpenOcc), s.works e.val o j →
    s.openOf e.val o.thread = some q → q.abandoned = 0 → o.staged = false →
    Completes (.solverStepEnd e) s fun u =>
      (u.slvEngine e.val).op = some { o with steps := o.steps + 1 } ∧ u.mem = s.mem) ∧
  (∀ (s : State) (e : Sys2Proof.Engine) (o : SlvOp) (j : Job) (q : OpenOcc), s.works e.val o j →
    s.openOf e.val o.thread = some q → q.abandoned ≠ 0 →
    Completes (.solverStepEnd e) s fun u =>
      (u.slvEngine e.val).op = none ∧
      (o.r.outslot = true → u.rdNat (o.r.out + 32) 2 = q.abandoned % 65536 ∧ s.keepsBut u [(o.r.out + 32, 4)]) ∧
      (o.r.outslot = false → u.mem = s.mem) ∧
      ((s.thread (State.svKey e.val o.thread)).st ≠ .free ∧ (s.thread (State.svKey e.val o.thread)).st ≠ .halted ∧
        (s.thread (State.svKey e.val o.thread)).st ≠ .done →
        (u.thread (State.svKey e.val o.thread)).pc =
          u.findEnd (j.image.bytes / 32 + 1) j.image.base (s.thread (State.svKey e.val o.thread)).pc)) ∧
  (∀ (s : State) (e : Sys2Proof.Engine) (o : SlvOp) (j : Job) (q : OpenOcc) (n : Fin 2) (c : W16), s.works e.val o j →
    s.openOf e.val o.thread = some q → q.abandoned = 0 → o.staged = true → o.overflow = false → State.residOk o = true →
    (s.checkAll j ⟨6, e.val⟩ [(o.r.out, s.outBytes j o.r, true)]).1 = .bad c → State.asked c = false → o.thread = n.val →
    Completes (.solverStepEnd e) s fun u =>
      State.haltedWith (.solver e n) j c u ∧ (u.slvEngine e.val).op = none ∧ u.mem = s.mem) ∧
  (∀ (s : State) (e : Sys2Proof.Engine), ((s.slvEngine e.val).op = none ∨ s.stepsRun = false) →
    Completes (.solverStepEnd e) s fun u => u = s) ∧
  (∀ (s : State) (e : Sys2Proof.Engine) (o : SlvOp), (s.slvEngine e.val).op = some o → s.stepsRun = true →
    (∀ j, s.findJob (s.thread (State.svKey e.val o.thread)).job = some j → State.opLives j o = false) →
    Completes (.solverStepEnd e) s fun u => (u.slvEngine e.val).op = none ∧ u.mem = s.mem) ∧
  (∀ (s : State) (e : Sys2Proof.Engine) (t : Tile) (o : SlvOp) (j : Job) (rest : List Nat), (s.slvEngine e.val).op = some o →
    s.findJob (s.thread (State.svKey e.val o.thread)).job = some j →
    mfind s.matrix.holder t.val = some 4 → mget s.matrix.borrowed t.val [] = e.val :: rest → t.val ∈ o.tiles →
    s.power.st = 0 → s.power.warn = false →
    Completes (.borrowedChunk e t) s fun u =>
      let lent := ((List.range 16).filter (fun b => bit o.r.lend b)).map (fun b => (bankAddr (t.val * 16 + b), bankSize (t.val * 16 + b)))
      let acc := (s.checkAll j ⟨6, e.val⟩ (lent.map (fun x => (x.1, x.2, true)))).1
      (acc = .ok → mfind u.matrix.holder t.val = none ∧ mget u.matrix.last t.val 0 = 4 ∧
        mget u.matrix.borrowed t.val [] = rest ++ [e.val] ∧ s.keepsBut u lent) ∧
      (acc = .wait → u.matrix = s.matrix ∧ u.mem = s.mem) ∧
      (∀ c (n : Fin 2), acc = .bad c → State.asked c = false → o.thread = n.val → j.st = .running →
        State.haltedWith (.solver e n) j c u ∧ mfind u.matrix.holder t.val ≠ some 4 ∧ u.mem = s.mem)) ∧
  (∀ (s : State) (e : Sys2Proof.Engine) (t : Tile),
    (mfind s.matrix.holder t.val ≠ some 4 ∨ (mget s.matrix.borrowed t.val []).head? ≠ some e.val ∨ s.power.st ≠ 0 ∨
      s.power.warn = true ∨ ∀ o, (s.slvEngine e.val).op = some o → t.val ∉ o.tiles) →
    Completes (.borrowedChunk e t) s fun u => u = s) ∧
  (∀ (s : State) (t : ThreadId) (j : Job) (d : Die) (i : Fin 256) (value : W64), (s.thread t.key).st = .ready →
    s.findJob (s.thread t.key).job = some j → j.st = .running → s.issues t = true →
    Completes (.pinWrite (.list t) d i value) s fun u =>
      let slot := bits value.toNat 47 12 * 4096
      let held := j.engines.contains (4 * d.val + i.val / 64)
      let on := bit value.toNat 0
      let reads := (s.channelAcc slot 64).andThen (if s.poisonStack slot 64 then .bad 0x3211 else .ok)
      u.mem = s.mem ∧
      (held = false → State.haltedWith t j 0x1114 u ∧ u.reg (Regs.pin d.val i.val) = s.reg (Regs.pin d.val i.val)) ∧
      (held = true → on = false → u.flag (Regs.pin d.val i.val) 0 = false) ∧
      (held = true → on = true → s.absoluteOk j slot 4096 = false → State.haltedWith t j 0x2322 u) ∧
      (∀ c, held = true → on = true → s.absoluteOk j slot 4096 = true → reads = .bad c → State.asked c = false →
        State.haltedWith t j c u) ∧
      (held = true → on = true → s.absoluteOk j slot 4096 = true → reads = .ok → s.curGuard slot = false →
        State.haltedWith t j 0x8010 u) ∧
      (held = true → on = true → s.absoluteOk j slot 4096 = true → reads = .ok → s.curGuard slot = true →
        u.flag (Regs.pin d.val i.val) 0 = true ∧ u.pinSlot d.val i.val = slot ∧
        u.flag (Regs.pin d.val i.val) 1 = !s.curValid slot ∧
        u.field (Regs.pin d.val i.val) 63 48 = s.curGen slot ∧ u.pinBuf d.val i.val = s.curBuf slot)) ∧
  (∀ (s : State) (src : Src) (d : Die) (i : Fin 256) (value : W64), s.writesNow src →
    s.domainOn (Regs.pin d.val i.val) = true →
    Completes (.pinWrite src d i value) s fun u =>
      u.reg (Regs.pin d.val i.val) = s.reg (Regs.pin d.val i.val) ∧ u.lastLog = some 0x1106 ∧ u.mem = s.mem)

/-! ### The group links -/

/-- A port trains when it detects its partner or retries, says HELLO when trained, comes UP when discovery succeeds at
both ends, and is ISOLATED or FAILED where it does not; what comes in another state of the port does nothing (R296
to R301). A failed lane goes to the spare, or the port retrains on four good lanes or fails; PORT_CTRL disables
and enables a port and RETRAIN takes it DOWN with its failure count cleared; a port whose partner is silent
departs (R296, R299, R304, R311, R312). That a lane 8 which fails before it is used leaves the port UP is the
model's reading (notes/assumptions/45). -/
def Obligations.LinksTrainFailAndReturn : Prop :=
  (∀ (s : State) (p : GPort),
    Completes (.signalDetect p) s fun u =>
      let go := s.linksOn = true ∧ (s.link p.val).st = .down ∧ (s.link p.val).trainFails = 0
      (go → (u.link p.val).st = .train ∧ (∀ q, q ≠ p.val → u.link q = s.link q) ∧ u.mem = s.mem ∧ u.setup = s.setup) ∧
      (¬ go → u = s)) ∧
  (∀ (s : State) (p : GPort),
    Completes (.trainRetry p) s fun u =>
      let go := s.linksOn = true ∧ (s.link p.val).st = .down ∧ (s.link p.val).trainFails ≠ 0
      (go → (u.link p.val).st = .train ∧ (∀ q, q ≠ p.val → u.link q = s.link q) ∧ u.mem = s.mem ∧ u.setup = s.setup) ∧
      (¬ go → u = s)) ∧
  (∀ (s : State) (p : GPort) (w : Bool) (l : W16), s.linksOn = true → (s.link p.val).st = .train →
    Completes (.trainingComplete p w l) s fun u =>
      (u.link p.val).st = .hello ∧ (u.link p.val).width4 = w ∧ (u.link p.val).latency = l.toNat ∧
      (w = false → (u.link p.val).good =
        if (s.link p.val).spareUsed then 0x1FF - 2 ^ (s.link p.val).badLane % 0x200 else 0x1FF) ∧
      (w = true → (u.link p.val).good = (s.link p.val).good ∧ Output.report 0x4107 (0x400 + p.val) ∈ u.sent) ∧
      (∃ x, Output.hello p.val x ∈ u.sent ∧ x.sysId = s.fabric.sysId ∧ x.group = s.fabric.group ∧ x.slot = s.fabric.slot ∧
        x.port = p.val ∧ x.width = (if w then 4 else 8)) ∧
      (∀ q, q ≠ p.val → u.link q = s.link q)) ∧
  (∀ (s : State) (p : GPort) (w : Bool) (l : W16), (s.linksOn = false ∨ (s.link p.val).st ≠ .train) →
    Completes (.trainingComplete p w l) s fun u => u = s) ∧
  (∀ (s : State) (p : GPort), ((s.link p.val).st = .train ∨ (s.link p.val).st = .hello) →
    Completes (.trainFail p) s fun u =>
      (u.link p.val).trainFails = (s.link p.val).trainFails + 1 ∧
      ((s.link p.val).trainFails < 2 → (u.link p.val).st = .down) ∧
      (2 ≤ (s.link p.val).trainFails → (u.link p.val).st = .failed ∧ Output.report 0x4101 (0x400 + p.val) ∈ u.sent)) ∧
  (∀ (s : State) (p : GPort), (s.link p.val).st ≠ .train → (s.link p.val).st ≠ .hello →
    Completes (.trainFail p) s fun u => u = s) ∧
  (∀ (s : State) (p : GPort) (i : HelloInfo), s.linksOn = true → (s.link p.val).st = .hello →
    Completes (.hello p i) s fun u =>
      (s.helloCheck p.val i = none → i.confirmed = true →
        (u.link p.val).st = .up ∧ (u.link p.val).peerSlot = i.slot.val ∧ (u.link p.val).peerGroup = i.group.toNat ∧
        (u.link p.val).peerSerial = i.serial ∧ (u.link p.val).trainFails = 0 ∧ (u.link p.val).rxSeq = 0) ∧
      (s.helloCheck p.val i = none → i.confirmed = false → ∀ q, u.link q = s.link q) ∧
      (∀ c, s.helloCheck p.val i = some c →
        (u.link p.val).st = .isolated ∧ Output.report c (0x400 + p.val) ∈ u.sent)) ∧
  (∀ (s : State) (p : GPort) (i : HelloInfo), (s.linksOn = false ∨ (s.link p.val).st ≠ .hello) →
    Completes (.hello p i) s fun u => u = s) ∧
  (∀ (s : State) (p : GPort),
    Completes (.helloTimeout p) s fun u =>
      ((s.link p.val).st = .hello →
        (u.link p.val).st = .isolated ∧ (∀ q, q ≠ p.val → u.link q = s.link q) ∧ u.mem = s.mem) ∧
      ((s.link p.val).st ≠ .hello → u = s)) ∧
  (∀ (s : State) (p : GPort) (lane : Fin 9), s.linksOn = true → ((s.link p.val).st = .up ∨ (s.link p.val).st = .swap) →
    bit (s.link p.val).good lane.val = true →
    Completes (.laneCheckFail p lane) s fun u =>
      let l := s.link p.val
      let unused := lane.val = 8 ∧ l.spareUsed = false ∧ l.st = .up
      let swaps := lane.val < 8 ∧ l.spareUsed = false ∧ l.st = .up ∧ bit l.good 8 = true ∧
        s.flag (Regs.portCtrl p.val) 2 = true
      (u.link p.val).good = l.good - 2 ^ lane.val ∧ u.mem = s.mem ∧
      (unused → (u.link p.val).st = .up ∧ (∀ q, q ≠ p.val → u.link q = s.link q)) ∧
      (swaps → (u.link p.val).st = .swap ∧ (u.link p.val).badLane = lane.val ∧ (∀ q, q ≠ p.val → u.link q = s.link q)) ∧
      (¬ unused → ¬ swaps →
        (u.link p.val).st = (if State.goodLanes (l.good - 2 ^ lane.val) (l.spareUsed || l.st == .swap) < 4 then .failed
          else .train))) ∧
  (∀ (s : State) (p : GPort) (lane : Fin 9), (s.linksOn = false ∨ (s.link p.val).st ≠ .up ∧ (s.link p.val).st ≠ .swap ∨
      bit (s.link p.val).good lane.val = false) →
    Completes (.laneCheckFail p lane) s fun u => u = s) ∧
  (∀ (s : State) (p : GPort),
    Completes (.swapDone p) s fun u =>
      (s.linksOn = true → (s.link p.val).st = .swap →
        (u.link p.val).st = .up ∧ (u.link p.val).spareUsed = true ∧ Output.report 0x4106 (0x400 + p.val) ∈ u.sent) ∧
      (s.linksOn = false ∨ (s.link p.val).st ≠ .swap → u = s)) ∧
  (∀ (s : State) (p : GPort),
    Completes (.partnerDeparted p) s fun u =>
      (s.linksOn = true → (s.link p.val).st = .up →
        (u.link p.val).st = .down ∧ (u.link p.val).peerUp = 0 ∧ (u.link p.val).departed = true ∧
        Output.report 0x4104 (0x400 + p.val) ∈ u.sent) ∧
      (s.linksOn = false ∨ (s.link p.val).st ≠ .up → u = s)) ∧
  (∀ (s : State) (src : Src) (p : FPort) (value : W32), s.writesNow src → bit value.toNat 1 = false →
    Completes (.portEnWrite src p value) s fun u =>
      u.regNat (Regs.portCtrl p.val) = value.toNat &&& 5 ∧ u.mem = s.mem ∧
      (p.val < 7 → bit value.toNat 0 = false → (u.link p.val).st = .disabled) ∧
      (p.val < 7 → bit value.toNat 0 = true → (s.link p.val).st = .disabled → (u.link p.val).st = .down) ∧
      (p.val < 7 → bit value.toNat 0 = true → (s.link p.val).st ≠ .disabled → u.link p.val = s.link p.val) ∧
      (7 ≤ p.val → bit value.toNat 0 = false → mget u.fabric.eth (p.val - 7) 1 = 1) ∧
      (7 ≤ p.val → bit value.toNat 0 = true → u.fabric = s.fabric)) ∧
  (∀ (s : State) (src : Src) (p : FPort), s.writesNow src → s.flag (Regs.portCtrl p.val) 0 = true →
    Completes (.retrain src p) s fun u =>
      u.regNat (Regs.portCtrl p.val) = s.regNat (Regs.portCtrl p.val) &&& 5 ∧ u.mem = s.mem ∧
      (p.val < 7 → (u.link p.val).st = .down ∧ (u.link p.val).trainFails = 0) ∧
      (7 ≤ p.val → mget u.fabric.eth (p.val - 7) 1 = 1))

/-- A DATA flit in order is taken, acknowledged, its buffer's credit returned and its RELAY copy forwarded where its
sender is the port's partner; one out of order or corrupt only has the last good one acknowledged again. An
acknowledgement frees what it names, and a flit of a reserved KIND or channel is counted (R290 to R294, R304).
Control flits in sequence act where their guard holds: CREDIT gives back credits up to the buffer's size,
HEARTBEAT shows the partner's ports and beat, QUENCH stops a job, WAKE and PARK change the port. One whose guard
fails is logged with its port and KIND and not acknowledged, the model's reading (notes/assumptions/45); one out
of sequence does nothing (R291 to R293, R300, R303, R340). -/
def Obligations.LinksCarryFlits : Prop :=
  (∀ (s : State) (p : GPort) (h : FlitHead), s.linksOn = true → (s.link p.val).st = .up →
    s.inSequence p.val h.toLinkHead = true → h.kind = 1 → h.vc.toNat < 6 → s.acksWell p.val h.toLinkHead →
    s.linkIdle p.val →
    Completes (.dataFlit p h none) s fun u =>
      let vc := if h.relay then relayVc h.vc.toNat else h.vc.toNat
      let own := s.fabric.slot
      let relays := h.dst.val ≠ own ∧ h.relay = true ∧ 1 ≤ h.vc.toNat ∧ h.src.val = slotOf own p.val
      (u.link p.val).rxSeq = h.seq.toNat ∧ u.mem = s.mem ∧
      (∃ f, Output.flit p.val f h.seq.toNat ∈ u.sent ∧ f.kind = 0) ∧
      (¬ relays → (∃ f, Output.flit p.val f h.seq.toNat ∈ u.sent ∧ f.kind = 2 ∧ f.value = 2 ^ (16 * vc)) ∧
        ∀ q, q ≠ p.val → u.link q = s.link q) ∧
      (relays → ∃ f ∈ (u.link (portTo own h.dst.val)).retry ++ (u.link (portTo own h.dst.val)).held,
        f.src = h.src.val ∧ f.dst = h.dst.val ∧ f.vc = h.vc.toNat ∧ f.len = h.len.toNat ∧ f.relay = true)) ∧
  (∀ (s : State) (p : GPort) (h : FlitHead) (w : Option NiWrite), s.linksOn = true → (s.link p.val).st = .up →
    s.inSequence p.val h.toLinkHead = false → h.kind ≠ 0 →
    Completes (.dataFlit p h w) s fun u =>
      (∃ f, Output.flit p.val f (s.link p.val).rxSeq ∈ u.sent ∧ f.kind = 0) ∧
      (u.link p.val).rxSeq = (s.link p.val).rxSeq ∧ (u.link p.val).retry = (s.link p.val).retry ∧
      (∀ q, q ≠ p.val → u.link q = s.link q) ∧ u.mem = s.mem ∧ u.ni = s.ni ∧ u.jobs = s.jobs ∧ u.threads = s.threads) ∧
  (∀ (s : State) (p : GPort) (h : FlitHead) (w : Option NiWrite), (s.linksOn = false ∨ (s.link p.val).st.serves = false ∨
      h.kind = 1 ∧ h.vc.toNat < 6 ∧ (s.link p.val).st ≠ .up) → Completes (.dataFlit p h w) s fun u => u = s) ∧
  (∀ (s : State) (p : GPort) (h : FlitHead) (w : Option NiWrite) (pre post : List TxFlit) (f : TxFlit), s.linksOn = true →
    (s.link p.val).st = .up → h.kind = 0 → h.crcOk = true → (s.link p.val).retry = pre ++ f :: post →
    f.seq = h.ack.toNat → (∀ x ∈ pre, x.seq ≠ f.seq) → h.ack.toNat ≠ (s.link p.val).lastAck →
    s.acksWell p.val h.toLinkHead → s.linkIdle p.val →
    Completes (.dataFlit p h w) s fun u =>
      (u.link p.val).retry = post ∧ (u.link p.val).lastAck = h.ack.toNat ∧ (u.link p.val).rxSeq = (s.link p.val).rxSeq ∧
      u.mem = s.mem) ∧
  (∀ (s : State) (p : GPort) (h : FlitHead) (w : Option NiWrite), s.linksOn = true → (s.link p.val).st.serves = true →
    (9 ≤ h.kind.toNat ∨ h.kind = 1 ∧ 6 ≤ h.vc.toNat) → s.inSequence p.val h.toLinkHead = true →
    Completes (.dataFlit p h w) s fun u =>
      (u.link p.val).errors = (s.link p.val).errors + 1 ∧ (u.link p.val).rxSeq = h.seq.toNat ∧ u.mem = s.mem ∧
      u.jobs = s.jobs ∧ u.ni = s.ni) ∧
  (∀ (s : State) (h : CtlFlit) (counts : BitVec 96), s.arrives h → s.acksWell h.port.val h.toLinkHead → s.linkIdle h.port.val →
    s.fabric.outbox = [] →
    Completes (.credit h counts (~~~counts)) s fun u =>
      let l := s.link h.port.val
      let m := u.link h.port.val
      let n := fun k => bits counts.toNat (16 * k + 15) (16 * k)
      (∀ k, k < 2 → m.credits.getD k 0 = l.credits.getD k 0 + min (fullCredits.getD k 0 - l.credits.getD k 0) (n k)) ∧
      (∀ k, 2 ≤ k → k < 6 → m.credits.getD k 0 + m.relayCredits.getD (k - 2) 0 =
        l.credits.getD k 0 + l.relayCredits.getD (k - 2) 0 +
          min (fullCredits.getD k 0 - l.credits.getD k 0 + (fullRelay.getD (k - 2) 0 - l.relayCredits.getD (k - 2) 0)) (n k)) ∧
      u.mem = s.mem) ∧
  (∀ (s : State) (h : CtlFlit) (v : W32), s.arrives h → s.acksWell h.port.val h.toLinkHead →
    Completes (.heartbeat h v (~~~v)) s fun u =>
      (u.link h.port.val).peerUp = bits v.toNat 6 0 ∧ (u.link h.port.val).peerBeat = bits v.toNat 9 7 ∧
      (u.link h.port.val).st = (s.link h.port.val).st ∧ (u.link h.port.val).rxSeq = h.seq.toNat) ∧
  (∀ (s : State) (p : GPort), s.linksOn = true → (s.link p.val).st = .up →
    Completes (.heartbeatSend p) s fun u =>
      let value := s.upMask + s.beat.mode.toNat * 128
      let free := (s.link p.val).retry.length < 256 ∧ ∀ f ∈ (s.link p.val).held, f.kind = 1
      (free → ∃ f, Output.flit p.val f (s.link p.val).rxSeq ∈ u.sent ∧ f.kind = 3 ∧ f.value = value) ∧
      (¬ free → ∃ f ∈ (u.link p.val).held, f.kind = 3 ∧ f.value = value) ∧ u.mem = s.mem) ∧
  (∀ (s : State) (p : GPort), (s.linksOn = false ∨ (s.link p.val).st ≠ .up) →
    Completes (.heartbeatSend p) s fun u => u = s) ∧
  (∀ (s : State) (h : Option CtlFlit) (id : W32), (∀ x, h = some x → s.arrives x) → (h = none → s.linksOn = true) →
    Completes (.quenchFlit h id (~~~id)) s fun u =>
      u.mem = s.mem ∧ (s.findJobId id = none → u.jobs = s.jobs ∧ u.threads = s.threads) ∧
      (∀ j, s.findJobId id = some j → s.findJob j.handle = some j → j.st = .running → s.threadsDone j = false →
        State.quenchedBy j 0x1401 u)) ∧
  (∀ (s : State) (h : CtlFlit) (v : W32), s.arrives h → s.acksWell h.port.val h.toLinkHead →
    Completes (.wakeFlit h v (~~~v)) s fun u =>
      let wakes := bit v.toNat 0 = true ∧ (s.link h.port.val).st = .parked
      (wakes → (u.link h.port.val).st = .up) ∧
      (¬ wakes → (u.link h.port.val).st = (s.link h.port.val).st ∧ u.power = s.power) ∧
      (wakes → s.power.st = 2 → s.wakeEnabled 5 = true → s.power.leak = false → u.power.st = 5 ∧ u.power.lastWake = 5)) ∧
  (∀ (s : State) (h : CtlFlit) (v : W32), s.arrives h → s.acksWell h.port.val h.toLinkHead →
    Completes (.park h v (~~~v)) s fun u =>
      (u.link h.port.val).st = (if bit v.toNat 0 = false ∧ (s.link h.port.val).st = .up then .parked
        else (s.link h.port.val).st) ∧ u.mem = s.mem) ∧
  (∀ (s : State) (h : CtlFlit) (v c : W32) (w d : W64) (iv : BitVec 48) (x y : BitVec 96), s.arrives h → c ≠ ~~~v → d ≠ ~~~w →
    y ≠ ~~~x →
    ∀ i ∈ [(2, Instr.credit h x y), (3, .heartbeat h v c), (4, .beatMarker h w d iv), (5, .quenchFlit (some h) v c),
      (6, .wakeFlit h v c), (7, .park h v c)],
    Completes i.2 s fun u =>
      (∃ r, u.obs.log.head? = some r ∧ r.code = 0x8010 ∧
        r.detail = BitVec.ofNat 64 (guardDetail 5 h.port.val + i.1 * 2 ^ 40)) ∧
      (u.link h.port.val).rxSeq = (s.link h.port.val).rxSeq ∧ (u.link h.port.val).st = (s.link h.port.val).st ∧
      (u.link h.port.val).credits = (s.link h.port.val).credits ∧
      u.jobs = s.jobs ∧ u.threads = s.threads ∧ u.power = s.power ∧ u.beat = s.beat ∧ u.mem = s.mem) ∧
  (∀ (s : State) (h : CtlFlit) (v c : W32) (w d : W64) (iv : BitVec 48) (x y : BitVec 96), s.linksOn = true →
    (s.link h.port.val).st.serves = true → s.inSequence h.port.val h.toLinkHead = false →
    ∀ i ∈ [Instr.credit h x y, .heartbeat h v c, .beatMarker h w d iv, .quenchFlit (some h) v c, .wakeFlit h v c, .park h v c],
    Completes i s fun u =>
      (∃ f, Output.flit h.port.val f (s.link h.port.val).rxSeq ∈ u.sent ∧ f.kind = 0) ∧
      (u.link h.port.val).rxSeq = (s.link h.port.val).rxSeq ∧ (u.link h.port.val).st = (s.link h.port.val).st ∧
      (u.link h.port.val).credits = (s.link h.port.val).credits ∧
      u.jobs = s.jobs ∧ u.threads = s.threads ∧ u.power = s.power ∧ u.beat = s.beat ∧ u.mem = s.mem) ∧
  (∀ (s : State) (h : CtlFlit) (v c : W32) (w d : W64) (iv : BitVec 48) (x y : BitVec 96),
    (s.linksOn = false ∨ (s.link h.port.val).st.serves = false) →
    ∀ i ∈ [Instr.credit h x y, .heartbeat h v c, .beatMarker h w d iv, .quenchFlit (some h) v c, .wakeFlit h v c, .park h v c],
    Completes i s fun u => u = s) ∧
  (∀ (s : State) (v c : W32), s.linksOn = true → c ≠ ~~~v →
    Completes (.quenchFlit none v c) s fun u =>
      u.lastLog = some 0x8010 ∧ u.jobs = s.jobs ∧ u.threads = s.threads ∧ u.mem = s.mem) ∧
  (∀ (s : State) (v c : W32), s.linksOn = false → Completes (.quenchFlit none v c) s fun u => u = s)

/-- A request from another module reads or writes stacked memory with the tag of the job it names, or is refused and
touches nothing (R307). A write that arrives from another module for a collective of a running job lands whole, or
as FP32 values in its slot, added where it adds, and adds RVAL to its counter; it waits for a bank that becomes ON
and is refused outside the claim and the interface's banks; for a job that the module does not run it is discarded
(R330, R332, R334, R337, R340). -/
def Obligations.RemoteDataIsCheckedAndLands : Prop :=
  (∀ (s : State) (p : FPort) (id : W32) (wr : Bool) (a : W64) (n : W32) (data : List Byte), s.carries p.val →
    Completes (.remoteAccess p id wr a n data) s fun u =>
      let who := if p.val < 7 then s.fabric.group * 8 + (s.link p.val).peerSlot else 0xFFFF
      let len := if wr then data.length else n.toNat
      let allowed := ∃ j, s.findJobId id = some j ∧ j.live = true ∧ 0 < len ∧ (∃ x o, placeOf a.toNat = .stack x o) ∧
        (∀ x ∈ pieces a.toNat len, s.regionAcc j.block.tag.toNat false wr x.1 x.2 = .ok) ∧
        s.channelAcc a.toNat len = .ok ∧ (wr = false → s.poisonStack a.toNat len = false)
      (allowed → wr = true → u.rd a.toNat len = data ∧ s.keepsBut u [(a.toNat, len)] ∧
        Output.message who kData id 0 0 [] ∈ u.sent) ∧
      (allowed → wr = false → Output.message who kData id 0 0 (s.rd a.toNat len) ∈ u.sent ∧ u.mem = s.mem) ∧
      (¬ allowed → Output.message who kRemoteDenied id 0 0 [] ∈ u.sent ∧ u.mem = s.mem)) ∧
  (∀ (s : State) (p : FPort) (id : W32) (wr : Bool) (a : W64) (n : W32) (data : List Byte), ¬ s.carries p.val →
    Completes (.remoteAccess p id wr a n data) s fun u => u = s) ∧
  (∀ (s : State) (w : NiWrite) (j : Job) (ki n y : Nat), s.arriving w j ki n y →
    (fmtMx (State.arrivedFmt w) = true → (State.arrivedData w).length = rowBytes (State.arrivedFmt w) n + blocksOf n) →
    s.landsOk j w.key w.round.toNat y (State.landBytes (slotForm w.dst) (State.arrivedFmt w) n) false w.die.val →
    (w.rctr.toNat = noCounter ∨ s.countsAt j (dieOf y w.die.val) w.rctr.toNat) →
    State.apart (dieOf y w.die.val) w.rctr.toNat y (State.landLen (State.landBytes (slotForm w.dst) (State.arrivedFmt w) n) y) →
    let u := s.landWrite w
    s.landedAs u (slotForm w.dst) w.reduce (State.arrivedFmt w) n y (State.arrivedData w) ∧
    s.counted u (dieOf y w.die.val) w.rctr.toNat w.rval.toNat ∧
    s.keepsBut u ((y, State.landLen (State.landBytes (slotForm w.dst) (State.arrivedFmt w) n) y) ::
      State.counterAt (dieOf y w.die.val) w.rctr.toNat)) ∧
  (∀ (s : State) (w : NiWrite) (j : Job) (ki n y m : Nat), s.arriving w j ki n y →
    m = State.landBytes (slotForm w.dst) (State.arrivedFmt w) n →
    let u := s.landWrite w
    let here := (pieces y m).all (fun x => s.landsHere j w.key w.round.toNat x.1)
    (here = false → State.quenchedBy j 0x3106 u ∧ u.mem = s.mem) ∧
    (here = true → ∀ c, s.access j ⟨4, dieOf y w.die.val⟩ true false y m = .bad c → State.asked c = false →
      State.quenchedBy j c u ∧ u.mem = s.mem) ∧
    (here = true → s.access j ⟨4, dieOf y w.die.val⟩ true false y m = .wait →
      u.ni.arrivals = s.ni.arrivals ++ [w] ∧ u.mem = s.mem ∧ u.jobs = s.jobs)) ∧
  (∀ (s : State) (w : NiWrite) (j : Job), s.findJobId w.jobId = some j → s.findJob j.handle = some j → j.st = .running →
    w.served = false →
    let u := s.landWrite w
    (s.keyIndex j w.key = none → State.quenchedBy j 0x3106 u ∧ u.mem = s.mem) ∧
    (∀ ki, s.keyBroken j w.key = some ki → State.quenchedBy j 0x8010 u ∧ u.mem = s.mem)) ∧
  (∀ (s : State) (w : NiWrite), (∀ j, s.findJobId w.jobId = some j → j.st ≠ .running) →
    let u := s.landWrite w
    u.mem = s.mem ∧ u.jobs = s.jobs ∧ u.ni = s.ni ∧ u.threads = s.threads)

/-! ### Ethernet -/

/-- Queue pairs open only behind a sound exchange and close; messages land in order, early ones wait and late ones are
dropped; congestion halves a pair's rate and time restores it (R308, R309). An Ethernet port that goes down is
reported and its traffic moves to the other port; priority flow control holds one priority; a port answers a
solicitation for its own address with its MAC address (R308 to R311). -/
def Obligations.EthernetCarries : Prop :=
  (∀ (s : State) (m : W16) (i : HelloInfo),
    Completes (.qpOpen m i) s fun u =>
      let far := s.linksOn = true ∧ m.toNat / 8 ≠ s.fabric.group
      let sound := i.chainOk = true ∧ i.expiredOrReturn = false ∧ i.sigOk = true
      (¬ far → u = s) ∧
      (far → sound → i.sysId = s.fabric.sysId → i.confirmed = true →
        ∃ q, u.pairOf m.toNat = some q ∧ q.up = [true, true] ∧ q.serial = i.serial) ∧
      (far → sound → i.sysId = s.fabric.sysId → i.confirmed = false → u = s) ∧
      (far → ¬ sound → u.fabric = s.fabric ∧ u.lastLog = some 0x4102) ∧
      (far → sound → i.sysId ≠ s.fabric.sysId → u.fabric = s.fabric ∧ u.lastLog = some 0x4103)) ∧
  (∀ (s : State) (m : W16),
    Completes (.qpClose m) s fun u =>
      u.pairOf m.toNat = none ∧ u.mem = s.mem ∧
      (∀ r, r ≠ m.toNat → (u.pairOf r).map (fun q => { q with asked := true }) =
        (s.pairOf r).map (fun q => { q with asked := true }))) ∧
  (∀ (s : State) (e : EPort) (m : W16) (vc : Fin 6) (seq : W32) (q : QPair), s.linksOn = true → mget s.fabric.eth e.val 1 = 4 →
    s.pairOf m.toNat = some q → q.up.getD e.val false = true → q.rxSeq.length = 6 →
    (∀ x ∈ q.early, ¬ (x.vc = vc.val ∧ x.seq = q.rxSeq.getD vc.val 0)) →
    Completes (.ethMessage e m vc seq none) s fun u =>
      let next := q.rxSeq.getD vc.val 0
      let d := (seq.toNat + 2 ^ 32 - next % 2 ^ 32) % 2 ^ 32
      let seen := ∃ x ∈ q.early, x.vc = vc.val ∧ x.seq = next + d
      (d = 0 → ∃ r, u.pairOf m.toNat = some r ∧ next + 1 ≤ r.rxSeq.getD vc.val 0 ∧
        ((∀ x ∈ q.early, x.vc ≠ vc.val) → r.rxSeq.getD vc.val 0 = next + 1 ∧ r.early = q.early ∧ u.mem = s.mem)) ∧
      (1 ≤ d → d < 32 → ¬ seen → u.mem = s.mem ∧
        ∃ r, u.pairOf m.toNat = some r ∧ r.rxSeq = q.rxSeq ∧ r.early = ⟨vc.val, next + d, none⟩ :: q.early) ∧
      (32 ≤ d ∨ seen → u.fabric = s.fabric ∧ u.mem = s.mem)) ∧
  (∀ (s : State) (e : EPort) (m : W16) (vc : Fin 6) (seq : W32) (w : Option NiWrite),
    (s.linksOn = false ∨ mget s.fabric.eth e.val 1 ≠ 4 ∨ ∀ q, s.pairOf m.toNat = some q → q.up.getD e.val false = false) →
    Completes (.ethMessage e m vc seq w) s fun u => u = s) ∧
  (∀ (s : State) (e : EPort) (m : W16) (q : QPair), s.pairOf m.toNat = some q → q.rate.length = 2 →
    Completes (.cnpReceived e m false) s fun u =>
      ∃ r, u.pairOf m.toNat = some r ∧ r.rate.getD e.val 0 = q.rate.getD e.val 0 / 2 ∧ r.up = q.up ∧
        r.rate.getD (1 - e.val) 0 = q.rate.getD (1 - e.val) 0) ∧
  (∀ (s : State) (e : EPort) (m : W16), Completes (.cnpReceived e m true) s fun u => u = s) ∧
  (∀ (s : State) (e : EPort) (m : W16) (q : QPair), s.pairOf m.toNat = some q → q.rate.length = 2 →
    Completes (.rateRecover e m) s fun u =>
      ∃ r, u.pairOf m.toNat = some r ∧ r.rate.getD e.val 0 = min 1000000 (q.rate.getD e.val 0 + 50000) ∧ r.up = q.up ∧
        r.rate.getD (1 - e.val) 0 = q.rate.getD (1 - e.val) 0) ∧
  (∀ (s : State) (e : EPort) (m : W16) (r : Bool), s.pairOf m.toNat = none →
    ∀ i ∈ [Instr.cnpReceived e m r, .rateRecover e m, .ethRetransmit e m],
    Completes i s fun u => u.fabric = s.fabric ∧ u.mem = s.mem) ∧
  (∀ (s : State) (e : EPort),
    Completes (.ethLinkDown e) s fun u =>
      (mget s.fabric.eth e.val 1 = 4 →
        mget u.fabric.eth e.val 1 = 1 ∧ mget u.fabric.eth (1 - e.val) 1 = mget s.fabric.eth (1 - e.val) 1 ∧
        Output.report 0x4120 (0x400 + portCode (7 + e.val)) ∈ u.sent ∧ u.mem = s.mem) ∧
      (mget s.fabric.eth e.val 1 ≠ 4 → u = s)) ∧
  (∀ (s : State) (e : EPort),
    Completes (.ethLinkUp e) s fun u =>
      let ready := s.linksOn = true ∧ s.flag (Regs.portCtrl (7 + e.val)) 0 = true ∧ s.regNat Regs.ethPrefix ≠ 0
      (ready → mget u.fabric.eth e.val 1 = 4 ∧ u.mem = s.mem) ∧ (¬ ready → u = s)) ∧
  (∀ (s : State) (e : EPort) (m : W16) (q : QPair), s.pairOf m.toNat = some q →
    Completes (.ethRetransmit e m) s fun u =>
      (q.up.getD e.val false = true → ∃ r, u.pairOf m.toNat = some r ∧ r.up = q.up.set e.val false ∧ u.mem = s.mem) ∧
      (q.up.getD e.val false = false → u = s)) ∧
  (∀ (s : State) (e : EPort) (prio : Fin 8) (paused : Bool),
    Completes (.pfcPause e prio paused) s fun u =>
      let used := prio.val = s.field Regs.ethCfg 2 0 ∨ prio.val = s.field Regs.ethCfg 5 3
      (used → bit (mget u.fabric.paused e.val 0) prio.val = paused ∧ u.mem = s.mem ∧
        (∀ k, k ≠ prio.val → bit (mget u.fabric.paused e.val 0) k = bit (mget s.fabric.paused e.val 0) k)) ∧
      (¬ used → u = s)) ∧
  (∀ (s : State) (e : EPort) (a : BitVec 128),
    Completes (.neighbourSolicitation e a) s fun u =>
      let mine := mget s.fabric.eth e.val 1 = 4 ∧ a.toNat = s.ethAddress e.val
      (mine → Output.advertise e.val (s.mgmt.identity.macs.getD e.val 0) ∈ u.sent ∧ u.fabric = s.fabric ∧ u.mem = s.mem) ∧
      (¬ mine → u = s))

/-! ### Collectives -/

/-- The head of an interface's sequence starts: its records are armed, its counters read 0 and the sequence moves on;
a bad guard, a record that fails and a refused counter quench the job, and a head whose slots or launch are
missing waits; at its end an occurrence releases its claim (R318, R321, R322, R324, R327, R328). READY is recorded
once for its occurrence while its table of 8,192 has room, and one whose guard, signature or round does not match
quenches the job; a refused message is sent again, which of those sent being left open (R321, R326, R332, R340,
R341). -/
def Obligations.OccurrencesRunInTurn : Prop :=
  (∀ (s : State) (d : Die) (h : W32) (j : Job) (round ki : Nat) (k : KeyRec), s.headReady h d.val j round ki k →
    s.claimFree j k d.val = true → k.trig d.val ≤ (s.freeTrigs d.val).length →
    (∀ i, i < k.trig d.val → s.recordAcc (State.trigAt j k d.val i) 64 = none) →
    (∀ i, i < k.trig d.val → (s.trigRec (State.trigAt j k d.val i)).nheader = ~~~(s.trigRec (State.trigAt j k d.val i)).header ∧
      s.recordOk j k d.val (s.trigRec (State.trigAt j k d.val i)) = true) →
    s.countersAcc j k d.val = .ok → j.image.base + 2 ^ 33 ≤ 0x006000000000 →
    Completes (.occurrenceStart d h) s fun u =>
      (∃ o ∈ u.ni.occs, o.job = h ∧ o.die = d.val ∧ o.key = k.key ∧ o.round = round ∧ o.armed.length = k.trig d.val ∧
        o.slotFirst = k.firstSlot d.val ∧ o.slotCount = k.slots d.val ∧ o.stopped = false ∧
        ∀ a ∈ o.armed, (a.fired.isSome = true ↔ (s.trigRec (State.trigAt j k d.val a.index)).thresh = 0)) ∧
      mfind u.ni.heads (h.toNat * 4 + d.val) = some (round, ki) ∧
      (∀ i, i < k.trig d.val → u.rdNat (sharedAddr d.val (s.trigRec (State.trigAt j k d.val i)).ctr) 4 = 0) ∧
      (∀ y, (∀ i, i < k.trig d.val →
          (y < sharedAddr d.val (s.trigRec (State.trigAt j k d.val i)).ctr ∨
            sharedAddr d.val (s.trigRec (State.trigAt j k d.val i)).ctr + 4 ≤ y) ∧
          (y < sharedAddr d.val (s.trigRec (State.trigAt j k d.val i)).rctr ∨
            sharedAddr d.val (s.trigRec (State.trigAt j k d.val i)).rctr + 4 ≤ y)) → u.rd8 y = s.rd8 y)) ∧
  (∀ (s : State) (d : Die) (h : W32), (∀ j round ki, s.findJob h = some j → j.st = .running →
      (s.power.st = 0 ∨ s.power.st = 1) → s.headOcc j d.val ≠ some (round, ki)) →
    Completes (.occurrenceStart d h) s fun u => u = s) ∧
  (∀ (s : State) (d : Die) (h : W32) (j : Job) (round ki : Nat) (k : KeyRec), s.heads h d.val j round ki k → k.nkey ≠ ~~~k.key →
    Completes (.occurrenceStart d h) s fun u => State.quenchedBy j 0x8010 u ∧ u.mem = s.mem) ∧
  (∀ (s : State) (d : Die) (h : W32) (j : Job) (round ki : Nat) (k : KeyRec), s.heads h d.val j round ki k → k.nkey = ~~~k.key →
    k.firstSlot d.val + k.slots d.val ≤ j.niCount d.val → k.trig d.val ≤ j.trigCount d.val → k.launch = true →
    mget s.ni.launches ((h.toNat * 4 + d.val) * 256 + ki) 0 ≤ mget s.ni.begun ((h.toNat * 4 + d.val) * 256 + ki) 0 →
    Completes (.occurrenceStart d h) s fun u => u = s) ∧
  (∀ (s : State) (d : Die) (h : W32) (j : Job) (round ki : Nat) (k : KeyRec), s.headReady h d.val j round ki k →
    (s.claimFree j k d.val = false ∨ (s.freeTrigs d.val).length < k.trig d.val) →
    Completes (.occurrenceStart d h) s fun u =>
      u.ni.occs = s.ni.occs ∧ u.ni.heads = s.ni.heads ∧ u.mem = s.mem ∧ h.toNat * 4 + d.val ∈ u.ni.waited ∧
      (h.toNat * 4 + d.val ∈ s.ni.waited → u = s) ∧
      (h.toNat * 4 + d.val ∉ s.ni.waited → s.flag Regs.obsCtrl 0 = false →
        u.regNat (Regs.obsTotal d.val 20) = (s.regNat (Regs.obsTotal d.val 20) + 1) % 2 ^ 48)) ∧
  (∀ (s : State) (d : Die) (h : W32) (j : Job) (round ki i : Nat) (k : KeyRec), s.headReady h d.val j round ki k →
    s.claimFree j k d.val = true → k.trig d.val ≤ (s.freeTrigs d.val).length →
    (∀ i, i < k.trig d.val → s.recordAcc (State.trigAt j k d.val i) 64 = none) → i < k.trig d.val →
    Completes (.occurrenceStart d h) s fun u =>
      ((s.trigRec (State.trigAt j k d.val i)).nheader ≠ ~~~(s.trigRec (State.trigAt j k d.val i)).header →
        State.quenchedBy j 0x8010 u ∧ u.mem = s.mem) ∧
      ((∀ i, i < k.trig d.val → (s.trigRec (State.trigAt j k d.val i)).nheader = ~~~(s.trigRec (State.trigAt j k d.val i)).header) →
        s.recordOk j k d.val (s.trigRec (State.trigAt j k d.val i)) = false → State.quenchedBy j 0x4401 u ∧ u.mem = s.mem)) ∧
  (∀ (s : State) (d : Die) (h round key : W32) (o : Occ), s.occOn h d.val key round.toNat = some o →
    (o.stopped = true ∨ (o.doneFired = true ∧ ∀ a ∈ o.armed, a.fired = none ∨ a.complete = true)) →
    Completes (.occurrenceRelease d h round key) s fun u =>
      o ∉ u.ni.occs ∧ (∀ x ∈ s.ni.occs, x ≠ o → x ∈ u.ni.occs) ∧ u.mem = s.mem ∧ u.threads = s.threads) ∧
  (∀ (s : State) (d : Die) (h round key : W32),
    (∀ o, s.occOn h d.val key round.toNat = some o →
      o.stopped = false ∧ (o.doneFired = false ∨ ∃ a ∈ o.armed, a.fired ≠ none ∧ a.complete = false)) →
    Completes (.occurrenceRelease d h round key) s fun u => u = s) ∧
  (∀ (s : State) (source : W16) (id round key sig : W32) (j : Job) (ki : Nat), s.findJobId id = some j → j.st ≠ .quenching →
    s.keyIndex j key = some ki → s.keyBroken j key = none → (s.keyRec j ki).sig = sig → (s.keyRec j ki).first ≤ round.toNat →
    round.toNat < (s.keyRec j ki).first + (s.keyRec j ki).rounds →
    Completes (.ready source id round key sig) s fun u =>
      let known := ∃ e ∈ s.ni.readys, e.source = source.toNat ∧ e.jobId = id ∧ e.round = round.toNat ∧ e.key = key
      u.mem = s.mem ∧ u.jobs = s.jobs ∧ (known → u.ni = s.ni) ∧
      (¬ known → s.ni.readys.length < 8192 → u.ni = { s.ni with readys := s.ni.readys ++ [⟨source.toNat, id, round.toNat, key⟩] }) ∧
      (¬ known → 8192 ≤ s.ni.readys.length → u.ni = s.ni ∧
        (source.toNat ≠ s.moduleNo → s.canSend source.toNat 1 = true →
          Output.message source.toNat kRefused key round 0 [] ∈ u.sent))) ∧
  (∀ (s : State) (source : W16) (id round key sig : W32) (j : Job), s.findJobId id = some j → j.st = .running →
    s.findJob j.handle = some j →
    Completes (.ready source id round key sig) s fun u =>
      let bad := ∀ ki, s.keyIndex j key = some ki → (s.keyRec j ki).sig ≠ sig ∨ round.toNat < (s.keyRec j ki).first ∨
        (s.keyRec j ki).first + (s.keyRec j ki).rounds ≤ round.toNat
      (s.keyBroken j key = none → bad →
        State.quenchedBy j 0x4420 u ∧ (s.flag (Regs.niFault 0) 31 = false → u.field (Regs.niFault 0) 15 0 = 0x4420)) ∧
      (s.keyBroken j key ≠ none → State.quenchedBy j 0x8010 u)) ∧
  (∀ (s : State) (source : W16) (id round key sig : W32), (∀ j, s.findJobId id = some j → j.st = .quenching) →
    Completes (.ready source id round key sig) s fun u => u.mem = s.mem ∧ u.ni = s.ni ∧ u.jobs = s.jobs) ∧
  (∀ (s : State) (d : Die) (l : List Retry), l = s.ni.retries.filter (fun r => r.msg.die == d.val) →
    (∀ r ∈ l, r.msg.kind ≠ kQuench ∧ r.msg.remote ≠ s.moduleNo ∧ s.canSend r.msg.remote 1 = true) →
    Completes (.niRetry d) s fun u =>
      (l = [] → u = s) ∧
      (l ≠ [] → u.mem = s.mem ∧ u.ni = s.ni ∧
        ∃ r ∈ l, Output.message r.msg.remote r.msg.kind r.msg.key r.msg.round r.msg.index r.msg.data ∈ u.sent))

/-- SEND lands its values at a place of its own module or leaves for its peer, SEND_REDUCE adds to its slot, and ATOM_SEND
keeps what the receiver will not get in its error-feedback vector; each then adds RVAL to its arrival counter, waits for its
turn, its receiver and its banks, and quenches the job where an access is refused (R330, R331, R334, R337, R339, R341). -/
def Obligations.SendsLandOrLeave : Prop :=
  (∀ (s : State) (d : Die) (i : Fin 4096) (red : Bool) (o : Occ) (a : Armed) (j : Job) (r : TrigRec) (p n x y : Nat),
    s.sending (if red then 2 else 1) d.val i.val o a j r p n x → s.peerHere r = true →
    locate j (s.keyRec j o.keyIndex) d.val r.dst (State.dstBytes r) = .ok y →
    s.landsOk j o.key o.round y (State.landBytes (slotForm r.dst) r.fmtOut n)
      (dieOf y d.val == d.val) d.val →
    (r.rctr = noCounter ∨ s.countsAt j (dieOf y d.val) r.rctr) →
    State.apart (dieOf y d.val) r.rctr y (State.landLen (State.landBytes (slotForm r.dst) r.fmtOut n) y) →
    Completes (if red then .sendReduce d i else .send d i) s fun u =>
      u.actionDone d.val i.val ∧ (∃ tok, s.landedAs u (slotForm r.dst) red r.fmtOut n y (s.sentBytes tok j o r n x)) ∧
      s.counted u (dieOf y d.val) r.rctr r.rval ∧
      s.keepsBut u ((y, State.landLen (State.landBytes (slotForm r.dst) r.fmtOut n) y) :: State.counterAt (dieOf y d.val) r.rctr)) ∧
  (∀ (s : State) (d : Die) (i : Fin 4096) (red : Bool) (o : Occ) (a : Armed) (j : Job) (r : TrigRec) (p n x : Nat),
    s.sending (if red then 2 else 1) d.val i.val o a j r p n x → s.peerHere r = false →
    Completes (if red then .sendReduce d i else .send d i) s fun u =>
      u.actionDone d.val i.val ∧ u.mem = s.mem ∧
      (∃ tok, Output.write r.peer (State.sentWrite j o d.val r (s.sentBytes tok j o r n x)) ∈ u.sent) ∧
      (red = true → r.norm = true →
        (∃ tok, u.gnsLocal d.val (r.aux % 256) = State.addNorm tok (s.gnsLocal d.val (r.aux % 256))
          (wireVals r.fmtIn n (s.sourceBytes r.fmtIn n x))) ∧
        u.field (Regs.gnsB d.val (r.aux % 256)) 6 0 = min 127 (s.field (Regs.gnsB d.val (r.aux % 256)) 6 0 + 1))) ∧
  (∀ (s : State) (d : Die) (i : Fin 4096) (red : Bool) (o : Occ) (a : Armed) (j : Job) (r : TrigRec) (p n x : Nat),
    s.acting (if red then 2 else 1) d.val i.val o a j r p → n = elemsOf r.fmtIn r.bytes →
    locate j (s.keyRec j o.keyIndex) d.val r.src (extentOf r.fmtIn n) = .ok x →
    Completes (if red then .sendReduce d i else .send d i) s fun u =>
      let may := s.sendBehind d.val p r = false ∧ s.sendReadyFor j (s.keyRec j o.keyIndex) o d.val r = true
      (¬ may → u = s) ∧
      (may → ∀ c, s.niAcc j d.val x (extentOf r.fmtIn n) false = .bad c → State.asked c = false →
        State.quenchedBy j c u ∧ u.mem = s.mem) ∧
      (may → s.niAcc j d.val x (extentOf r.fmtIn n) false = .wait → u.mem = s.mem ∧ u.ni = s.ni ∧ u.jobs = s.jobs) ∧
      (may → s.niAcc j d.val x (extentOf r.fmtIn n) false = .ok → s.ownWaits j (s.keyRec j o.keyIndex) d.val r ≠ none →
        u.mem = s.mem ∧ u.ni = s.ni ∧ u.jobs = s.jobs)) ∧
  (∀ (s : State) (d : Die) (i : Fin 4096) (red : Bool) (o : Occ) (a : Armed) (j : Job) (r : TrigRec) (p n x y : Nat) (c : W16),
    s.sending (if red then 2 else 1) d.val i.val o a j r p n x → s.peerHere r = true →
    locate j (s.keyRec j o.keyIndex) d.val r.dst (State.dstBytes r) = .ok y → dieOf y d.val = d.val →
    s.access j ⟨4, d.val⟩ true true y (State.landBytes (slotForm r.dst) r.fmtOut n) = .bad c →
    State.asked c = false →
    Completes (if red then .sendReduce d i else .send d i) s fun u => State.quenchedBy j c u ∧ u.mem = s.mem) ∧
  (∀ (s : State) (d : Die) (i : Fin 4096) (o : Occ) (a : Armed) (j : Job) (r : TrigRec) (p x e : Nat),
    s.acting 6 d.val i.val o a j r p → s.sendBehind d.val p r = false →
    s.sendReadyFor j (s.keyRec j o.keyIndex) o d.val r = true → s.ownWaits j (s.keyRec j o.keyIndex) d.val r = none →
    locate j (s.keyRec j o.keyIndex) d.val r.src r.bytes = .ok x → locate j (s.keyRec j o.keyIndex) d.val r.ef r.bytes = .ok e →
    s.niAcc j d.val x r.bytes false = .ok → s.niAcc j d.val e r.bytes false = .ok → s.niAcc j d.val e r.bytes true = .ok →
    State.plainPlace e → r.bytes % 4 = 0 →
    ∃ tok enc, enc = (List.range (r.bytes / 4 / atomVals r.aux)).map (fun b => (atomEncode r.aux
        (fun q => if r.sr then Sys2Proof.Num.Round.stochastic (Sys2Proof.Num.draw j.block.seed 3 r.stream (o.round % 65536) (b * atomVals r.aux + q))
          else Sys2Proof.Num.Round.faithful (Config.freeBit tok (3 * (b * atomVals r.aux + q) + 1))) (tok + b)
        ((List.range (atomVals r.aux)).map (fun q => Sys2Proof.Num.add tok (3 * (b * atomVals r.aux + q))
          ((s.wordsAt x (r.bytes / 4)).getD (b * atomVals r.aux + q) 0)
          ((s.wordsAt e (r.bytes / 4)).getD (b * atomVals r.aux + q) 0)))).1) ∧
      (r.bytes / 4 % atomVals r.aux = 0 →
      ((s.peerHere r = false → Completes (.atomSend d i) s fun u =>
        u.actionDone d.val i.val ∧ s.keepsBut u [(e, r.bytes)] ∧
        Output.write r.peer (State.sentWrite j o d.val r enc.flatten) ∈ u.sent ∧
        (r.norm = true → u.flag (Regs.gnsB d.val (r.aux % 256)) 7 = false) ∧
        ∀ k, k < r.bytes / 4 → u.rdNat (e + 4 * k) 4 = (Sys2Proof.Num.sub tok (3 * k + 2)
          (Sys2Proof.Num.add tok (3 * k) ((s.wordsAt x (r.bytes / 4)).getD k 0) ((s.wordsAt e (r.bytes / 4)).getD k 0))
          ((atomWords r.aux enc.flatten).getD k 0)).toNat) ∧
      (∀ y, s.peerHere r = true → locate j (s.keyRec j o.keyIndex) d.val r.dst (State.dstBytes r) = .ok y →
        s.landsOk j o.key o.round y r.bytes (dieOf y d.val == d.val) d.val →
        (r.rctr = noCounter ∨ s.countsAt j (dieOf y d.val) r.rctr) → (y + State.landLen r.bytes y ≤ e ∨ e + r.bytes ≤ y) →
        State.apart (dieOf y d.val) r.rctr y (State.landLen r.bytes y) → State.apart (dieOf y d.val) r.rctr e r.bytes →
        Completes (.atomSend d i) s fun u =>
          u.actionDone d.val i.val ∧
          s.landedAs u (slotForm r.dst) true 0 (r.bytes / 4) y ((atomWords r.aux enc.flatten).flatMap (fun w => leBytes 4 w.toNat)) ∧
          s.counted u (dieOf y d.val) r.rctr r.rval ∧
          s.keepsBut u ((y, State.landLen r.bytes y) :: (e, r.bytes) :: State.counterAt (dieOf y d.val) r.rctr))))) ∧
  (∀ (s : State) (d : Die) (i : Fin 4096) (o : Occ) (a : Armed) (j : Job) (r : TrigRec) (p x e : Nat),
    s.acting 6 d.val i.val o a j r p →
    locate j (s.keyRec j o.keyIndex) d.val r.src r.bytes = .ok x → locate j (s.keyRec j o.keyIndex) d.val r.ef r.bytes = .ok e →
    Completes (.atomSend d i) s fun u =>
      let may := s.sendBehind d.val p r = false ∧ s.sendReadyFor j (s.keyRec j o.keyIndex) o d.val r = true
      let acc := (s.niAcc j d.val x r.bytes false).andThen ((s.niAcc j d.val e r.bytes false).andThen (s.niAcc j d.val e r.bytes true))
      (¬ may → u = s) ∧
      (may → ∀ c, acc = .bad c → State.asked c = false → State.quenchedBy j c u ∧ u.mem = s.mem) ∧
      (may → acc = .wait → u.mem = s.mem ∧ u.ni = s.ni ∧ u.jobs = s.jobs))

/-- An action runs only from a record that has fired and holds one of the 64 action engines of its die; SIGNAL sets flag bits,
ADD adds to its counter, NORMSQ adds a squared norm to its layer's sum, GNS_COPY stores the layer's entry and clears it, READY
goes to every other member and DONE marks its occurrence (R318, R320, R326, R327, R330, R331, R339, R341). -/
def Obligations.LocalActionsAct : Prop :=
  (∀ (s : State) (d : Die) (i : Fin 4096), ∀ x ∈ [((1 : Nat), Instr.send d i), (2, .sendReduce d i), (3, .get d i),
      (4, .trigSignal d i), (5, .add d i), (6, .atomSend d i), (7, .join d i), (8, .normsq d i), (9, .gnsCopy d i),
      (10, .trigReady d i), (15, .done d i)],
    (∀ o a j r p, ¬ s.acting x.1 d.val i.val o a j r p) → Completes x.2 s fun u => u = s) ∧
  (∀ (s : State) (d : Die) (i : Fin 4096) (o : Occ) (a : Armed) (j : Job) (r : TrigRec) (p x : Nat),
    s.acting 4 d.val i.val o a j r p → locate j (s.keyRec j o.keyIndex) d.val r.dst 4 = .ok x →
    Completes (.trigSignal d i) s fun u =>
      let acc := s.pieceAcc j ⟨4, d.val⟩ true false x 4
      (State.signalPlaceOk 0 x = true → acc = .ok →
        u.actionDone d.val i.val ∧
        u.loadNat (plainAddr x) 4 = (BitVec.ofNat 32 (s.loadNat (plainAddr x) 4) ||| BitVec.ofNat 32 r.rval).toNat ∧
        s.keepsBut u [(plainAddr x / 64 * 64, 64)] ∧ (flagPlace x → s.keepsBut u [(x, 4)])) ∧
      (State.signalPlaceOk 0 x = false → State.quenchedBy j 0x4401 u ∧ u.mem = s.mem) ∧
      (State.signalPlaceOk 0 x = true → ∀ c, acc = .bad c → State.asked c = false → State.quenchedBy j c u ∧ u.mem = s.mem) ∧
      (State.signalPlaceOk 0 x = true → acc = .wait → u.mem = s.mem ∧ u.ni = s.ni ∧ u.jobs = s.jobs)) ∧
  (∀ (s : State) (d : Die) (i : Fin 4096) (o : Occ) (a : Armed) (j : Job) (r : TrigRec) (p : Nat),
    s.acting 5 d.val i.val o a j r p →
    Completes (.add d i) s fun u =>
      let acc := s.access j ⟨4, d.val⟩ true false (sharedAddr d.val r.rctr) 4
      u.actionDone d.val i.val ∧
      (r.rctr = noCounter → u.mem = s.mem ∧ u.jobs = s.jobs) ∧
      (s.countsAt j d.val r.rctr →
        u.rdNat (sharedAddr d.val r.rctr) 4 = (s.rdNat (sharedAddr d.val r.rctr) 4 + r.rval) % 2 ^ 32 ∧
        s.keepsBut u [(sharedAddr d.val r.rctr, 4)]) ∧
      (r.rctr < 0x8000000 → r.rctr % 4 ≠ 0 → State.quenchedBy j 0x4401 u ∧ u.mem = s.mem) ∧
      (0x8000000 ≤ r.rctr → r.rctr ≠ noCounter → State.quenchedBy j 0x3102 u ∧ u.mem = s.mem) ∧
      (r.rctr < 0x8000000 → r.rctr % 4 = 0 → ∀ c, acc = .bad c → State.asked c = false →
        State.quenchedBy j c u ∧ u.mem = s.mem) ∧
      (r.rctr < 0x8000000 → r.rctr % 4 = 0 → acc = .wait →
        u.mem = s.mem ∧ u.ni.adds = s.ni.adds ++ [⟨d.val, r.rctr, r.rval, j.handle, o.key, a.index⟩])) ∧
  (∀ (s : State) (d : Die) (i : Fin 4096) (o : Occ) (a : Armed) (j : Job) (r : TrigRec) (p x : Nat),
    s.acting 8 d.val i.val o a j r p → locate j (s.keyRec j o.keyIndex) d.val r.src r.bytes = .ok x →
    Completes (.normsq d i) s fun u =>
      let acc := s.niAcc j d.val x r.bytes false
      u.mem = s.mem ∧
      (acc = .ok → u.actionDone d.val i.val ∧
        ∃ tok, u.gnsReduced d.val (r.aux % 256) =
          State.addNorm tok (s.gnsReduced d.val (r.aux % 256)) (wireVals 0 (r.bytes / 4) (s.load x r.bytes))) ∧
      (∀ c, acc = .bad c → State.asked c = false → State.quenchedBy j c u) ∧
      (acc = .wait → u.ni = s.ni ∧ u.jobs = s.jobs)) ∧
  (∀ (s : State) (d : Die) (i : Fin 4096) (o : Occ) (a : Armed) (j : Job) (r : TrigRec) (p x : Nat),
    s.acting 9 d.val i.val o a j r p → locate j (s.keyRec j o.keyIndex) d.val r.dst 16 = .ok x → State.plainPlace x →
    Completes (.gnsCopy d i) s fun u =>
      let acc := s.niAcc j d.val x 16 true
      (acc = .ok → u.actionDone d.val i.val ∧ u.rdNat x 8 = s.regNat (Regs.gnsA d.val (r.aux % 256)) ∧
        u.rdNat (x + 8) 8 = s.regNat (Regs.gnsB d.val (r.aux % 256)) ∧ s.keepsBut u [(x, 16)] ∧
        u.reg (Regs.gnsA d.val (r.aux % 256)) = 0 ∧ u.reg (Regs.gnsB d.val (r.aux % 256)) = 0x80) ∧
      (∀ c, acc = .bad c → State.asked c = false → State.quenchedBy j c u ∧ u.mem = s.mem) ∧
      (acc = .wait → u.mem = s.mem ∧ u.ni = s.ni ∧ u.jobs = s.jobs)) ∧
  (∀ (s : State) (d : Die) (i : Fin 4096) (o : Occ) (a : Armed) (j : Job) (r : TrigRec) (p : Nat),
    s.acting 10 d.val i.val o a j r p →
    Completes (.trigReady d i) s fun u =>
      let said := s.ni.readySent.contains (j.handle, o.round, (s.keyRec j o.keyIndex).key)
      u.actionDone d.val i.val ∧ u.mem = s.mem ∧ (said = true → u.sent = s.sent) ∧
      (j.handle, o.round, (s.keyRec j o.keyIndex).key) ∈ u.ni.readySent ∧
      (said = false → ∀ m ∈ s.memberList j (s.keyRec j o.keyIndex).members, m ≠ s.moduleNo → s.canSend m 1 = true →
        Output.message m kReady (s.keyRec j o.keyIndex).key (BitVec.ofNat 32 o.round) 0
          (leBytes 4 j.block.jobId.toNat ++ leBytes 4 (s.keyRec j o.keyIndex).sig.toNat) ∈ u.sent)) ∧
  (∀ (s : State) (d : Die) (i : Fin 4096) (o : Occ) (a : Armed) (j : Job) (r : TrigRec) (p : Nat),
    s.acting 15 d.val i.val o a j r p →
    Completes (.done d i) s fun u =>
      u.actionDone d.val i.val ∧ (∃ x, u.recordIn d.val i.val = some x ∧ x.1.doneFired = true) ∧ u.mem = s.mem) ∧
  (∀ (s : State) (src : Src) (d : Die) (l : Fin 256) (value : W64), s.writesNow src →
    Completes (.gnsClear src d l value) s fun u =>
      (bit value.toNat 8 = true → u.reg (Regs.gnsA d.val l.val) = 0 ∧ u.reg (Regs.gnsB d.val l.val) = 0x80) ∧
      (bit value.toNat 8 = false → u.setup = s.setup) ∧ u.mem = s.mem)

/-- JOIN sends its values to every other member and, once all are there, combines them in the order of the member list
and stores the result; an early one is kept in a table of 64 and beyond that refused (R333, R340). GET asks its
owner, which serves the current generation, holds a request for the next one, denies one that no entry covers and
answers GENERATION_GONE for an earlier one, whose requester then takes its alternative counter; what a GET fetched
lands at its destination (R332, R340, R381, R382, R387, R388). -/
def Obligations.JoinsCombineAndGathersServe : Prop :=
  (∀ (s : State) (d : Die) (i : Fin 4096) (o : Occ) (a : Armed) (j : Job) (r : TrigRec) (p x : Nat) (vals : List W64),
    s.acting 7 d.val i.val o a j r p → o.die = d.val →
    (0 < bits r.aux 6 3 → locate j (s.keyRec j o.keyIndex) d.val r.src (8 * bits r.aux 6 3) = .ok x ∧
      s.niAcc j d.val x (8 * bits r.aux 6 3) false = .ok) →
    vals = (List.range (bits r.aux 6 3)).map (fun q => BitVec.ofNat 64 (s.loadNat (x + 8 * q) 8)) →
    Completes (.join d i) s fun u =>
      let mem := s.memberList j (s.keyRec j o.keyIndex).members
      let got := s.joinVals j o a.index
      let all := ∀ m ∈ mem, m = s.moduleNo ∨ ∃ v ∈ got, v.source = m
      (∀ m ∈ mem, m ≠ s.moduleNo → s.canSend m 1 = true →
        Output.message m kJoin o.key (BitVec.ofNat 32 o.round) a.index (leBytes 4 j.block.jobId.toNat ++
          vals.flatMap (fun (v : W64) => leBytes 8 v.toNat)) ∈ u.sent) ∧
      (¬ all → u.mem = s.mem ∧ ∃ y, u.recordIn d.val i.val = some y ∧ y.2.asked = true ∧ y.2.complete = false) ∧
      (all → (r.rctr = noCounter ∨ s.countsAt j d.val r.rctr) → bits r.aux 6 3 = 0 →
        u.actionDone d.val i.val ∧ s.counted u d.val r.rctr r.rval ∧ s.keepsBut u (State.counterAt d.val r.rctr)) ∧
      (all → 0 < bits r.aux 6 3 → (r.rctr = noCounter ∨ s.countsAt j d.val r.rctr) →
        ∀ y, locate j (s.keyRec j o.keyIndex) d.val r.dst (8 * bits r.aux 6 3) = .ok y → flagPlace y →
        State.apart d.val r.rctr y (8 * bits r.aux 6 3) → s.niAcc j d.val y (8 * bits r.aux 6 3) true = .ok →
        u.actionDone d.val i.val ∧ s.counted u d.val r.rctr r.rval ∧
        s.keepsBut u ((y, 8 * bits r.aux 6 3) :: State.counterAt d.val r.rctr) ∧
        ∃ tok, ∀ q, q < bits r.aux 6 3 →
          u.rdNat (y + 8 * q) 8 = (State.joined (r.aux % 8) tok q (s.joinLists mem vals got)).toNat)) ∧
  (∀ (s : State) (d : Die) (i : Fin 4096) (o : Occ) (a : Armed) (j : Job) (r : TrigRec) (p x : Nat),
    s.acting 7 d.val i.val o a j r p → 0 < bits r.aux 6 3 →
    locate j (s.keyRec j o.keyIndex) d.val r.src (8 * bits r.aux 6 3) = .ok x →
    Completes (.join d i) s fun u =>
      (∀ c, s.niAcc j d.val x (8 * bits r.aux 6 3) false = .bad c → State.asked c = false →
        State.quenchedBy j c u ∧ u.mem = s.mem) ∧
      (s.niAcc j d.val x (8 * bits r.aux 6 3) false = .wait → u.mem = s.mem ∧ u.ni = s.ni ∧ u.jobs = s.jobs)) ∧
  (∀ (s : State) (d : Die) (source : W16) (id round key : W32) (i : Fin 4096) (values : List W64) (j : Job) (o : Occ) (a : Armed)
    (r : TrigRec) (v : JoinVals), s.findJobId id = some j → j.st ≠ .quenching →
    s.occOn j.handle d.val key round.toNat = some o → s.findJob j.handle = some j → o.key = key → o.round = round.toNat →
    o.armed.find? (fun a => a.index == i.val && a.asked && !a.complete && (s.trigRec a.recAt).action == 7) = some a →
    r = s.trigRec a.recAt → s.recordIn d.val a.slot = some (o, a) →
    v = ⟨d.val, source.toNat, j.block.jobId, round.toNat, key, i.val, values, false⟩ →
    Completes (.joinMessage d source id round key i values) s fun u =>
      let mem := s.memberList j (s.keyRec j o.keyIndex).members
      let got := s.joinVals j o a.index ++ [v]
      let lists := mem.map (fun m => ((got.find? (fun v => v.source == m)).map (fun v => v.values)).getD [])
      let all := ∀ m ∈ mem, ∃ v ∈ got, v.source = m
      (¬ all → u.ni.joins = s.ni.joins ++ [v] ∧ u.mem = s.mem ∧ u.ni.occs = s.ni.occs) ∧
      (all → 0 < bits r.aux 6 3 → (r.rctr = noCounter ∨ s.countsAt j d.val r.rctr) →
        ∀ y, locate j (s.keyRec j o.keyIndex) d.val r.dst (8 * bits r.aux 6 3) = .ok y → flagPlace y →
        State.apart d.val r.rctr y (8 * bits r.aux 6 3) → s.niAcc j d.val y (8 * bits r.aux 6 3) true = .ok →
        u.actionDone d.val a.slot ∧ s.counted u d.val r.rctr r.rval ∧
        s.keepsBut u ((y, 8 * bits r.aux 6 3) :: State.counterAt d.val r.rctr) ∧
        (∃ tok, ∀ q, q < bits r.aux 6 3 → u.rdNat (y + 8 * q) 8 = (State.joined (r.aux % 8) tok q lists).toNat) ∧
        (r.aux % 8 = 1 → ∀ q, q < bits r.aux 6 3 →
          u.rdNat (y + 8 * q) 8 = ((lists.map (fun l => l.getD q 0)).foldl (· + ·) (0 : W64)).toNat))) ∧
  (∀ (s : State) (d : Die) (source : W16) (id round key : W32) (i : Fin 4096) (values : List W64) (j : Job),
    s.findJobId id = some j → j.st ≠ .quenching →
    (∀ o a, s.occOn j.handle d.val key round.toNat = some o → a ∈ o.armed → a.index = i.val →
      ¬ (a.asked = true ∧ a.complete = false ∧ (s.trigRec a.recAt).action = 7)) →
    Completes (.joinMessage d source id round key i values) s fun u =>
      let early := (s.ni.joins.filter (fun x => x.die == d.val && x.early)).length
      u.mem = s.mem ∧
      (early < 64 →
        u.ni.joins = s.ni.joins ++ [⟨d.val, source.toNat, id, round.toNat, key, i.val, values, true⟩]) ∧
      (64 ≤ early → s.canSend source.toNat 1 = true → source.toNat ≠ s.moduleNo →
        u.ni = s.ni ∧ Output.message source.toNat kRefused key round i.val [] ∈ u.sent)) ∧
  (∀ (s : State) (d : Die) (source : W16) (id round key : W32) (i : Fin 4096) (values : List W64),
    (∀ j, s.findJobId id = some j → j.st = .quenching) →
    Completes (.joinMessage d source id round key i values) s fun u => u.mem = s.mem ∧ u.ni = s.ni ∧ u.jobs = s.jobs) ∧
  (∀ (s : State) (d : Die) (i : Fin 4096) (o : Occ) (a : Armed) (j : Job) (r : TrigRec) (p : Nat),
    s.acting 3 d.val i.val o a j r p → s.peerHere r = false →
    Completes (.get d i) s fun u =>
      u.mem = s.mem ∧
      (s.canSend r.peer 1 = true → (∃ y, u.recordIn d.val i.val = some y ∧ y.2.asked = true ∧ y.2.complete = false) ∧
        (Output.message r.peer kGet o.key (BitVec.ofNat 32 o.round) a.index
          (leBytes 4 j.block.jobId.toNat ++ leBytes 4 r.aux ++ leBytes 8 r.src.toNat ++ leBytes 4 r.bytes ++ leBytes 1 r.fmtIn
            ++ leBytes 4 (d.val * 4096 + i.val)) ∈ u.sent)) ∧
      (s.canSend r.peer 1 = false → u.ni = s.ni ∧ u.jobs = s.jobs)) ∧
  (∀ (s : State) (d : Die) (i : Fin 4096) (o : Occ) (a : Armed) (j : Job) (r : TrigRec) (p : Nat) (g : ServeGet),
    s.acting 3 d.val i.val o a j r p → s.peerHere r = true → s.findJobId j.block.jobId = some j →
    g = ⟨d.val, s.moduleNo, j.block.jobId, r.aux / 65536, r.aux % 65536, r.src, r.bytes, r.fmtIn,
      BitVec.ofNat 32 (d.val * 4096 + i.val), 0⟩ → a.slot = i.val →
    Completes (.get d i) s fun u =>
      let full := 2048 ≤ (s.ni.serve.filter (fun x => x.die == d.val)).length
      (full → u.ni = s.ni ∧ u.mem = s.mem) ∧
      (¬ full → ∀ rec, s.decideGet j g = (.gone, rec) → s.countsAt j d.val (r.ef.toNat % 2 ^ 32) →
        u.actionDone d.val i.val ∧ s.counted u d.val (r.ef.toNat % 2 ^ 32) r.rval ∧
        s.keepsBut u [(sharedAddr d.val (r.ef.toNat % 2 ^ 32), 4)]) ∧
      (¬ full → ∀ rec, s.decideGet j g = (.ahead, rec) → State.quenchedBy j 0x5204 u ∧ u.mem = s.mem) ∧
      (¬ full → ∀ rec, s.decideGet j g = (.denied, rec) → State.quenchedBy j 0x5205 u ∧ u.mem = s.mem) ∧
      (¬ full → ∀ rec, s.decideGet j g = (.held, rec) → u.mem = s.mem ∧
        u.ni.serve = s.ni.serve ++ [{ g with record := rec, die := dieOf rec 0 % 4 }]) ∧
      (¬ full → ∀ rec x y n, s.decideGet j g = (.served, rec) → State.serveSrc j r.src = some x →
        s.access j ⟨4, dieOf x 0⟩ false false x r.bytes = .ok → n = wireElems r.fmtIn r.bytes →
        s.fetching d.val o a j r n y → s.landsOk j o.key o.round y (State.getBytes r n) false d.val →
        slotForm r.dst = false → r.fmtIn = r.fmtOut → fmtMx r.fmtIn = false →
        rowBytes r.fmtIn n = r.bytes → State.plainPlace y → State.apart (dieOf y d.val) r.rctr y r.bytes →
        u.actionDone d.val i.val ∧ u.rd y r.bytes = s.load x r.bytes ∧ s.counted u (dieOf y d.val) r.rctr r.rval ∧
        s.keepsBut u ((y, r.bytes) :: State.counterAt (dieOf y d.val) r.rctr))) ∧
  (∀ (s : State) (w : NiWrite) (o : Occ) (a : Armed) (j : Job) (r : TrigRec) (n y : Nat), s.findJobId w.jobId = some j →
    w.served = true → s.waitingGet j.handle w.die.val w.key w.round.toNat w.dst = some (o, a) →
    n = wireElems r.fmtIn w.data.length → s.fetching w.die.val o a j r n y →
    s.landsOk j o.key o.round y (State.getBytes r n) false w.die.val →
    (fmtMx r.fmtIn = true → w.data.length = rowBytes r.fmtIn n + blocksOf n) →
    State.apart (dieOf y w.die.val) r.rctr y (State.landLen (State.getBytes r n) y) →
    let u := s.landWrite w
    u.actionDone w.die.val a.slot ∧
    ((slotForm r.dst && fmtPath r.fmtIn) = true → s.landedAs u true false r.fmtIn n y w.data) ∧
    ((slotForm r.dst && fmtPath r.fmtIn) = false → ∃ tok, s.landedAs u false false r.fmtOut n y
      (if r.fmtIn = r.fmtOut then w.data
        else
          let e := wireConvert r.fmtIn r.fmtOut
            (if r.sr then some (Sys2Proof.Num.draw j.block.seed 2 r.stream (o.round % 65536)) else none) tok n w.data
          e.bytes ++ e.scales)) ∧
    s.counted u (dieOf y w.die.val) r.rctr r.rval ∧
    s.keepsBut u ((y, State.landLen (State.getBytes r n) y) ::
      State.counterAt (dieOf y w.die.val) r.rctr)) ∧
  (∀ (s : State) (d : Die) (source : W16) (id : W32) (entry gen : W16) (addr : W64) (n : W32) (f : BitVec 8) (q : W32) (j : Job)
    (g : ServeGet), s.findJobId id = some j → s.findJob j.handle = some j → j.st = .running → source.toNat ≠ s.moduleNo →
    s.canSend source.toNat 1 = true →
    g = ⟨d.val, source.toNat, id, entry.toNat, gen.toNat, addr, n.toNat, f.toNat, q, 0⟩ →
    Completes (.getServe d source id entry gen addr n f q) s fun u =>
      let full := 2048 ≤ (s.ni.serve.filter (fun x => x.die == d.val)).length
      u.mem = s.mem ∧
      (full → u.ni = s.ni ∧ Output.message source.toNat kRefused id 0 q.toNat [] ∈ u.sent) ∧
      (¬ full → ∀ rec a, s.decideGet j g = (.served, rec) → State.serveSrc j addr = some a →
        (s.access j ⟨4, dieOf a 0⟩ false false a n.toNat = .ok →
          Output.message source.toNat kData id 0 q.toNat (s.load a n.toNat) ∈ u.sent) ∧
        (∀ c, s.access j ⟨4, dieOf a 0⟩ false false a n.toNat = .bad c → State.asked c = false →
          State.quenchedBy j c u ∧ Output.message source.toNat kDenied id 0 q.toNat [] ∈ u.sent)) ∧
      (¬ full → ∀ rec, s.decideGet j g = (.gone, rec) → Output.message source.toNat kGone id 0 q.toNat [] ∈ u.sent) ∧
      (¬ full → ∀ rec, s.decideGet j g = (.ahead, rec) → Output.message source.toNat kAhead id 0 q.toNat [] ∈ u.sent) ∧
      (¬ full → ∀ rec, s.decideGet j g = (.denied, rec) → Output.message source.toNat kDenied id 0 q.toNat [] ∈ u.sent) ∧
      (¬ full → ∀ rec, s.decideGet j g = (.held, rec) →
        u.ni.serve = s.ni.serve ++ [{ g with record := rec, die := dieOf rec 0 % 4 }]) ∧
      (¬ full → ∀ rec x, s.decideGet j g = (.waits x, rec) → u.ni.serve = s.ni.serve ++ [{ g with record := 0 }]) ∧
      (¬ full → ∀ rec c st x, s.decideGet j g = (.broken c st x, rec) → State.asked c = false →
        State.quenchedBy j c u ∧ Output.message source.toNat kDenied id 0 q.toNat [] ∈ u.sent)) ∧
  (∀ (s : State) (d : Die) (source : W16) (id : W32) (entry gen : W16) (addr : W64) (n : W32) (f : BitVec 8) (q : W32),
    (∀ j, s.findJobId id = some j → j.st ≠ .running ∧ j.st ≠ .held) →
    Completes (.getServe d source id entry gen addr n f q) s fun u =>
      u.mem = s.mem ∧ u.ni = s.ni ∧ u.jobs = s.jobs ∧
      (∀ j, s.findJobId id = some j → j.runs = false → j.st ≠ .quenching → source.toNat ≠ s.moduleNo →
        s.canSend source.toNat 1 = true → Output.message source.toNat kDenied id 0 q.toNat [] ∈ u.sent)) ∧
  (∀ (s : State) (d : Die) (i : Fin 4096),
    Completes (.generationGone d i) s fun u =>
      (∀ o a, s.askedHere (d.val * 4096 + i.val) = some (d.val, o, a) → s.findJob o.job = none →
        a.asked = true → a.complete = false → (s.trigRec a.recAt).action = 3 → u.actionDone d.val i.val ∧ u.mem = s.mem) ∧
      (∀ o a j c, s.askedHere (d.val * 4096 + i.val) = some (d.val, o, a) → s.findJob o.job = some j →
        c = (s.trigRec a.recAt).ef.toNat % 2 ^ 32 →
        a.asked = true → a.complete = false → (s.trigRec a.recAt).action = 3 → s.countsAt j d.val c →
        u.actionDone d.val i.val ∧ u.rdNat (sharedAddr d.val c) 4 = (s.rdNat (sharedAddr d.val c) 4 + (s.trigRec a.recAt).rval) % 2 ^ 32 ∧
        s.keepsBut u [(sharedAddr d.val c, 4)] ∧
        (s.flag (Regs.niFault d.val) 31 = false → u.field (Regs.niFault d.val) 15 0 = 0x5203)) ∧
      ((∀ o a, s.askedHere (d.val * 4096 + i.val) = some (d.val, o, a) →
          ¬ (a.asked = true ∧ a.complete = false ∧ (s.trigRec a.recAt).action = 3)) →
        u.mem = s.mem ∧ u.ni = s.ni ∧ u.jobs = s.jobs))

/-! ### The update units -/

/-- UU_OPEN takes the snapshot of a CLOSED record and opens it, waits for NOT_BEFORE or for the thread that has it
open, and in its second mode goes on with an OPEN one; UU_CLOSE of a complete one makes the next generation
current; UU_INIT writes the journal of its blocks and a CLOSED record; bad guards, fields and parameters halt them
(R347, R348, R352, R356 to R358, R364, R366). UU_NORM adds the two sums of its blocks that are not frozen to GACC;
a weight group that lands leaves the unit and adds DONE_VAL once, when all of its group of 8 are DONE; a discard
frees and zeroes retained slots (R353, R361, R363, R366, R374). -/
def Obligations.UpdatesOpenSumAndClose : Prop :=
  (∀ (s : State) (x : Stack) (n : Fin 4) (h : CmdHead) (j : Job) (at_ : W32) (mode : BitVec 8) (d : UpdDesc) (r a g : Nat)
    (ps : List Byte) (sn : Snap), mode.toNat ≤ 1 → s.updating x n 0x20 h j at_.toNat d r → s.recordIs r false →
    (d.n 128 8 = 0 ∨ d.n 128 8 ≤ s.beat.pos.toNat) → mode = 0 → s.readParams (.update x n) j d = (.ok, a, ps) →
    (s.pinState (ThreadId.update x n).die (d.n 10 2)).1 = true → (s.pinState (ThreadId.update x n).die (d.n 12 2)).1 = true →
    (hdrRule d.header = 4 → s.graftAt (.update x n) d 120 = some g ∧ s.access j ⟨5, x.val⟩ false (windowOf g == 0) g 16 = .ok) →
    (hdrRule d.header ≠ 4 → g = 0) → s.access j ⟨5, x.val⟩ false (windowOf a == 0) a 64 = .ok →
    s.snapOf (.update x n) j x.val d (hyperOf ps)
      (s.scaleEff (hdrRule d.header)
        ((s.pinState (ThreadId.update x n).die (d.n 10 2)).2 || (s.pinState (ThreadId.update x n).die (d.n 12 2)).2)
        (BitVec.ofNat 32 (recField ps 32 4)) g).1 = some sn → s.untraced h →
    Completes (.uuOpen (.update x n) h at_ mode) s fun u =>
      s.advanced (.update x n) 1 u ∧ State.recOpen u r = true ∧ State.recCurOk u r = true ∧ State.recGen u r = State.recGen s r ∧
      u.rd (r + 8) 248 = sn.bytes 0 0 ∧ (∃ o, u.openEntry r = some o ∧ o.adds = true ∧ o.job = j.handle ∧ o.done = []) ∧
      s.keepsBut u [(r, 256)]) ∧
  (∀ (s : State) (nogen : Bool) (id : W32) (g rule : Nat),
    (rule ≠ 4 → s.scaleEff rule nogen id g = (if nogen then id else Sys2Proof.Num.one32, false)) ∧
    (rule = 4 →
      let na := BitVec.ofNat 32 (s.loadNat g 4)
      let np := BitVec.ofNat 32 (s.loadNat (g + 8) 4)
      (¬ (Sys2Proof.Num.isFin32 na = true ∧ Sys2Proof.Num.isFin32 np = true) → s.scaleEff rule nogen id g = (0, true)) ∧
      (Sys2Proof.Num.isFin32 na = true → Sys2Proof.Num.isFin32 np = true → (Sys2Proof.Num.rd np).dy.isZero = true → s.scaleEff rule nogen id g = (0, false)) ∧
      (Sys2Proof.Num.isFin32 na = true → Sys2Proof.Num.isFin32 np = true → (Sys2Proof.Num.rd np).dy.isZero = false →
        ∃ tok, s.scaleEff rule nogen id g = (Sys2Proof.Num.sqrt tok 2 (Sys2Proof.Num.div tok 0 na np), false)))) ∧
  (∀ (s : State) (x : Stack) (n : Fin 4) (h : CmdHead) (j : Job) (at_ : W32) (d : UpdDesc) (r : Nat),
    s.updating x n 0x20 h j at_.toNat d r → s.recordIs r false → d.n 128 8 ≠ 0 → s.beat.pos.toNat < d.n 128 8 →
    Completes (.uuOpen (.update x n) h at_ 0) s fun u =>
      (u.thread (ThreadId.update x n).key).st = .waitBeat ∧ u.mem = s.mem ∧
      (u.thread (ThreadId.update x n).key).beatTarget = some (d.n 128 8)) ∧
  (∀ (s : State) (x : Stack) (n : Fin 4) (h : CmdHead) (j : Job) (at_ : W32) (d : UpdDesc) (r a : Nat) (c : W16) (ps : List Byte),
    s.updating x n 0x20 h j at_.toNat d r → s.recordIs r false → (d.n 128 8 = 0 ∨ d.n 128 8 ≤ s.beat.pos.toNat) →
    Completes (.uuOpen (.update x n) h at_ 0) s fun u =>
      (s.readParams (.update x n) j d = (.bad c, a, ps) → State.asked c = false →
        State.haltedWith (.update x n) j c u ∧ u.mem = s.mem) ∧
      (s.readParams (.update x n) j d = (.ok, a, ps) →
        ((s.pinState (ThreadId.update x n).die (d.n 10 2)).1 = false ∨ (s.pinState (ThreadId.update x n).die (d.n 12 2)).1 = false) →
        State.haltedWith (.update x n) j 0x5105 u ∧ u.mem = s.mem)) ∧
  (∀ (s : State) (x : Stack) (n : Fin 4) (h : CmdHead) (j : Job) (at_ : W32) (mode : BitVec 8) (d : UpdDesc) (r : Nat),
    mode.toNat ≤ 1 → s.updating x n 0x20 h j at_.toNat d r → s.recordIs r true →
    Completes (.uuOpen (.update x n) h at_ mode) s fun u =>
      let other := ∃ o, s.openEntry r = some o ∧ o.thread ≠ (ThreadId.update x n).index
      (other → (u.thread (ThreadId.update x n).key).st = .waitUnit ∧ u.mem = s.mem ∧ u.upd = s.upd) ∧
      (¬ other → mode = 0 → State.haltedWith (.update x n) j 0x5103 u ∧ u.mem = s.mem) ∧
      (¬ other → mode = 1 → s.advanced (.update x n) 1 u ∧ (s.untraced h → u.mem = s.mem) ∧
        ∃ o, u.openEntry r = some o ∧ o.adds = false)) ∧
  (∀ (s : State) (x : Stack) (n : Fin 4) (h : CmdHead) (j : Job) (at_ : W32) (d : UpdDesc) (r : Nat),
    s.updating x n 0x20 h j at_.toNat d r → s.recordIs r false →
    Completes (.uuOpen (.update x n) h at_ 1) s fun u =>
      s.advanced (.update x n) 1 u ∧ (s.untraced h → u.mem = s.mem) ∧ u.upd = s.upd) ∧
  (∀ (s : State) (x : Stack) (n : Fin 4) (h : CmdHead) (j : Job) (at_ first : W32) (count : W16) (off : Nat) (d : UpdDesc),
    off = at_.toNat → off % 64 = 0 → d = s.updDesc j off → first.toNat % 8 = 0 → 1 ≤ count.toNat → count.toNat ≤ 1024 →
    ∀ y ∈ [((0x20 : Nat), Instr.uuOpen (.update x n) h at_ 0), (0x20, .uuOpen (.update x n) h at_ 1),
      (0x21, .uuBlocks (.update x n) h at_ first count), (0x22, .uuClose (.update x n) h at_),
      (0x23, .uuNorm (.update x n) h at_ first count), (0x24, .uuInit (.update x n) h at_ first count 0)],
    s.issuing (.update x n) y.1 5 h true j →
    Completes y.2 s fun u =>
      let acc := s.recordAcc (j.image.base + off) 256
      (∀ c, acc = some c → State.asked c = false → State.haltedWith (.update x n) j c u ∧ u.mem = s.mem) ∧
      (acc = none → d.guarded = false → State.haltedWith (.update x n) j 0x8010 u ∧ u.mem = s.mem) ∧
      (acc = none → d.guarded = true → d.ok = false → State.haltedWith (.update x n) j 0x1113 u ∧ u.mem = s.mem) ∧
      (acc = none → d.guarded = true → s.ownStack (.update x n) x.val (d.n 24 8) 256 = none →
        State.haltedWith (.update x n) j 0x1113 u ∧ u.mem = s.mem)) ∧
  (∀ (s : State) (x : Stack) (n : Fin 4) (h : CmdHead) (j : Job) (at_ first : W32) (count : W16) (d : UpdDesc) (r : Nat),
    State.blockRangeOk first.toNat count.toNat (d.n 16 4) = true →
    ∀ y ∈ [((0x20 : Nat), Instr.uuOpen (.update x n) h at_ 0), (0x21, .uuBlocks (.update x n) h at_ first count),
      (0x22, .uuClose (.update x n) h at_)],
    s.updating x n y.1 h j at_.toNat d r → s.recCurOk r = false →
    (∀ o, s.openEntry r = some o → o.thread = (ThreadId.update x n).index) →
    Completes y.2 s fun u => State.haltedWith (.update x n) j 0x8010 u ∧ u.mem = s.mem) ∧
  (∀ (s : State) (x : Stack) (n : Fin 4) (h : CmdHead) (j : Job) (at_ : W32) (d : UpdDesc) (r : Nat),
    s.updating x n 0x22 h j at_.toNat d r → s.recordIs r true →
    Completes (.uuClose (.update x n) h at_) s fun u =>
      let fly := ∃ y ∈ s.upd.inflight, y.2.1 = r
      let complete := s.rdNat (r + 8) 4 = s.rdNat (r + 16) 4
      (fly → (u.thread (ThreadId.update x n).key).st = .waitOrder ∧ u.mem = s.mem ∧ u.upd = s.upd) ∧
      (¬ fly → complete → s.untraced h → s.advanced (.update x n) 1 u ∧ State.recOpen u r = false ∧
        State.recCurOk u r = true ∧ State.recGen u r = (State.recGen s r + 1) % 65536 ∧ u.openEntry r = none ∧
        u.upd.retained = s.upd.retained.filter (fun c => c.2.2 != r) ∧ s.keepsBut u [(r, 8)]) ∧
      (¬ fly → ¬ complete → State.haltedWith (.update x n) j 0x5107 u ∧ u.mem = s.mem)) ∧
  (∀ (s : State) (x : Stack) (n : Fin 4) (h : CmdHead) (j : Job) (at_ : W32) (d : UpdDesc) (r : Nat),
    s.updating x n 0x22 h j at_.toNat d r → s.recordIs r false →
    Completes (.uuClose (.update x n) h at_) s fun u =>
      s.advanced (.update x n) 1 u ∧ (s.untraced h → u.mem = s.mem) ∧ u.upd = s.upd) ∧
  (∀ (s : State) (x : Stack) (n : Fin 4) (h : CmdHead) (j : Job) (at_ first : W32) (count gen : W16) (d : UpdDesc) (r : Nat)
    (p : Snap), s.updating x n 0x24 h j at_.toNat d r → State.blockRangeOk first.toNat count.toNat (d.n 16 4) = true →
    (∀ g ∈ s.ni.serve, g.record ≠ r) → s.snapOf (.update x n) j x.val d [] 0 = some p →
    (s.checkAll j ⟨5, x.val⟩ [(p.jrn + 16 * first.toNat, 16 * count.toNat, true), (r, 256, true)]).1 = .ok →
    (r + 256 ≤ p.jrn + 16 * first.toNat ∨ p.jrn + 16 * (first.toNat + count.toNat) ≤ r) → s.untraced h →
    Completes (.uuInit (.update x n) h at_ first count gen) s fun u =>
      s.advanced (.update x n) 1 u ∧ State.recOpen u r = false ∧ State.recCurOk u r = true ∧ State.recGen u r = gen.toNat ∧
      (∀ i, i < count.toNat → u.rd (p.jrn + 16 * (first.toNat + i)) 16 = journalBytes 0 (first.toNat + i) gen.toNat p.shard) ∧
      u.rd (r + 8) 248 = ({ p with openBeat := 0 } : Snap).bytes p.nblk 0 ∧ u.openEntry r = none ∧
      s.keepsBut u [(p.jrn + 16 * first.toNat, 16 * count.toNat), (r, 256)]) ∧
  (∀ (s : State) (x : Stack) (n : Fin 4) (h : CmdHead) (j : Job) (at_ first : W32) (count gen : W16) (d : UpdDesc) (r : Nat),
    first.toNat % 8 = 0 → 1 ≤ count.toNat → count.toNat ≤ 1024 →
    ∀ y ∈ [((0x21 : Nat), Instr.uuBlocks (.update x n) h at_ first count), (0x23, .uuNorm (.update x n) h at_ first count),
      (0x24, .uuInit (.update x n) h at_ first count gen)],
    s.updating x n y.1 h j at_.toNat d r → State.blockRangeOk first.toNat count.toNat (d.n 16 4) = false →
    Completes y.2 s fun u => State.haltedWith (.update x n) j 0x1113 u ∧ u.mem = s.mem) ∧
  (∀ (s : State) (x : Stack) (n : Fin 4) (h : CmdHead) (j : Job) (at_ first : W32) (count : W16) (d : UpdDesc) (r a g : Nat)
    (ps : List Byte) (p : Snap), s.updating x n 0x23 h j at_.toNat d r →
    State.blockRangeOk first.toNat count.toNat (d.n 16 4) = true → hdrRule d.header = 4 →
    s.readParams (.update x n) j d = (.ok, a, ps) → s.snapOf (.update x n) j x.val d (hyperOf ps) Sys2Proof.Num.one32 = some p →
    s.graftAt (.update x n) d 112 = some g → windowOf g = 0 →
    let blocks := (List.range count.toNat).map (fun i => first.toNat + i)
    let live := blocks.filter (fun b => !s.isFrozen p b)
    (s.checkAll j ⟨5, x.val⟩ ((a, 64, false) ::
      (if hdrFrozen p.hdr then blocks.map (fun b => (p.frozen + b / 8, 1, false)) else []))).1 = .ok →
    (s.checkAll j ⟨5, x.val⟩ (live.flatMap (fun b => State.blockReads p b) ++ [(g, 16, false), (g, 16, true)])).1 = .ok →
    s.untraced h →
    Completes (.uuNorm (.update x n) h at_ first count) s fun u =>
      s.advanced (.update x n) 1 u ∧ s.keepsBut u [(g, 4), (g + 8, 4)] ∧
      ∃ tok,
        let terms := live.map (fun b => s.normTerms p b (tok + 4 * b))
        let sq := fun (l : List W32) =>
          Sys2Proof.Num.reduceDot tok (l.length + 1) (10 + (l.length + 511) / 512) (l.map (fun x => (Sys2Proof.Num.rd x, Sys2Proof.Num.rd x)))
        u.rdNat g 4 = (Sys2Proof.Num.accum tok 0 (BitVec.ofNat 32 (s.loadNat g 4)) (sq (terms.flatMap (fun x => x.1)))).toNat ∧
        u.rdNat (g + 8) 4 = (Sys2Proof.Num.accum tok 2 (BitVec.ofNat 32 (s.loadNat (g + 8) 4)) (sq (terms.flatMap (fun x => x.2)))).toNat) ∧
  (∀ (s : State) (x : Stack) (n : Fin 4) (h : CmdHead) (j : Job) (at_ first : W32) (count : W16) (d : UpdDesc) (r a : Nat) (c : W16)
    (ps : List Byte), s.updating x n 0x23 h j at_.toNat d r → State.blockRangeOk first.toNat count.toNat (d.n 16 4) = true →
    Completes (.uuNorm (.update x n) h at_ first count) s fun u =>
      (hdrRule d.header ≠ 4 → State.haltedWith (.update x n) j 0x1113 u ∧ u.mem = s.mem) ∧
      (hdrRule d.header = 4 → s.readParams (.update x n) j d = (.bad c, a, ps) → State.asked c = false →
        State.haltedWith (.update x n) j c u ∧ u.mem = s.mem) ∧
      (hdrRule d.header = 4 → s.readParams (.update x n) j d = (.ok, a, ps) → s.graftAt (.update x n) d 112 = none →
        State.haltedWith (.update x n) j 0x1113 u ∧ u.mem = s.mem)) ∧
  (∀ (s : State) (x : Stack) (k r b c off : Nat) (o : OpenUpd) (j : Job) (die : Nat) (bs group : List Nat),
    s.upd.inflight.find? (fun y => (y.1 - 7200) / 4 == x.val) = some (k, r, b) →
    bs = (s.upd.inflight.filter (fun y => (y.1 - 7200) / 4 == x.val && y.2.1 == r && y.2.2 / 8 == b / 8)).map (fun y => y.2.2) →
    s.openEntry r = some o → s.findJob o.job = some j →
    group = (List.range 8).filterMap (fun i => if b / 8 * 8 + i < (s.readSnap r).nblk then some (b / 8 * 8 + i) else none) →
    (s.readSnap r).doneCtr = c → placeOf c = .shared die off → sharedAddr die off = c → s.countsAt j die off → r + 256 ≤ c →
    Completes (.weightGroupLanded x) s fun u =>
      (∀ y, y ∈ u.upd.inflight ↔ y ∈ s.upd.inflight ∧ ¬ ((y.1 - 7200) / 4 = x.val ∧ y.2.1 = r ∧ y.2.2 / 8 = b / 8)) ∧
      (∃ q, u.openEntry r = some q ∧ ∀ y, y ∈ q.done ↔ y ∈ o.done ∨ y ∈ bs) ∧
      (o.adds = true → (∀ y ∈ group, y ∈ o.done ∨ y ∈ bs) → (∃ y ∈ bs, y ∉ o.done ∧ y ∈ group) →
        (∀ y ∈ bs, y ∈ group) → u.rdNat c 4 = (s.rdNat c 4 + (s.readSnap r).doneVal) % 2 ^ 32 ∧ s.keepsBut u [(c, 4)]) ∧
      ((o.adds = false ∨ (∀ y ∈ bs, y ∈ o.done) ∨ (∃ y ∈ group, y ∉ o.done ∧ y ∉ bs)) → u.mem = s.mem)) ∧
  (∀ (s : State) (x : Stack), (∀ y ∈ s.upd.inflight, (y.1 - 7200) / 4 ≠ x.val) →
    Completes (.weightGroupLanded x) s fun u => u.upd = s.upd ∧ u.mem = s.mem) ∧
  (∀ (s : State) (src : Src) (d : Die) (value : W32), s.writesNow src →
    Completes (.retainDiscard src d value) s fun u =>
      (bit value.toNat 26 = true → ∀ i, i < 512 → mfind u.upd.retained (d.val * 512 + i) = none ∧
        ((mfind s.upd.retained (d.val * 512 + i)).isSome = true →
          ∀ y, y < 65536 → u.rd8 (stagingAddr d.val (i * 65536) + y) = 0)) ∧
      (bit value.toNat 26 = false → u.upd = s.upd ∧ u.mem = s.mem)) ∧
  (∀ (s : State) (src : Src) (d : Die) (value : W64), s.writesNow src →
    Completes (.retainDiscardTag src d value) s fun u =>
      let held := (mfind s.upd.retained (d.val * 512 + value.toNat % 512)).isSome
      u.regNat (Regs.retainQ d.val) = value.toNat % 512 ∧
      (bit value.toNat 26 = true → held = true → ∀ i, i < 512 → mfind u.upd.retained (d.val * 512 + i) =
        if s.retainedTag d.val i = s.retainedTag d.val (value.toNat % 512) then none
        else mfind s.upd.retained (d.val * 512 + i)) ∧
      ((bit value.toNat 26 = false ∨ held = false) → u.upd = s.upd ∧ u.mem = s.mem))

/-- UU_BLOCKS carries each block whose journal is one generation behind to the next and marks it DONE, takes up only the weight
half of one whose moments are written, steps over the weights of a frozen one, skips one that is DONE, and halts on any other;
on a CLOSED record it goes on (R351, R354, R355, R359 to R363). -/
def Obligations.BlocksAreCarriedOnce : Prop :=
  (∀ (s : State) (x : Stack) (n : Fin 4) (h : CmdHead) (j : Job) (at_ b : W32) (c : W16) (d : UpdDesc) (r gen : Nat) (p : Snap)
    (done again behind frozen : Nat → Prop),
    s.updating x n 0x21 h j at_.toNat d r → State.blockRangeOk b.toNat c.toNat (d.n 16 4) = true → s.recordIs r true →
    p = s.readSnap r → gen = (State.recGen s r + 1) % 65536 → bit j.block.flags.toNat 3 = false → s.untraced h →
    (∀ i, b.toNat ≤ i → i < b.toNat + c.toNat →
      (done i ↔ s.journalSays p gen i 0 0) ∧ (again i ↔ s.journalSays p gen i 1 0) ∧
      (behind i ↔ s.journalSays p gen i 0 1 ∧ s.isFrozen p i = false) ∧ (frozen i ↔ s.journalSays p gen i 0 1 ∧ s.isFrozen p i = true) ∧
      (done i ∨ again i ∨ behind i ∨ frozen i) ∧
      (done i → ∀ o, s.openEntry r = some o → o.adds = false ∨ i ∈ o.done) ∧
      (s.checkAll j ⟨5, x.val⟩ ([(p.jrn + 16 * i, 16, false), (p.jrn + 16 * i, 16, true)] ++
        (if hdrFrozen p.hdr then [(p.frozen + i / 8, 1, false)] else []))).1 = .ok ∧
      ((again i ∨ behind i) → (s.checkAll j ⟨5, x.val⟩ (State.blockReads p i ++ State.blockWrites p r i)).1 = .ok) ∧
      (∀ y ∈ State.blockExtents p i 1, State.plainPlace y.1)) →
    State.disjoint ((r, 256) :: State.blockExtents p b.toNat c.toNat ++ State.blockSources p b.toNat c.toNat) →
    (s.upd.inflight.filter (fun y => (y.1 - 7200) / 4 == x.val)).length + c.toNat ≤ 64 →
    Completes (.uuBlocks (.update x n) h at_ b c) s fun u =>
      s.advanced (.update x n) 1 u ∧
      s.keepsBut u ((r + 8, 8) :: State.blockExtents p b.toNat c.toNat) ∧
      (∃ l : List Nat, l.Nodup ∧ (∀ i, i ∈ l ↔ b.toNat ≤ i ∧ i < b.toNat + c.toNat ∧ ¬ done i) ∧
        u.rdNat (r + 8) 4 = (s.rdNat (r + 8) 4 + l.length) % 2 ^ 32) ∧
      (∃ l : List Nat, l.Nodup ∧ (∀ i, i ∈ l ↔ b.toNat ≤ i ∧ i < b.toNat + c.toNat ∧ again i) ∧
        u.rdNat (r + 12) 4 = (s.rdNat (r + 12) 4 + l.length) % 2 ^ 32) ∧
      ∀ i, b.toNat ≤ i → i < b.toNat + c.toNat →
        u.rd (p.jrn + 16 * i) 16 = journalBytes 0 i gen p.shard ∧
        (¬ done i → ((ThreadId.update x n).key, r, i) ∈ u.upd.inflight) ∧
        ((done i ∨ frozen i) → ∀ y ∈ (State.blockExtents p i 1).tail, u.rd y.1 y.2 = s.rd y.1 y.2) ∧
        (again i → (∃ tok tok', u.rd (p.w + 4096 * i) 4096 =
            State.newWeights p j.block.seed gen i tok (s.blockIn p i false tok')) ∧
          ∀ y ∈ ((State.blockExtents p i 1).tail).tail, u.rd y.1 y.2 = s.rd y.1 y.2) ∧
        (behind i → hdrM1 p.hdr = false → ∃ tok tok', u.rd (p.w + 4096 * i) 4096 =
          State.newWeights p j.block.seed gen i tok (s.blockIn p i true tok')) ∧
        (behind i → hdrM1 p.hdr = true → ∃ tok tok' tok'' inp e1 e2, inp = s.blockIn p i true tok' ∧
          e1 = encodeMoments false ((State.newMoments p tok inp).map (fun m => m.1)) inp.m
            (s.load (p.m1 + 2048 * i) 2048) (s.load (p.m1s + 128 * i) 128) ∧
          e2 = encodeMoments true ((State.newMoments p tok inp).map (fun m => m.2)) inp.v
            (s.load (p.m2 + 2048 * i) 2048) (s.load (p.m2s + 128 * i) 128) ∧
          u.rd (p.m1 + 2048 * i) 2048 = e1.1 ∧ u.rd (p.m1s + 128 * i) 128 = e1.2.1 ∧
          (hdrM2 p.hdr = true → u.rd (p.m2 + 2048 * i) 2048 = e2.1 ∧ u.rd (p.m2s + 128 * i) 128 = e2.2.1) ∧
          u.rd (p.w + 4096 * i) 4096 = State.newWeights p j.block.seed gen i tok''
            { inp with m := momentsOf false false (tok + 1) e1.1 e1.2.1
                       v := if hdrM2 p.hdr then momentsOf true false (tok + 2) e2.1 e2.2.1 else [] })) ∧
  (∀ (s : State) (x : Stack) (n : Fin 4) (h : CmdHead) (j : Job) (at_ b : W32) (c : W16) (d : UpdDesc) (r v : Nat) (p : Snap),
    s.updating x n 0x21 h j at_.toNat d r → State.blockRangeOk b.toNat c.toNat (d.n 16 4) = true → s.recordIs r true →
    p = s.readSnap r → (s.checkAll j ⟨5, x.val⟩ ([(p.jrn + 16 * b.toNat, 16, false), (p.jrn + 16 * b.toNat, 16, true)] ++
      (if hdrFrozen p.hdr then [(p.frozen + b.toNat / 8, 1, false)] else []))).1 = .ok →
    v = s.loadNat (p.jrn + 16 * b.toNat) 8 →
    Completes (.uuBlocks (.update x n) h at_ b c) s fun u =>
      let sound := s.loadNat (p.jrn + 16 * b.toNat + 8) 8 = 2 ^ 64 - 1 - v
      let gen := (State.recGen s r + 1) % 65536
      (¬ sound → State.haltedWith (.update x n) j 0x8010 u ∧ u.mem = s.mem) ∧
      (sound → (bits v 63 48 ≠ p.shard ∨ bits v 31 8 ≠ b.toNat) → State.haltedWith (.update x n) j 0x5102 u ∧ u.mem = s.mem) ∧
      (sound → ¬ (bits v 47 32 = gen ∧ bits v 1 0 ≤ 1) → ¬ ((bits v 47 32 + 1) % 65536 = gen ∧ bits v 1 0 = 0) →
        State.haltedWith (.update x n) j 0x5102 u ∧ u.mem = s.mem)) ∧
  (∀ (s : State) (x : Stack) (n : Fin 4) (h : CmdHead) (j : Job) (at_ b : W32) (c : W16) (d : UpdDesc) (r : Nat),
    s.updating x n 0x21 h j at_.toNat d r → State.blockRangeOk b.toNat c.toNat (d.n 16 4) = true → s.recordIs r false →
    Completes (.uuBlocks (.update x n) h at_ b c) s fun u =>
      s.advanced (.update x n) 1 u ∧ (s.untraced h → u.mem = s.mem) ∧ u.upd = s.upd)

/-! ### Tiles, units and the hang monitor -/

/-- A faulty tile is retired and a spare of its die takes its number, or is reported missing where none is left; a job
on it waits at its replay point with its tiles zeroed, or is quenched where it has none; the spare takes over once
measured and tested; a marked tile is retired when no job holds it (R17, R451 to R455). A unit without a spare is
out of service and the jobs that hold it are quenched; the second failed phase of a rail takes the clock plan
down; a lockstep mismatch restarts the management core, which ends its sessions, and the jobs run on (R456 to
R458). -/
def Obligations.SparesAndRetirement : Prop :=
  (∀ (s : State) (t : Tile), s.power.held = false → s.power.off = false → s.recov.lost.contains t.val = false →
    (∀ j ∈ s.jobs, (j.runs && j.block.tiles.contains t.val) = false) →
    Completes (.tileFault t) s fun u =>
      t.val / 64 * 68 + s.physTile t.val ∈ u.recov.retiredTiles ∧ u.jobs = s.jobs ∧ u.mem = s.mem ∧ u.threads = s.threads ∧
      (mget s.recov.sparesUsed (t.val / 64) 0 < 4 →
        u.physTile t.val = 64 + mget s.recov.sparesUsed (t.val / 64) 0 ∧
        mget u.recov.sparesUsed (t.val / 64) 0 = mget s.recov.sparesUsed (t.val / 64) 0 + 1) ∧
      (4 ≤ mget s.recov.sparesUsed (t.val / 64) 0 → t.val ∈ u.recov.lost ∧ Output.report 0x8022 t.val ∈ u.sent)) ∧
  (∀ (s : State) (t : Tile), (s.power.held = true ∨ s.power.off = true ∨ s.recov.lost.contains t.val = true) →
    Completes (.tileFault t) s fun u => u = s) ∧
  (∀ (s : State) (t : Tile) (j : Job), s.power.held = false → s.power.off = false → s.recov.lost.contains t.val = false →
    s.jobs.find? (fun j => j.runs && j.block.tiles.contains t.val) = some j → s.findJob j.handle = some j →
    (mget s.recov.sparesUsed (t.val / 64) 0 < 4 → j.replay.isSome = true →
      Completes (.tileFault t) s fun u =>
        (∃ k, u.findJob j.handle = some k ∧ k.st = .held ∧ k.plan.aUsed = true) ∧ t.val ∈ u.recov.taking ∧
        u.physTile t.val = 64 + mget s.recov.sparesUsed (t.val / 64) 0 ∧
        (∀ x ∈ j.block.tiles, x < 256 → (∀ o, o < 0x400000 → u.rd8 (scratchAddr x o) = 0)
          ∧ (∀ o, o < 0x40000 → u.rd8 (tbufAddr x o) = 0))) ∧
    ((4 ≤ mget s.recov.sparesUsed (t.val / 64) 0 ∨ j.replay = none) →
      Completes (.tileFault t) s fun u =>
        (∃ k, u.findJob j.handle = some k ∧ k.st = .quenching ∧ k.cause = 0x8021) ∧
        Output.report 0x8021 t.val ∈ u.sent)) ∧
  (∀ (s : State) (t : Tile) (j : Job) (r : ReplayPoint), s.recov.taking.contains t.val = true →
    s.jobs.find? (fun j => j.st == .held && j.block.tiles.contains t.val) = some j → s.findJob j.handle = some j →
    s.jobStill j = true →
    (j.replay = some r → (∀ x ∈ s.recov.taking, x ≠ t.val → j.block.tiles.contains x = false) →
      Completes (.tileSpared t true true) s fun u =>
        (∃ k, u.findJob j.handle = some k ∧ k.st = .running) ∧ t.val ∉ u.recov.taking ∧ Output.report 0x8020 t.val ∈ u.sent ∧
        (∀ k ∈ State.jobKeys j, ∀ x, mfind r.threads k = some x →
          (u.thread k).pc = x.1 ∧ (u.thread k).bases = x.2.1 ∧ (u.thread k).loops = x.2.2 ∧
          ((u.thread k).st = .ready ∨ (u.thread k).st = .waitList)) ∧
        (∀ k ∈ State.jobKeys j, mfind r.threads k = none → (u.thread k).st = .done)) ∧
    ((∃ x ∈ s.recov.taking, x ≠ t.val ∧ j.block.tiles.contains x = true) →
      Completes (.tileSpared t true true) s fun u =>
        u.jobs = s.jobs ∧ u.threads = s.threads ∧ u.mem = s.mem ∧ t.val ∉ u.recov.taking ∧ Output.report 0x8020 t.val ∈ u.sent) ∧
    Completes (.tileSpared t true false) s (fun u => exec (.tileFault t) s = .next u) ∧
    (∀ ok, Completes (.tileSpared t false ok) s fun u =>
      exec (.tileFault t) (s.report 0x7101 t.val) = .next u ∧ Output.report 0x7101 t.val ∈ u.sent)) ∧
  (∀ (s : State) (t : Tile) (measured tested : Bool), (s.recov.taking.contains t.val = false ∨
      ∃ j, s.jobs.find? (fun j => j.st == .held && j.block.tiles.contains t.val) = some j ∧ s.jobStill j = false) →
    Completes (.tileSpared t measured tested) s fun u => u = s) ∧
  (∀ (s : State) (t : Tile), s.recov.marked.contains t.val = true →
    (∀ j ∈ s.jobs, (j.st != .admitted && j.block.tiles.contains t.val) = false) →
    Completes (.tileRetire t) s fun u =>
      t.val ∉ u.recov.marked ∧ t.val / 64 * 68 + s.physTile t.val ∈ u.recov.retiredTiles ∧ u.jobs = s.jobs ∧ u.mem = s.mem) ∧
  (∀ (s : State) (t : Tile), (s.recov.marked.contains t.val = false ∨
      ∃ j ∈ s.jobs, (j.st != .admitted && j.block.tiles.contains t.val) = true) →
    Completes (.tileRetire t) s fun u => u = s) ∧
  (∀ (s : State) (x : UnitId) (c : Nat), retireCode x = some c → s.recov.retiredUnits.contains c = false →
    Completes (.unitRetired x) s fun u =>
      c ∈ u.recov.retiredUnits ∧ Output.report 0x8023 (unitLog x) ∈ u.sent ∧
      (∀ (h : W32) (j : Job), s.findJob h = some j → j.st = .running → j.holds x = true →
        ∃ k, u.findJob h = some k ∧ k.st = .quenching ∧ k.cause = 0x8023)) ∧
  (∀ (s : State) (x : UnitId), (∀ c, retireCode x = some c → s.recov.retiredUnits.contains c = true) →
    Completes (.unitRetired x) s fun u => u = s) ∧
  (∀ (s : State) (rail : Fin 16),
    Completes (.phaseFailed rail) s fun u =>
      mget u.recov.phases rail.val 0 = mget s.recov.phases rail.val 0 + 1 ∧ Output.report 0x8030 0x700 ∈ u.sent ∧
      (mget s.recov.phases rail.val 0 = 0 → u.power = s.power) ∧
      (1 ≤ mget s.recov.phases rail.val 0 →
        u.power.phaseFloor = 2 ∧ 2 ≤ u.planNow ∧ Output.report 0x8031 0x700 ∈ u.sent)) ∧
  (∀ s : State, s.power.off = false →
    Completes .lockstepMismatch s fun u =>
      u.mgmt.spdm = ⟨0, [], []⟩ ∧ u.mgmt.debug = none ∧ u.mgmt.challenge = none ∧
      (s.obs.recFrozen = false → u.obs.dumps = (s.obs.recorder :: s.obs.dumps).take 12) ∧
      (s.obs.recFrozen = true → u.obs.dumps = s.obs.dumps) ∧ u.obs.recFrozen = true ∧
      u.jobs = s.jobs ∧ u.threads = s.threads ∧ u.mem = s.mem) ∧
  (∀ s : State, s.power.off = true → Completes .lockstepMismatch s fun u => u = s)

/-- A sample looks at every running job whose dies let it, and none is taken in a low-power state; a cycle in three samples
running, a stall, or quiet on the fabric is declared, which keeps a dump and quenches the job; a unit that does not halt is
reset or reported (R459 to R464). -/
def Obligations.HangsAreDeclared : Prop :=
  (∀ s : State, s.samples = true →
    Completes .hangSample s fun u =>
      (∀ j ∈ s.jobs, j.st = .running → s.enDies j = true →
        ∃ x ∈ u.recov.hang, x.handle = j.handle ∧ x.sig = s.cycleOf j ∧ (s.cycleOf j = [] → x.cycles = 0) ∧
          (s.cycleOf j ≠ [] → 0 < x.cycles) ∧ (s.jobStalled j = false → x.stall = 0) ∧ (s.jobStalled j = true → 0 < x.stall) ∧
          (s.quiet j = false → x.quiet = 0) ∧ (s.quiet j = true → 0 < x.quiet)) ∧
      (∀ x ∈ u.recov.hang, ∃ j ∈ s.jobs, x.handle = j.handle ∧ j.st = .running) ∧ u.jobs = s.jobs ∧ u.mem = s.mem) ∧
  (∀ s : State, s.samples = false → Completes .hangSample s fun u => u = s) ∧
  (∀ (s : State) (h : W32) (j : Job) (x : HangJob), s.findJob h = some j → j.runs = true → s.samples = true →
    s.recov.hang.find? (fun x => x.handle == h) = some x →
    (3 ≤ x.cycles → Completes (.hangDeclared h) s fun u =>
      (∃ k, u.findJob h = some k ∧ k.st = .quenching ∧ k.cause = 0x8001) ∧ Output.report 0x8001 0x503 ∈ u.sent ∧
      u.obs.recFrozen = true) ∧
    (x.stall ≠ 0 → s.jobStalled j = true → Completes (.stallDeclared h) s fun u =>
      (∃ k, u.findJob h = some k ∧ k.st = .quenching ∧ k.cause = 0x8001) ∧ Output.report 0x8001 0x503 ∈ u.sent ∧
      u.obs.recFrozen = true) ∧
    (x.quiet ≠ 0 → s.quiet j = true → Completes (.fabricQuiet h) s fun u =>
      (∃ k, u.findJob h = some k ∧ k.st = .quenching ∧ k.cause = 0x8002) ∧ Output.report 0x8002 0x503 ∈ u.sent ∧
      u.obs.recFrozen = true)) ∧
  (∀ (s : State) (h : W32), (∀ j x, s.findJob h = some j → s.recov.hang.find? (fun x => x.handle == h) = some x →
      j.runs = true → s.samples = true →
      x.cycles < 3 ∧ (x.stall = 0 ∨ s.jobStalled j = false) ∧ (x.quiet = 0 ∨ s.quiet j = false)) →
    ∀ i ∈ [Instr.hangDeclared h, .stallDeclared h, .fabricQuiet h], Completes i s fun u => u = s) ∧
  (∀ (s : State) (x : UnitId), (∀ j ∈ s.jobs, s.notHalted x j = false) → Completes (.escalateReset x) s fun u => u = s) ∧
  (∀ (s : State) (x : UnitId) (j : Job), s.jobs.find? (fun j => s.notHalted x j) = some j →
    s.flag (Regs.hangCfg (unitDie x)) 1 = false →
    Completes (.escalateReset x) s fun u =>
      Output.report j.cause (unitLog x) ∈ u.sent ∧ u.jobs = s.jobs ∧ u.threads = s.threads ∧ u.mem = s.mem) ∧
  (∀ (s : State) (x : UnitId) (j : Job), s.jobs.find? (fun j => s.notHalted x j) = some j →
    s.flag (Regs.hangCfg (unitDie x)) 1 = true →
    Completes (.escalateReset x) s fun u =>
      exec (match x with
        | .tile t => .tileReset t
        | .solver e => .solverReset e
        | .update n => .dieReset ⟨n.val / 2, by omega⟩
        | .ni d => .niReset d
        | .die d => .dieReset d) s = .next u)

/-! ### Resets -/

/-- A reset clears its domain: the stores and threads of a tile, the operation of a solver engine, the occurrences of
a network interface, a channel's state, a port's link, everything of a die but its stacks. The jobs that ran there
are quenched, with the code of a request: the model's choice (R465, R448). A module reset ends every job, returns
the set-up registers to reset, keeps stacked memory, retained slots, the host's memory and flash, and is reported;
a summary closes the second (R466, R468). -/
def Obligations.ResetsClearTheirDomain : Prop :=
  (∀ (s : State) (t : Tile), s.compute = true →
    Completes (.tileReset t) s fun u =>
      (∀ o, o < 0x400000 → u.rd8 (scratchAddr t.val o) = 0) ∧ (∀ o, o < 0x40000 → u.rd8 (tbufAddr t.val o) = 0) ∧
      (∀ n : Fin 28, (u.thread (t.val * 28 + n.val)).st = .free ∨ (u.thread (t.val * 28 + n.val)).st = .halted) ∧
      mfind u.matrix.holder t.val = none ∧ mget u.store.dcache t.val [] = [] ∧ (∀ c ∈ u.enf, c.1 / 2 ≠ t.val) ∧
      (∀ o, Regs.til t.val ≤ o → o < Regs.til t.val + 0x1000 → u.reg o = Regs.resetValue o) ∧
      (∀ (h : W32) (j : Job), s.findJob h = some j → j.runs = true → j.block.tiles.contains t.val = true →
        ∃ k, u.findJob h = some k ∧ k.st = .quenching ∧ k.cause = 0x1401)) ∧
  (∀ (s : State) (e : Sys2Proof.Engine), s.compute = true →
    Completes (.solverReset e) s fun u =>
      u.slvEngine e.val = ⟨[], none⟩ ∧ u.mem = s.mem ∧
      (∀ n, n < 2 → (u.thread (7168 + 2 * e.val + n)).st = .free ∨ (u.thread (7168 + 2 * e.val + n)).st = .halted) ∧
      (∀ (h : W32) (j : Job), s.findJob h = some j → j.runs = true → j.engines.contains e.val = true →
        ∃ k, u.findJob h = some k ∧ k.st = .quenching ∧ k.cause = 0x1401)) ∧
  (∀ (s : State) (d : Die), s.compute = true →
    Completes (.niReset d) s fun u =>
      (∀ o ∈ u.ni.occs, o.die ≠ d.val) ∧ (∀ g ∈ u.ni.serve, g.die ≠ d.val) ∧ (∀ v ∈ u.ni.joins, v.die ≠ d.val) ∧
      u.upd.retained = s.upd.retained ∧
      (∀ (h : W32) (j : Job), s.findJob h = some j → j.runs = true → s.ni.occs.any (fun o => o.job == h && o.die == d.val) = true →
        ∃ k, u.findJob h = some k ∧ k.st = .quenching ∧ k.cause = 0x1401)) ∧
  (∀ (s : State) (x : Stack) (ch : Fin 128), s.compute = true →
    (Completes (.channelReset x ch true) s fun u =>
      (s.chState x.val (s.physCh x.val ch.val) = .down → u.chState x.val (s.physCh x.val ch.val) = .ok) ∧
      (s.chState x.val (s.physCh x.val ch.val) ≠ .down → u.stk.chSt = s.stk.chSt) ∧ u.mem = s.mem) ∧
    (Completes (.channelReset x ch false) s fun u =>
      u.chState x.val (s.physCh x.val ch.val) = .down ∧ u.mem = s.mem)) ∧
  (∀ (s : State) (p : FPort), p.val < 7 →
    Completes (.portReset p) s fun u =>
      (u.link p.val).st = (if (s.link p.val).st = .disabled then .disabled else .down) ∧ (u.link p.val).retry = [] ∧
      (u.link p.val).trainFails = 0 ∧ u.mem = s.mem) ∧
  (∀ (s : State) (p : FPort), 7 ≤ p.val →
    Completes (.portReset p) s fun u =>
      mget u.fabric.eth (p.val - 7) 1 = 1 ∧ (∀ q ∈ u.fabric.pairs, q.up.getD (p.val - 7) false = false) ∧ u.mem = s.mem) ∧
  (∀ (s : State) (d o : Die), s.compute = true → ∀ i ∈ ([.dieReset d, .dieLinkReplayLimit d o] : List Instr),
    Completes i s fun u =>
      (∀ t x, t < 256 → t / 64 = d.val → x < 0x400000 → u.rd8 (scratchAddr t x) = 0) ∧
      (∀ x, x < 0x8000000 → u.rd8 (sharedAddr d.val x) = 0) ∧ (∀ c ∈ u.sched, c.1 / 1024 ≠ d.val) ∧
      (∀ c ∈ u.ni.occs, c.die ≠ d.val) ∧ (∀ p ∈ State.dieGPorts d.val, (u.link p).st = .down ∨ (u.link p).st = .disabled) ∧
      (∀ (h : W32) (j : Job), s.findJob h = some j → j.runs = true → j.usesDie d.val = true →
        ∃ k, u.findJob h = some k ∧ k.st = .quenching ∧ k.cause = 0x1401)) ∧
  (∀ (s : State) (t : Tile) (e : Sys2Proof.Engine) (d o : Die) (x : Stack) (ch : Fin 128) (up : Bool), s.compute = false →
    ∀ i ∈ [Instr.tileReset t, .solverReset e, .niReset d, .channelReset x ch up, .dieReset d, .dieLinkReplayLimit d o],
    Completes i s fun u => u = s) ∧
  (∀ s : State, s.power.off = false → s.imagesGood = true →
    Completes .moduleReset s fun u =>
      u.setup = [] ∧ u.jobs = [] ∧ u.threads = [] ∧ u.power.st = 0 ∧ u.power.held = false ∧
      (∀ a x o, placeOf a = .stack x o → u.rd8 a = s.rd8 a) ∧ (∀ a t o, placeOf a = .scratch t o → u.rd8 a = 0) ∧
      (∀ k, mfind s.upd.retained k ≠ none → mfind u.upd.retained k ≠ none) ∧ u.hostMem = s.hostMem ∧
      u.mgmt.banks = s.mgmt.banks ∧ u.mgmt.records = s.mgmt.records ∧ u.recov.recoveries = s.recov.recoveries + 1 ∧
      Output.report 0x8042 0x700 ∈ u.sent) ∧
  (∀ s : State, s.power.off = false → (s.bootImage 1).1 = none →
    Completes .moduleReset s fun u => u.jobs = [] ∧ u.power.held = true ∧ u.power.hot = true ∧ u.mgmt.records = s.mgmt.records) ∧
  (∀ s : State, s.power.off = true → ∀ i ∈ [Instr.moduleReset, .logSummary], Completes i s fun u => u = s) ∧
  (∀ s : State, s.power.off = false → s.obs.counted.length < 2097152 →
    Completes .logSummary s fun u =>
      u.obs.counted = [] ∧ u.obs.recFrozen = false ∧ u.jobs = s.jobs ∧ u.mem = s.mem ∧
      (∀ c ∈ s.obs.counted, c.2 ≠ 0 → ∃ r ∈ u.obs.log, r.code = BitVec.ofNat 16 (c.1 / 65536)))

/-! ### Management and security -/

/-- Register messages: a read answers the register's bytes and changes nothing; a write from an accepted source
changes the register's RW bits; POWER asks for a power state and wakes toward a shallower one; RESET acts on its
domain as that domain's reset does; an unaccepted message is answered DEBUG_DENIED, and a controller that does not
run answers nothing (R436, R444, R465, R475, R478, R479). An unmapped offset reads 0 and is logged; a size or
alignment that does not fit is answered empty: DEDUCED, log 75. The log: an entry is answered as its 32 bytes by
its number, to any source, and a number that the log does not hold empty; a dump only inside a debug session
(R468, R479). The empty answer is DEDUCED, log 75. -/
def Obligations.MessagesReachRegistersAndLog : Prop :=
  (∀ (s : State) (via : MsgVia) (o : W32) (d : Regs.Desc), s.mgmtUp = true →
    (plainWord o.toNat d → Completes (.readReg via o 4) s fun u => s.saidOnly u 0 (leBytes 4 (s.readWord o.toNat))) ∧
    (plainLong o.toNat d → Completes (.readReg via o 8) s fun u => s.saidOnly u 0 (leBytes 8 (s.readWord o.toNat))) ∧
    (o.toNat % 4 = 0 → Regs.desc o.toNat = none → Regs.desc (o.toNat - 4) = none →
      Completes (.readReg via o 4) s fun u =>
        Output.answer 0 [0, 0, 0, 0] ∈ u.sent ∧ u.lastLog = some 0x1105 ∧ u.mem = s.mem ∧ u.jobs = s.jobs ∧ u.threads = s.threads) ∧
    (∀ n : BitVec 8, (n ≠ 4 ∧ n ≠ 8) ∨ o.toNat % n.toNat ≠ 0 →
      Completes (.readReg via o n) s fun u => s.saidOnly u 0 [])) ∧
  (∀ (s : State) (via : MsgVia) (o : W32) (d : Regs.Desc) (v : W64), s.accepts via →
    (∀ n : BitVec 8, (n ≠ 4 ∧ n ≠ 8) ∨ o.toNat % n.toNat ≠ 0 →
      Completes (.writeReg via o n v) s fun u => s.saidOnly u 0 []) ∧
    (s.writesNow .mgmt →
      (plainWord o.toNat d → Completes (.writeReg via o 4 v) s fun u =>
        u.reg o.toNat &&& BitVec.ofNat 64 d.rw = BitVec.ofNat 64 (v.toNat % 2 ^ 32) &&& BitVec.ofNat 64 d.rw ∧
        (∀ x, x ≠ o.toNat → u.reg x = s.reg x) ∧ Output.answer 0 [] ∈ u.sent ∧ u.mem = s.mem ∧ u.jobs = s.jobs) ∧
      (plainLong o.toNat d → Completes (.writeReg via o 8 v) s fun u =>
        u.reg o.toNat &&& BitVec.ofNat 64 d.rw = v &&& BitVec.ofNat 64 d.rw ∧
        (∀ x, x ≠ o.toNat → u.reg x = s.reg x) ∧ Output.answer 0 [] ∈ u.sent ∧ u.mem = s.mem ∧ u.jobs = s.jobs))) ∧
  (∀ (s : State) (via : MsgVia), s.accepts via → s.writesNow .mgmt →
    (∀ (t : Fin 5) (force : Bool), s.power.st = 0 → s.power.inProgress = none → t ≠ 0 → (t = 1 → s.anyBound = false) →
      (3 ≤ t.val → s.jobs = [] ∨ force = true) →
      Completes (.mgmtPower via (BitVec.ofNat 3 t.val) force none) s fun u =>
        u.regNat Regs.pwrReq = t.val + (if force then 8 else 0) ∧ u.power.st = 4 ∧ u.power.target.toNat = t.val ∧
        u.power.inProgress = some ⟨t.val, force, none, none⟩ ∧ Output.answer 0 [] ∈ u.sent ∧ u.jobs = s.jobs) ∧
    (∀ t : Fin 2, s.power.st = 1 ∨ s.power.st = 2 → t.val < s.power.st.toNat → s.wakeEnabled 3 = true →
      Completes (.mgmtPower via (BitVec.ofNat 3 t.val) false none) s fun u =>
        u.power.st = 5 ∧ u.power.origin = s.power.st ∧ Output.answer 0 [] ∈ u.sent ∧ u.jobs = s.jobs)) ∧
  (∀ (s : State) (via : MsgVia) (d : Die), s.accepts via →
    (∀ domain unit, Completes (.reset via d domain unit true) s fun u =>
      exec .moduleReset s = .next { u with sent := u.sent.tail } ∧ u.sent.head? = some (.answer 0 [])) ∧
    (s.writesNow .mgmt → s.compute = true →
      (∀ (x : Nat × Nat × Instr), ((∃ n : Fin 64, x = (1, n.val, .tileReset ⟨64 * d.val + n.val, by omega⟩)) ∨
          (∃ n : Fin 4, x = (2, n.val, .solverReset ⟨4 * d.val + n.val, by omega⟩)) ∨ x = (3, 0, .niReset d) ∨
          (∃ p : FPort, x = (5, if p.val < 7 then p.val else p.val + 1, .portReset p)) ∨ x = (6, 0, .dieReset d)) →
        Completes (.reset via d (BitVec.ofNat 3 x.1) (BitVec.ofNat 8 x.2.1) false) s fun u =>
          exec x.2.2 (s.setRegNat (Regs.dieReset d.val) (x.1 + 8 * x.2.1)) = .next { u with sent := u.sent.tail } ∧
          u.sent.head? = some (.answer 0 [])) ∧
      (∀ ch : BitVec 8, Completes (.reset via d 4 ch false) s fun u =>
        ∃ up w, exec (.channelReset ⟨2 * d.val + ch.toNat / 128, by omega⟩ ⟨ch.toNat % 128, by omega⟩ up)
            (s.setRegNat (Regs.dieReset d.val) (4 + 8 * ch.toNat)) = .next w ∧
          u.stk = w.stk ∧ u.jobs = w.jobs ∧ u.mem = w.mem ∧ u.threads = w.threads ∧ Output.answer 0 [] ∈ u.sent) ∧
      (∀ n : Fin 64, Completes (.reset via d 1 (BitVec.ofNat 8 n.val) false) s fun u =>
        Output.answer 0 [] ∈ u.sent ∧ (∀ o, o < 0x400000 → u.rd8 (scratchAddr (64 * d.val + n.val) o) = 0)))) ∧
  (∀ (s : State) (via : MsgVia), s.mgmtUp = true → s.authorised via = false →
    ∀ (o : W32) (n : BitVec 8) (v : W64) (t : BitVec 3) (b : Bool) (w : Option W64) (d : Die) (dom : BitVec 3) (x : BitVec 8)
      (r : ConfigRecord) (i : W32) (c : DebugCert) (len : W16) (data : List Byte) (kind : Fin 3) (im : FwImage),
    ∀ m ∈ ([.writeReg via o n v, .mgmtPower via t b w, .reset via d dom x b, .record via r, .logRead via true i, .debugChallenge via,
        .debugOpen via c, .debugClose via, .memRead via v len, .memWrite via v data, .firmwareUpdate via kind im] : List Instr),
      Completes m s fun u => s.denied u) ∧
  (∀ (s : State) (via : MsgVia), s.mgmtUp = false → ∀ m ∈ State.messages via, Completes m s fun u => u = s) ∧
  (∀ (s : State) (via : MsgVia) (n : W32), s.mgmtUp = true →
    (∀ r, s.obs.log.find? (fun r => r.seq.toNat == n.toNat) = some r →
      Completes (.logRead via false n) s fun u => s.saidOnly u 0 r.entry ∧ r.entry.length = 32 ∧
        r.entry.take 2 = leBytes 2 r.code.toNat ∧ (r.entry.drop 4).take 4 = leBytes 4 r.handle.toNat ∧
        (r.entry.drop 8).take 8 = leBytes 8 r.beat.toNat ∧ (r.entry.drop 16).take 8 = leBytes 8 r.detail.toNat ∧
        (r.entry.drop 24).take 4 = leBytes 4 r.seq.toNat) ∧
    (s.obs.log.find? (fun r => r.seq.toNat == n.toNat) = none →
      Completes (.logRead via false n) s fun u => s.saidOnly u 0 [])) ∧
  (∀ (s : State) (via : MsgVia) (n : W32), s.accepts via →
    (∀ d, s.mgmt.debug = some d → d.level ≠ 0 →
      Completes (.logRead via true n) s fun u =>
        s.saidOnly u 0 ((s.obs.dumps.getD n.toNat []).flatMap (fun r => r.dumpEntry))) ∧
    ((s.mgmt.debug = none ∨ ∃ d, s.mgmt.debug = some d ∧ d.level = 0) →
      Completes (.logRead via true n) s fun u => s.denied u))

/-- A configuration record that passes every check is in force: its counter rises, M3 is extended and its kind acts,
an IDENTITY record at the next cold boot; any other is refused and changes nothing of the management state (R482,
R483). The lifecycle state changes only by the transitions listed: a record of kind 5 from a signer of the
transition, whose condition holds, moves it one state on, extends M3, ends the debug session and is reported; any
other transition is refused; on entry to RETURN every store is zeroed and the owner is erased (R492, R493). -/
def Obligations.RecordsAndLifecycle : Prop :=
  (∀ (s : State) (via : MsgVia) (r : ConfigRecord), s.accepts via → s.recordHolds r → r.kind ≠ 5 →
    Completes (.record via r) s fun u =>
      mget u.mgmt.counters r.kind.toNat 0 = r.counter ∧ mfind u.mgmt.records r.kind.toNat = some r.payload ∧
      mget u.mgmt.meas 3 0 = Sha.digest (State.digestBytes (mget s.mgmt.meas 3 0) ++ State.digestBytes r.digest) ∧
      (∀ k, k ≠ r.kind.toNat → mget u.mgmt.counters k 0 = mget s.mgmt.counters k 0 ∧ mfind u.mgmt.records k = mfind s.mgmt.records k) ∧
      (r.kind = 2 → u.mgmt.ownerKey = true) ∧
      (r.kind = 3 → u.mgmt.sysId = BitVec.ofNat 32 (leNat (r.payload.take 4)) ∧ u.fabric.sysId = u.mgmt.sysId) ∧
      (r.kind ≠ 3 → u.mgmt.sysId = s.mgmt.sysId ∧ u.fabric = s.fabric) ∧
      (r.kind = 4 → u.mgmt.rtcValid = true ∧ u.mgmt.rtc = BitVec.ofNat 64 (leNat (r.payload.take 8) % 2 ^ 63)) ∧
      (r.kind ≠ 4 → u.mgmt.rtc = s.mgmt.rtc) ∧ u.mgmt.identity = s.mgmt.identity ∧ u.mgmt.serial = s.mgmt.serial ∧
      Output.answer 0 [] ∈ u.sent ∧ u.mgmt.lifecycle = s.mgmt.lifecycle ∧ u.jobs = s.jobs ∧ u.mem = s.mem) ∧
  (∀ (s : State) (r : ConfigRecord), r.kind ≠ 5 →
    (s.signerOk r = true ↔
      (r.kind = 1 ∧ r.signer = 0 ∧ s.mgmt.lifecycle = 0) ∨
      ((r.kind = 2 ∨ r.kind = 4) ∧ (r.signer = 0 ∨ (r.signer = 1 ∧ s.mgmt.ownerKey = true))) ∨
      (r.kind = 3 ∧ r.signer = 1 ∧ s.mgmt.ownerKey = true) ∨ (r.kind = 6 ∧ r.signer = 2))) ∧
  (∀ (s : State) (via : MsgVia) (r : ConfigRecord), s.accepts via →
    (r.sigOk = false ∨ s.signerOk r = false ∨ r.serial ≠ s.mgmt.serial ∨ r.counter ≤ mget s.mgmt.counters r.kind.toNat 0 ∨
      r.wellFormed = false ∨ (r.kind = 5 ∧ s.lifecycleOk r.payload = false)) →
    Completes (.record via r) s fun u =>
      u.mgmt = s.mgmt ∧ u.fabric = s.fabric ∧ u.jobs = s.jobs ∧ u.mem = s.mem ∧ Output.report 0x7103 0x700 ∈ u.sent ∧
      Output.answer 0x7103 [] ∈ u.sent) ∧
  (∀ (s : State) (via : MsgVia) (r : ConfigRecord), s.accepts via → r.kind = 5 → r.sigOk = true → r.serial = s.mgmt.serial →
    mget s.mgmt.counters 5 0 < r.counter → r.wellFormed = true →
    ((s.mgmt.lifecycle = 0 ∧ r.payload.getD 0 0 = 1 ∧ r.signer = 0 ∧ (s.mgmt.ownerKey = true ∨ Config.ownerRequired = false)) ∨
      (s.mgmt.lifecycle = 1 ∧ r.payload.getD 0 0 = 2 ∧ (r.signer = 0 ∨ (r.signer = 1 ∧ s.mgmt.ownerKey = true)) ∧
        (s.jobs = [] ∨ r.payload.getD 1 0 = 1)) ∨
      (s.mgmt.lifecycle = 2 ∧ r.payload.getD 0 0 = 0 ∧ r.signer = 0)) →
    Completes (.record via r) s fun u =>
      u.mgmt.lifecycle.toNat = (s.mgmt.lifecycle.toNat + 1) % 3 ∧ u.mgmt.debug = none ∧
      (s.mgmt.debug ≠ none → Output.report 0x7304 0x700 ∈ u.sent) ∧ mget u.mgmt.counters 5 0 = r.counter ∧
      mget u.mgmt.meas 3 0 = Sha.digest (State.digestBytes (mget s.mgmt.meas 3 0) ++ State.digestBytes r.digest) ∧
      Output.report 0x7401 0x700 ∈ u.sent ∧ Output.answer 0 [] ∈ u.sent ∧
      (s.mgmt.lifecycle ≠ 1 → u.mem = s.mem ∧ u.jobs = s.jobs ∧ u.mgmt.ownerKey = s.mgmt.ownerKey) ∧
      (s.mgmt.lifecycle = 1 → u.mem = [] ∧ u.mgmt.ownerKey = false ∧ mfind u.mgmt.records 2 = none ∧ u.obs.dumps = [] ∧
        u.ni.valid = [] ∧ u.upd.retained = [] ∧
        ((∀ c ∈ s.threads, ∀ j ∈ s.jobs, c.2.job = j.handle → c.2.st ≠ .free ∧ c.1 ∈ State.jobKeys j) → u.jobs = []))) ∧
  (∀ (s : State) (via : MsgVia) (r : ConfigRecord), s.accepts via → r.kind = 5 →
    (r.payload.getD 0 0).toNat ≠ (s.mgmt.lifecycle.toNat + 1) % 3 ∨ r.signer.toNat > 1 ∨ (s.mgmt.lifecycle ≠ 1 ∧ r.signer ≠ 0) ∨
      (s.mgmt.lifecycle = 0 ∧ s.mgmt.ownerKey = false ∧ Config.ownerRequired = true) ∨
      (s.mgmt.lifecycle = 1 ∧ s.jobs ≠ [] ∧ r.payload.getD 1 0 ≠ 1) →
    Completes (.record via r) s fun u =>
      u.mgmt = s.mgmt ∧ u.jobs = s.jobs ∧ u.mem = s.mem ∧ Output.report 0x7103 0x700 ∈ u.sent ∧ Output.answer 0x7103 [] ∈ u.sent)

/-- A debug session opens on a fresh challenge and a certificate that holds, one at a time, and ends when it is closed or
expires; the checks are made in their order; FULL alone reaches memory, in Run and Idle, and the console (R477, R494 to
R498). -/
def Obligations.DebugSessionsOpen : Prop :=
  (∀ (s : State) (via : MsgVia), s.accepts via →
    Completes (.debugChallenge via) s fun u =>
      ∃ c, u.mgmt.challenge = some c ∧ Output.answer 0 (State.digestBytes c) ∈ u.sent ∧ u.mgmt.debug = s.mgmt.debug) ∧
  (∀ (s : State) (x : W32) (c : DebugCert), s.accepts (.secured x) →
    let good := s.mgmt.challenge = some c.challenge ∧ c.chainOk = true ∧ (c.level = 1 ∨ c.level = 2) ∧ 60 ≤ c.maxSeconds ∧
      c.maxSeconds ≤ 86400 ∧ (c.ownerIssued = true → s.mgmt.lifecycle = 1 ∧ s.mgmt.ownerKey = true)
    let timely := s.mgmt.rtcValid = true ∧ c.notBefore ≤ s.mgmt.rtc ∧ s.mgmt.rtc ≤ c.notAfter
    let allowed := (c.scope = s.mgmt.serial ∨ (c.scope = 0 ∧ (c.level = 1 ∨ s.mgmt.lifecycle = 0))) ∧ s.mgmt.debug = none ∧
      s.debugPower = true
    (good → timely → allowed → Completes (.debugOpen (.secured x) c) s fun u =>
      u.mgmt.debug = some ⟨c.level, c.ownerIssued, c.maxSeconds, .secured x⟩ ∧ u.mgmt.challenge = none ∧
      mget u.mgmt.meas 3 0 = Sha.digest (State.digestBytes (mget s.mgmt.meas 3 0) ++ State.digestBytes c.digest) ∧
      Output.answer 0 [] ∈ u.sent ∧ u.mem = s.mem ∧ u.jobs = s.jobs) ∧
    (∀ code : W16, ((¬ good ∧ code = 0x7301) ∨ (good ∧ ¬ timely ∧ code = 0x7302) ∨ (good ∧ timely ∧ ¬ allowed ∧ code = 0x7303)) →
      Completes (.debugOpen (.secured x) c) s fun u =>
        u.mgmt.debug = s.mgmt.debug ∧ u.mgmt.challenge = none ∧ u.mgmt.meas = s.mgmt.meas ∧ Output.report code 0x700 ∈ u.sent ∧
        Output.answer code [] ∈ u.sent ∧ u.jobs = s.jobs)) ∧
  (∀ (s : State) (c : DebugCert), s.mgmtUp = true → Completes (.debugOpen .i3c c) s fun u => s.denied u) ∧
  (∀ s : State, (s.debugPower = true ↔ s.power.held = false ∧
    (s.power.st = 0 ∨ s.power.st = 1 ∨ s.power.st = 2 ∨ (s.power.st = 4 ∧ s.power.target.toNat < 3) ∨
      (s.power.st = 5 ∧ s.power.origin.toNat < 3)))) ∧
  (∀ (s : State) (via : MsgVia), s.accepts via →
    (s.mgmt.debug ≠ none → Completes (.debugClose via) s fun u =>
      u.mgmt.debug = none ∧ Output.report 0x7304 0x700 ∈ u.sent ∧ Output.answer 0 [] ∈ u.sent) ∧
    (s.mgmt.debug = none → Completes (.debugClose via) s fun u => s.denied u)) ∧
  (∀ (s : State),
    (s.mgmt.debug ≠ none → Completes .debugSessionExpire s fun u =>
      u.mgmt.debug = none ∧ Output.report 0x7302 0x700 ∈ u.sent ∧ Output.report 0x7304 0x700 ∈ u.sent) ∧
    (s.mgmt.debug = none → Completes .debugSessionExpire s fun u => u = s)) ∧
  (∀ (s : State) (via : MsgVia) (a : W64) (n : W16), s.accepts via → s.debugLevel = 2 → s.debugReach a.toNat n.toNat = true →
    (s.debugAcc a.toNat n.toNat = .ok → Completes (.memRead via a n) s fun u => s.saidOnly u 0 (s.load a.toNat n.toNat)) ∧
    (∀ code, s.debugAcc a.toNat n.toNat = .bad code → Completes (.memRead via a n) s fun u => s.saidOnly u code [])) ∧
  (∀ (s : State) (via : MsgVia) (a : W64) (data : List Byte), s.accepts via → s.debugLevel = 2 →
    s.debugReach a.toNat data.length = true →
    (s.debugAcc a.toNat data.length = .ok → windowOf a.toNat = 0 →
      ((∃ x o, placeOf a.toNat = .stack x o) ∨ (∃ t o, placeOf a.toNat = .scratch t o) ∨ (∃ d o, placeOf a.toNat = .shared d o)) →
      Completes (.memWrite via a data) s fun u =>
        (∀ i, i < data.length → u.rd8 (a.toNat + i) = data.getD i 0) ∧ s.keepsBut u [(a.toNat, data.length)] ∧
        Output.answer 0 [] ∈ u.sent ∧ u.jobs = s.jobs) ∧
    (∀ code, s.debugAcc a.toNat data.length = .bad code → Completes (.memWrite via a data) s fun u => s.saidOnly u code [])) ∧
  (∀ (s : State) (via : MsgVia) (a : W64) (n : W16) (data : List Byte), s.accepts via →
    ((s.debugLevel ≠ 2 ∨ n.toNat < 64 ∨ 4096 < n.toNat ∨ s.power.held = true ∨ 2 ≤ s.power.st.toNat ∨
        (∃ i < n.toNat, (∃ p o, placeOf (a.toNat + i) = .host p o) ∨ (∃ d p o, placeOf (a.toNat + i) = .pinView d p o))) →
      Completes (.memRead via a n) s fun u => s.denied u) ∧
    ((s.debugLevel ≠ 2 ∨ data.length < 64 ∨ 4096 < data.length ∨ s.power.held = true ∨ 2 ≤ s.power.st.toNat) →
      Completes (.memWrite via a data) s fun u => s.denied u)) ∧
  (∀ (s : State) (text : List Byte), s.mgmtUp = true →
    Completes (.consoleCommand text) s fun u =>
      u = if s.mgmt.lifecycle = 0 ∨ s.debugLevel = 2 then { s with sent := .console text :: s.sent } else s)

/-- The SPDM responder: version, capabilities and algorithms in order, then digests, certificates, a challenge and
measurements; a session opens with KEY_EXCHANGE and FINISH, is trusted by its certificate, and ends, taking the debug session
opened through it along (R478, R487, R495). The order of negotiation and the answer 0x7F to a request out of its turn or
without its subject are PRESUMED, log 68. -/
def Obligations.SpdmAnswersInTurn : Prop :=
  (∀ (s : State) (via : MsgVia), s.mgmtUp = true →
    Completes (.getVersion via) s fun u => u.mgmt.spdm.stage = 1 ∧ u.mgmt.spdm.sessions = s.mgmt.spdm.sessions ∧
      Output.answer 0 [0x12] ∈ u.sent) ∧
  (∀ (s : State) (via : MsgVia), s.negotiated 1 →
    Completes (.getCapabilities via) s fun u =>
      u.mgmt.spdm.stage = max s.mgmt.spdm.stage 2 ∧ u.mgmt.spdm.sessions = s.mgmt.spdm.sessions ∧ Output.answer 0 [] ∈ u.sent) ∧
  (∀ (s : State) (via : MsgVia) (a b c d : Bool), s.negotiated 2 →
    Completes (.negotiateAlgorithms via a b c d) s fun u =>
      if a ∧ b ∧ c ∧ d then u.mgmt.spdm.stage = 3 ∧ u.mgmt.spdm.sessions = s.mgmt.spdm.sessions ∧ Output.answer 0 [] ∈ u.sent
      else s.saidOnly u 0 [0x7F]) ∧
  (∀ (s : State) (via : MsgVia), s.negotiated 3 →
    (Completes (.getDigests via) s fun u =>
      s.saidOnly u 0 ((if s.mgmt.lifecycle = 2 then [0] else [0, 1, 2, 3, 4]).flatMap State.chainHash)) ∧
    (∀ slot : Fin 8,
      (slot = 0 ∨ (slot.val ≤ 4 ∧ s.mgmt.lifecycle ≠ 2) →
        (Completes (.getCertificate via slot) s fun u => s.saidOnly u 0 (Config.chainBytes slot.val)) ∧
        (∀ nonce, Completes (.challenge via slot nonce) s fun u =>
          u.mgmt = s.mgmt ∧ u.sent = .answer 0 (State.signed slot.val nonce (State.chainHash slot.val ++
            State.digestBytes (Config.freshNonce s.freeCtr))) :: s.sent)) ∧
      (4 < slot.val ∨ (slot ≠ 0 ∧ s.mgmt.lifecycle = 2) →
        ∀ i ∈ [Instr.getCertificate via slot, .challenge via slot 0], Completes i s fun u => s.saidOnly u 0 [0x7F])) ∧
    (∀ (index : BitVec 8) sign nonce data,
      (match index.toNat with
        | 0 => data = [18]
        | 17 => data = leBytes 1 s.mgmt.lifecycle.toNat ++ leBytes 1 s.debugLevel
            ++ leBytes 1 (match s.mgmt.debug with | some d => if d.owner then 1 else 0 | none => 0)
        | 18 => data = [0, 1, 2].flatMap (fun k => match s.fwBank k (s.bankOfKind k) with
            | some b => leBytes 4 b.version.toNat ++ leBytes 2 b.svn.toNat | none => leBytes 6 0)
        | 255 => data = ((List.range 18).map (fun i => i + 1)).flatMap (fun i => s.measBlock i)
        | n => n ≤ 16 ∧ data = State.digestBytes (mget s.mgmt.meas (n - 1) 0)) →
      Completes (.getMeasurements via index sign nonce) s fun u =>
        s.saidOnly u 0 (if sign then State.signed 0 nonce data else data)) ∧
    (∀ (index : BitVec 8) sign nonce, 18 < index.toNat → index ≠ 255 →
      Completes (.getMeasurements via index sign nonce) s fun u => s.saidOnly u 0 [0x7F])) ∧
  (∀ (s : State) (via : MsgVia) (x : W32), s.negotiated 3 → via ≠ .i3c →
    (s.mgmt.spdm.pendingKeys.contains x.toNat = false → mfind s.mgmt.spdm.sessions x.toNat = none →
      Completes (.keyExchange via x) s fun u =>
        u.mgmt.spdm.pendingKeys = x.toNat :: s.mgmt.spdm.pendingKeys ∧ u.mgmt.spdm.sessions = s.mgmt.spdm.sessions ∧
        Output.answer 0 [] ∈ u.sent) ∧
    (s.mgmt.spdm.pendingKeys.contains x.toNat = true ∨ mfind s.mgmt.spdm.sessions x.toNat ≠ none →
      Completes (.keyExchange via x) s fun u => s.saidOnly u 0 [0x7F]) ∧
    (s.mgmt.spdm.pendingKeys.contains x.toNat = true → ∀ owner adeys,
      Completes (.finish via x owner adeys) s fun u =>
        u.mgmt.spdm.pendingKeys.contains x.toNat = false ∧ Output.answer 0 [] ∈ u.sent ∧
        (∀ y, y ≠ x → u.authorised (.secured y) = s.authorised (.secured y)) ∧
        (u.authorised (.secured x) = true ↔
          ((owner = true ∧ s.mgmt.ownerKey = true) ∨ (adeys = true ∧ s.mgmt.lifecycle ≠ 1)))) ∧
    (s.mgmt.spdm.pendingKeys.contains x.toNat = false → ∀ owner adeys,
      Completes (.finish via x owner adeys) s fun u => s.saidOnly u 0 [0x7F]) ∧
    (∀ b, mfind s.mgmt.spdm.sessions x.toNat = some b →
      (Completes (.spdmHeartbeat via x) s fun u => s.saidOnly u 0 []) ∧
      (Completes (.endSession via x) s fun u =>
        u.authorised (.secured x) = false ∧ (∀ y, y ≠ x → u.authorised (.secured y) = s.authorised (.secured y)) ∧
        (∀ d, s.mgmt.debug = some d → d.via = .secured x → u.mgmt.debug = none) ∧
        (∀ d, s.mgmt.debug = some d → d.via ≠ .secured x → u.mgmt.debug = some d) ∧ Output.answer 0 [] ∈ u.sent)) ∧
    (mfind s.mgmt.spdm.sessions x.toNat = none →
      ∀ i ∈ [Instr.spdmHeartbeat via x, .endSession via x], Completes i s fun u => s.saidOnly u 0 [0x7F])) ∧
  (∀ (s : State) (x : W32), ∀ i ∈ [Instr.keyExchange .i3c x, .finish .i3c x true true, .endSession .i3c x, .spdmHeartbeat .i3c x],
    Completes i s fun u => u = s) ∧
  (∀ (s : State) (via : MsgVia) (x : W32) (slot : Fin 8) (n : BitVec 256) (m : BitVec 8) (a b : Bool), s.mgmtUp = true → via ≠ .i3c →
    ∀ i ∈ ([(1, .getCapabilities via), (2, .negotiateAlgorithms via true true true true), (3, .getDigests via), (3, .getCertificate via slot),
        (3, .challenge via slot n), (3, .getMeasurements via m a n), (3, .keyExchange via x), (3, .finish via x a b),
        (3, .endSession via x), (3, .spdmHeartbeat via x)] : List (Nat × Instr)),
      s.mgmt.spdm.stage < i.1 → Completes i.2 s fun u => s.saidOnly u 0 [0x7F]) ∧
  (∀ (s : State) (x : W32), s.mgmtUp = true →
    (∀ b, mfind s.mgmt.spdm.sessions x.toNat = some b →
      Completes (.spdmHeartbeatMissed x) s fun u =>
        u.authorised (.secured x) = false ∧ (∀ d, s.mgmt.debug = some d → d.via = .secured x → u.mgmt.debug = none) ∧
        (∀ d, s.mgmt.debug = some d → d.via ≠ .secured x → u.mgmt.debug = some d)) ∧
    (mfind s.mgmt.spdm.sessions x.toNat = none → Completes (.spdmHeartbeatMissed x) s fun u => u = s))

/-- An image goes to the inactive bank and is valid where its signature holds and its SVN is not below the minimum, and else
is reported; an activation that a commit asked for swaps the banks and extends the measurement, management firmware by a
restart of its domain; a unit that jobs hold reloads when they are gone, once more on a mismatch, and then fails (R486, R488 to
R490). -/
def Obligations.FirmwareIsReplaced : Prop :=
  (∀ (s : State) (via : MsgVia) (kind : Fin 3) (i : FwImage), s.accepts via → s.bankOfKind kind.val < 2 →
    Completes (.firmwareUpdate via kind i) s fun u =>
      u.fwBank kind.val (1 - s.bankOfKind kind.val) =
        some ⟨i.version, i.svn, i.digest, i.sigOk && decide (mget s.mgmt.minSvn kind.val 0 ≤ i.svn)⟩ ∧
      (∀ k b, k < 3 → b < 2 → (k ≠ kind.val ∨ b ≠ 1 - s.bankOfKind kind.val) → u.fwBank k b = s.fwBank k b) ∧
      u.mgmt.active = s.mgmt.active ∧ u.mgmt.activate = s.mgmt.activate ∧ u.jobs = s.jobs ∧
      (i.sigOk = true → mget s.mgmt.minSvn kind.val 0 ≤ i.svn → Output.answer 0 [] ∈ u.sent) ∧
      (i.sigOk = false ∨ i.svn < mget s.mgmt.minSvn kind.val 0 →
        Output.report 0x7102 0x700 ∈ u.sent ∧ Output.answer 0x7102 [] ∈ u.sent)) ∧
  (∀ (s : State) (mask : BitVec 3) (ok : Bool), mask &&& s.mgmt.activate = 0 → Completes (.activate mask ok) s fun u => u = s) ∧
  (∀ (s : State) (mask : BitVec 3) (ok : Bool), mask &&& s.mgmt.activate ≠ 0 → s.mgmtUp = true →
    Completes (.activate mask ok) s fun u =>
      u.mgmt.activate = s.mgmt.activate &&& ~~~mask ∧ u.jobs = s.jobs ∧ u.mem = s.mem ∧ u.threads = s.threads ∧
      (∀ kind : Fin 3, (mask &&& s.mgmt.activate).getLsbD kind.val = false → u.bankOfKind kind.val = s.bankOfKind kind.val) ∧
      (∀ kind : Fin 3, (mask &&& s.mgmt.activate).getLsbD kind.val = true → 1 ≤ kind.val →
        (∀ b, ok = true → s.nextImage kind.val = some b →
          u.bankOfKind kind.val = 1 - s.bankOfKind kind.val ∧
          mget u.mgmt.meas (3 + kind.val) 0 =
            Sha.digest (State.digestBytes (mget s.mgmt.meas (3 + kind.val) 0) ++ State.digestBytes b.digest) ∧
          (∀ x ∈ s.imageUnits kind.val, s.jobs.any (fun j => j.holds x) = true →
            ∃ r ∈ u.mgmt.reloads, r.kind = kind.val ∧ r.unit = x ∧ r.mark = s.nextHandle)) ∧
        (ok = false ∨ s.nextImage kind.val = none →
          u.bankOfKind kind.val = s.bankOfKind kind.val ∧ Output.report 0x8050 0x700 ∈ u.sent)) ∧
      ((mask &&& s.mgmt.activate).getLsbD 0 = true →
        u.mgmt.spdm.sessions = [] ∧ u.mgmt.debug = none ∧ u.mgmt.challenge = none ∧
        (∀ b, ok = true → s.nextImage 0 = some b → u.bankOfKind 0 = 1 - s.bankOfKind 0 ∧
          mget u.mgmt.meas 1 0 = Sha.digest (State.digestBytes 0 ++ State.digestBytes b.digest)) ∧
        (∀ b, ok = false ∨ s.nextImage 0 = none → s.bankOfKind 0 < 2 → s.fwBank 0 (s.bankOfKind 0) = some b → b.valid = true →
          mget s.mgmt.minSvn 0 0 ≤ b.svn → u.bankOfKind 0 = s.bankOfKind 0 ∧ Output.report 0x8050 0x700 ∈ u.sent))) ∧
  (∀ (s : State) (kind : Fin 3) (x : UnitId) (ok : Bool),
    (s.mgmt.reloads.find? (fun r => r.kind == kind.val && r.unit == x) = none →
      Completes (.unitReload kind x ok) s fun u => u = s) ∧
    (∀ r, s.mgmt.reloads.find? (fun r => r.kind == kind.val && r.unit == x) = some r →
      (s.jobs.any (fun j => decide (j.handle < r.mark) && j.holds x) = true →
        Completes (.unitReload kind x ok) s fun u => u = s) ∧
      (s.jobs.any (fun j => decide (j.handle < r.mark) && j.holds x) = false →
        (Completes (.unitReload kind x true) s fun u => u = { s with mgmt := { s.mgmt with reloads := s.mgmt.reloads.erase r } }) ∧
        (r.failed = false → Completes (.unitReload kind x false) s fun u =>
          Output.report 0x7101 (unitLog x) ∈ u.sent ∧ (∃ y ∈ u.mgmt.reloads, y.kind = kind.val ∧ y.unit = x ∧ y.failed = true) ∧
          u.jobs = s.jobs) ∧
        (r.failed = true → Completes (.unitReload kind x false) s fun u =>
          ∃ w, w.mgmt.reloads = s.mgmt.reloads.erase r ∧ w.jobs = s.jobs ∧ w.threads = s.threads ∧ w.recov = s.recov ∧
            Output.report 0x7101 (unitLog x) ∈ w.sent ∧
            exec (match x with | .tile t => .tileFault t | x => .unitRetired x) w = .next u))))

/-! ### Observation -/

/-- A sample writes one record of each bound thread of its unit into the ring, wherever it lies, drops and counts the
records that find the ring full, tells how many it dropped once there is room, and writes a GAP record after a
pause; a write that fails its check stops Sillage; SIL_CTRL starts it only with a sound ring; a write of OBS.CTRL
freezes or clears the counters and nothing else, and a frozen counter does not count (R503, R510 to R512, R517,
R518). A snapshot writes its header and then every bound thread, head, waiting send and port, 64 bytes each,
redacted where the port does not own the job, and changes no other byte; a write that may not be made sets FAILED
and ends it (R513 to R516). -/
def Obligations.SillageCountersAndSnapshots : Prop :=
  (∀ (s : State) (x : UnitId) (ks : List Nat) (w : Nat) (a : Nat → Nat), s.sampling x → sampledKeys s x = ks →
    s.obs.paused.contains (unitLog x) = false → s.obs.silDropped = 0 → w = s.regNat Regs.silWr → w < 2 ^ 32 → s.regNat Regs.silRd < 2 ^ 32 →
    (w + 2 ^ 32 - s.regNat Regs.silRd) % 2 ^ 32 + ks.length ≤ s.silSize →
    a = (fun i => s.regNat Regs.silBase + 32 * ((w + i) % 2 ^ 32 % s.silSize)) →
    (∀ i, i < ks.length → s.recordsAt (a i)) →
    Completes (.sillageSample x) s fun u =>
      (∀ i k, ks[i]? = some k → u.load (a i) 32 = s.silBytes 1 (Machine.keyIndex k) (keyUnit k) (s.thread k).st ((s.thread k).pc / 32)
        (s.thread k).job 0 ((mget s.obs.silSeq (unitDie x) 0 + i) % 2 ^ 32)) ∧
      u.regNat Regs.silWr = (w + ks.length) % 2 ^ 32 ∧ u.threads = s.threads ∧ u.jobs = s.jobs ∧
      (s.field Regs.silCfg 6 5 = 0 → s.keepsBut u ((List.range ks.length).map (fun i => (a i, 32))) ∧ u.hostMem = s.hostMem) ∧
      (s.field Regs.silCfg 6 5 ≠ 0 → u.mem = s.mem)) ∧
  (∀ (s : State) (x : UnitId), s.sampling x → s.obs.paused.contains (unitLog x) = false → s.silFull = true →
    Completes (.sillageSample x) s fun u =>
      u.regNat Regs.silDrop = (s.regNat Regs.silDrop + (sampledKeys s x).length) % 2 ^ 32 ∧
      u.obs.silDropped = s.obs.silDropped + (sampledKeys s x).length ∧ u.mem = s.mem ∧ u.hostMem = s.hostMem ∧ u.threads = s.threads ∧
      u.jobs = s.jobs) ∧
  (∀ (s : State) (x : UnitId) (k w : Nat) (a : Nat → Nat), s.sampling x → sampledKeys s x = [k] →
    s.obs.paused.contains (unitLog x) = false → s.obs.silDropped ≠ 0 → w = s.regNat Regs.silWr → w < 2 ^ 32 → s.regNat Regs.silRd < 2 ^ 32 →
    (w + 2 ^ 32 - s.regNat Regs.silRd) % 2 ^ 32 + 2 ≤ s.silSize →
    a = (fun i => s.regNat Regs.silBase + 32 * ((w + i) % 2 ^ 32 % s.silSize)) → s.recordsAt (a 0) → s.recordsAt (a 1) →
    Completes (.sillageSample x) s fun u =>
      u.load (a 0) 32 = s.silBytes 5 0 0 .ready 0 0 s.obs.silDropped (mget s.obs.silSeq (unitDie x) 0 % 2 ^ 32) ∧
      u.load (a 1) 32 = s.silBytes 1 (Machine.keyIndex k) (keyUnit k) (s.thread k).st ((s.thread k).pc / 32) (s.thread k).job 0
        ((mget s.obs.silSeq (unitDie x) 0 + 1) % 2 ^ 32) ∧
      u.obs.silDropped = 0 ∧ u.regNat Regs.silWr = (w + 2) % 2 ^ 32 ∧ u.threads = s.threads ∧ u.jobs = s.jobs) ∧
  (∀ (s : State) (x : UnitId) (a : Nat), s.sampling x → sampledKeys s x = [] → s.obs.paused.contains (unitLog x) = true →
    s.obs.silDropped = 0 → s.silFull = false →
    a = s.regNat Regs.silBase + 32 * (s.regNat Regs.silWr % s.silSize) → s.recordsAt a →
    Completes (.sillageSample x) s fun u =>
      u.load a 32 = s.silBytes 6 0 (unitLog x) .ready 0 0 0 (mget s.obs.silSeq (unitDie x) 0 % 2 ^ 32) ∧
      u.obs.paused.contains (unitLog x) = false ∧ u.regNat Regs.silWr = (s.regNat Regs.silWr + 1) % 2 ^ 32 ∧
      u.threads = s.threads ∧ u.jobs = s.jobs) ∧
  (∀ (s : State) (x : UnitId), s.sampling x → s.obs.paused.contains (unitLog x) = false → sampledKeys s x ≠ [] →
    s.obs.silDropped = 0 → s.silFull = false →
    s.placementOk (s.field Regs.silCfg 6 5) (s.field Regs.silCfg 31 16)
      (s.regNat Regs.silBase + 32 * (s.regNat Regs.silWr % s.silSize)) 32 = false →
    Completes (.sillageSample x) s fun u =>
      u.flag Regs.silCtrl 0 = false ∧ u.flag Regs.silCtrl 1 = true ∧ u.mem = s.mem ∧ u.hostMem = s.hostMem ∧ u.sent = s.sent ∧
      u.threads = s.threads ∧ u.jobs = s.jobs) ∧
  (∀ (s : State) (x : UnitId), s.flag Regs.silCtrl 0 = false ∨ s.silNames x = false ∨ s.clockRuns x = false →
    Completes (.sillageSample x) s fun u => u = s) ∧
  (∀ (s : State) (src : Src) (v : W64), s.writesNow src →
    Completes (.sillageEnable src v) s fun u =>
      u.field Regs.silCtrl 3 2 = bits v.toNat 3 2 ∧ u.field Regs.silCtrl 59 32 = bits v.toNat 59 32 ∧
      (s.flag Regs.silCtrl 0 = true → u.field Regs.silCtrl 8 4 = s.field Regs.silCtrl 8 4) ∧
      (s.flag Regs.silCtrl 0 = false → u.field Regs.silCtrl 8 4 = bits v.toNat 8 4) ∧
      (bit v.toNat 0 = false → u.flag Regs.silCtrl 0 = false ∧ u.flag Regs.silCtrl 1 = (s.flag Regs.silCtrl 1 && !bit v.toNat 1)) ∧
      (bit v.toNat 0 = true →
        let sound := 12 ≤ s.field Regs.silCfg 4 0 ∧ s.field Regs.silCfg 4 0 ≤ 28 ∧
          s.placementOk (s.field Regs.silCfg 6 5) (s.field Regs.silCfg 31 16) (s.regNat Regs.silBase)
            (32 * 2 ^ s.field Regs.silCfg 4 0) = true
        (sound → u.flag Regs.silCtrl 0 = true) ∧ (¬ sound → u.flag Regs.silCtrl 0 = false ∧ u.flag Regs.silCtrl 1 = true)) ∧
      (∀ o, o ≠ Regs.silCtrl → u.reg o = s.reg o) ∧ u.mem = s.mem ∧ u.jobs = s.jobs) ∧
  (∀ (s : State) (src : Src) (v : W32), s.writesNow src → bit v.toNat 1 = false →
    Completes (.freeze src v) s fun u =>
      u.flag Regs.obsCtrl 0 = bit v.toNat 0 ∧ (∀ o, o ≠ Regs.obsCtrl → u.reg o = s.reg o) ∧ u.mem = s.mem ∧ u.jobs = s.jobs) ∧
  (∀ (s : State) (src : Src) (v : W32), s.writesNow src → bit v.toNat 1 = true →
    Completes (.clear src v) s fun u =>
      u.flag Regs.obsCtrl 0 = bit v.toNat 0 ∧ (∀ o, State.isCounter o = true → u.reg o = Regs.resetValue o) ∧
      (∀ o, o ≠ Regs.obsCtrl → State.isCounter o = false → u.reg o = s.reg o) ∧ u.mem = s.mem ∧ u.jobs = s.jobs) ∧
  (∀ (s : State) (e : EPort) (m : W16) (q : QPair), s.pairOf m.toNat = some q → q.up.getD e.val false = true →
    Completes (.ethRetransmit e m) s fun u =>
      u.reg (Regs.obsPort (7 + e.val) 13) = if s.flag Regs.obsCtrl 0 then s.reg (Regs.obsPort (7 + e.val) 13)
        else BitVec.ofNat 64 (((s.reg (Regs.obsPort (7 + e.val) 13)).toNat + 1) % 2 ^ 48)) ∧
  (∀ (s : State) (src : Src) (v : W32) (l : List SnapRec) (b n : Nat), s.writesNow src → bit v.toNat 0 = true →
    bit v.toNat 2 = false → b = s.regNat Regs.snapBase →
    l = { State.snapBlank 0xFF 0x700 0 with count := s.snapBody.length } :: s.snapBody → n ≤ l.length →
    (∀ i, i < n → s.snapsAt (b + 64 * i)) →
    (n = l.length ∨ s.placementOk (s.field Regs.snapCfg 1 0) (s.field Regs.snapCfg 31 16) (b + 64 * n) 64 = false) →
    Completes (.snapshot src v) s fun u =>
      (∀ i r, i < n → l[i]? = some r → u.load (b + 64 * i) 64 =
        (if s.redacts (s.field Regs.snapCfg 1 0) r.handle then { r with waitValue := 0 } else r).bytes s.beat.pos i) ∧
      (s.field Regs.snapCfg 1 0 = 0 → s.keepsBut u [(b, 64 * n)] ∧ u.hostMem = s.hostMem) ∧
      (s.field Regs.snapCfg 1 0 ≠ 0 → u.mem = s.mem) ∧
      (n = l.length → u.setup = s.setup) ∧ (n < l.length → u.flag Regs.snapCtrl 2 = true) ∧
      (∀ o, o ≠ Regs.snapCtrl → u.reg o = s.reg o) ∧ u.threads = s.threads ∧ u.jobs = s.jobs) ∧
  (∀ (s : State) (src : Src) (v : W32), s.writesNow src → bit v.toNat 0 = false →
    Completes (.snapshot src v) s fun u =>
      u.flag Regs.snapCtrl 2 = (s.flag Regs.snapCtrl 2 && !bit v.toNat 2) ∧ (∀ o, o ≠ Regs.snapCtrl → u.reg o = s.reg o) ∧
      u.mem = s.mem ∧ u.hostMem = s.hostMem ∧ u.jobs = s.jobs) ∧
  (∀ (s : State) (k : Nat), k < 7232 → (s.thread k).st ≠ .free → s.snapBody.length < 8191 →
    ∃ r ∈ s.snapBody, r.die = keyDie k ∧ r.unit = keyUnit k ∧ r.thread = Machine.keyIndex k ∧ r.handle = (s.thread k).job ∧
      r.state = (s.thread k).st.code ∧ r.reason = (s.thread k).st.reason ∧ r.cmdIndex = (s.thread k).pc / 32)

/-! ### Frames -/

/-- What a command of a small family leaves as it was: a message that stays in the management controller, an event of
the links, of the stack controllers, of the beat, or of the power plan changes no state but the parts named. A
command of a list changes nothing of the beat, the handles, the images, the Accord contexts, the power state and
the management controller. -/
def Obligations.FamiliesKeepTheRest : Prop :=
  (∀ (c : Instr) (s u : State), exec c s = .next u →
    (staysInMgmt c = true → u = { s with setup := u.setup, mgmt := u.mgmt, obs := u.obs, freeCtr := u.freeCtr, sent := u.sent }) ∧
    (staysOnLinks c = true → u = { s with setup := u.setup, fabric := u.fabric, obs := u.obs, freeCtr := u.freeCtr, sent := u.sent }) ∧
    (staysInStacks c = true → u = { s with setup := u.setup, stk := u.stk, obs := u.obs, sent := u.sent }) ∧
    (∀ x ch, c = .stackRequestAccept x ch → (∀ r rest, mget s.stk.waiting (x.val * 128 + ch.val) [] = r :: rest → 7168 ≤ r.thread) →
      u = { s with setup := u.setup, stk := u.stk }) ∧
    (staysInBeat c = true → u = { s with setup := u.setup, beat := u.beat, sched := u.sched, hostMem := u.hostMem
                                         host := u.host, fabric := u.fabric, obs := u.obs, freeCtr := u.freeCtr, sent := u.sent }) ∧
    (staysInPower c = true → u = { s with power := u.power, mgmt := u.mgmt, obs := u.obs })) ∧
  (∀ (c : Instr) (s u : State), ofList c = true → exec c s = .next u →
    u.beat = s.beat ∧ u.nextHandle = s.nextHandle ∧ u.images = s.images ∧ u.accord = s.accord ∧ u.power = s.power ∧
    u.mgmt = s.mgmt)

/-! ### Rules stated as they stand -/

/-- Half of a guarded register cannot be written: each 32-bit access is a guard mismatch, which is logged and changes no
register (R10). -/
def Obligations.HalfOfAGuardedRegister : Prop :=
  (∀ (o : Nat) (d : Regs.Desc), Regs.desc o = some d → d.guarded = true → d.width = 64) ∧
  (∀ (s : State) (src : Src) (off : W32) (o : Nat) (d : Regs.Desc) (value : W64), s.writesNow src → o % 8 = 0 →
    (off.toNat = o ∨ off.toNat = o + 4) → Regs.desc o = some d → d.guarded = true →
    Completes (.registerWrite src off 4 value) s fun u =>
      u.lastLog = some 0x8010 ∧ u.setup = s.setup ∧ u.mem = s.mem ∧ u.jobs = s.jobs ∧ u.threads = s.threads ∧
      u.power = s.power ∧ u.accord = s.accord)

/-- Whatever NaN a code reads as, a NaN is written as the canonical code of its format (R104). -/
def Obligations.NansAreCanonical : Prop :=
  (∀ r : Sys2Proof.Num.Round, (Sys2Proof.Num.fp32.convert r .nan).1 = 0x7FC00000 ∧ (Sys2Proof.Num.bf16.convert r .nan).1 = 0x7FC0 ∧
    (Sys2Proof.Num.fp16.convert r .nan).1 = 0x7E00 ∧ (Sys2Proof.Num.e5m2.convert r .nan).1 = 0x7E ∧ (Sys2Proof.Num.e4m3.convert r .nan).1 = 0x7F) ∧
  (∀ code, 0x7F800000 < code % 2 ^ 31 → code < 2 ^ 32 → Sys2Proof.Num.fp32.decode code = .nan) ∧
  (∀ code, 0x7F80 < code % 2 ^ 15 → code < 2 ^ 16 → Sys2Proof.Num.bf16.decode code = .nan) ∧
  (∀ code, 0x7C00 < code % 2 ^ 15 → code < 2 ^ 16 → Sys2Proof.Num.fp16.decode code = .nan) ∧
  (∀ code, 0x7C < code % 2 ^ 7 → code < 2 ^ 8 → Sys2Proof.Num.e5m2.decode code = .nan) ∧
  (∀ code, code % 2 ^ 7 = 0x7F → code < 2 ^ 8 → Sys2Proof.Num.e4m3.decode code = .nan)

/-- An occurrence at the head whose record claims slots or triggered operations outside its window raises
CLAIM_OUTSIDE_WINDOW and its job is quenched (R325). -/
def Obligations.ClaimOutsideWindow : Prop :=
  ∀ (s : State) (d : Die) (h : W32) (j : Job) (n ki : Nat) (k : KeyRec), s.heads h d.val j n ki k → k.nkey = ~~~k.key →
    (j.niCount d.val < k.firstSlot d.val + k.slots d.val ∨ j.trigCount d.val < k.trig d.val) →
    Completes (.occurrenceStart d h) s fun u =>
      (∃ k, u.findJob h = some k ∧ k.st = .quenching ∧ k.cause = 0x4411) ∧
      (∃ r ∈ u.obs.log, r.code = 0x4411 ∧ r.handle = h)

/-- Where a channel needs replacement and its stack has no spare channel, that is reported, a degraded channel stays in
service and a channel that is down stays down; the module and its jobs run on, and an access to the channel that is down
meets its fault (R177). -/
def Obligations.ChannelSparesExhausted : Prop :=
  (∀ (s : State) (st : Stack) (ch : Fin 128) (wake : Bool), s.power.st = 2 →
    (s.chState st.val (s.physCh st.val ch.val) = .degraded ∨ s.chState st.val (s.physCh st.val ch.val) = .down) →
    s.freeSpare st.val = none →
    Completes (.channelReplace st ch wake) s fun u =>
      Output.report 0x3223 (0x600 + st.val) ∈ u.sent ∧ u.stk = s.stk ∧ u.jobs = s.jobs ∧ u.power = s.power) ∧
  (∀ (s : State) (st : Stack) (ch : Fin 128), s.chState st.val (s.physCh st.val ch.val) ≠ .down → s.freeSpare st.val = none →
    s.physCh st.val ch.val < 128 →
    Completes (.channelDown st ch) s fun u =>
      Output.report 0x3223 (0x600 + st.val) ∈ u.sent ∧ u.chState st.val (s.physCh st.val ch.val) = .down ∧ u.jobs = s.jobs ∧
      u.power = s.power) ∧
  (∀ (s : State) (a n st o : Nat), placeOf a = .stack st o → s.chState st (s.physCh st (channelOf o)) = .down → 0 < n →
    s.channelAcc a n = .bad 0x3220)

/-- RATCHET raises the minimum SVN of the kinds it names to that of their active images; older images are refused from
then on (R491). -/
def Obligations.RatchetRaisesMinimum : Prop :=
  (∀ (s : State) (mask : BitVec 3), s.writesNow .mgmt →
    Completes (.ratchet .mgmt mask (BitVec.ofNat 32 (2 ^ 32 - 1 - mask.toNat * 16))) s fun u =>
      (∀ (k : Nat) (b : FwBank), k < 3 → s.fwBank k (s.bankOfKind k) = some b →
        mget u.mgmt.minSvn k 0 =
          (if bit mask.toNat k ∧ mget s.mgmt.minSvn k 0 < b.svn then b.svn else mget s.mgmt.minSvn k 0)) ∧
      u.mgmt.activate = s.mgmt.activate ∧ u.mgmt.banks = s.mgmt.banks) ∧
  (∀ (s : State) (via : MsgVia) (kind : Fin 3) (i : FwImage), s.accepts via → i.svn < mget s.mgmt.minSvn kind.val 0 →
    Completes (.firmwareUpdate via kind i) s fun u =>
      u.fwBank kind.val (1 - s.bankOfKind kind.val) = some ⟨i.version, i.svn, i.digest, false⟩ ∧
      Output.answer 0x7102 [] ∈ u.sent ∧ u.nextImage kind.val = none)

/-- Only a configuration record changes the lifecycle state (R492). -/
def Obligations.OnlyRecordsMoveTheLifecycle : Prop :=
  ∀ (c : Instr) (s u : State), (∀ via r, c ≠ .record via r) → exec c s = .next u → u.mgmt.lifecycle = s.mgmt.lifecycle
end

