-- ==== Sys2Proof/Laws/Dispatch.lean ====
section
/-! SUPPORT. Every command answers a next state at every state, and a step is never a fault or a refusal. -/

namespace Sys2Proof.Machine

theorem exec_answers (c : Instr) (s : State) : ∃ u, exec c s = .next u := by
  cases c <;> exact ⟨_, rfl⟩

theorem step_answers (s : State) : ∃ u, step s = .next u := by
  unfold step
  split
  · exact ⟨_, rfl⟩
  · exact exec_answers _ _

end Sys2Proof.Machine
end

