-- ==== Sys2Proof/Laws/Memory.lean ====
section
/-! SUPPORT. Memory in its canonical form: every operation keeps it. Sparse maps: what a lookup gives after an
update. -/

namespace Sys2Proof.Machine

/-! ### Sparse maps -/

@[simp] theorem mfind_mset_same {α : Type} (m : SMap α) (k : Nat) (v : α) : mfind (mset m k v) k = some v := by
  induction m with
  | nil => simp [mset, mfind]
  | cons c r ih =>
    obtain ⟨x, w⟩ := c
    by_cases h : x = k <;> simp [mset, mfind, h, ih]

theorem mfind_mset_ne {α : Type} (m : SMap α) (k j : Nat) (v : α) (h : j ≠ k) : mfind (mset m k v) j = mfind m j := by
  induction m with
  | nil => simp [mset, mfind, h.symm]
  | cons c r ih =>
    obtain ⟨x, w⟩ := c
    by_cases hx : x = k
    · subst hx; simp [mset, mfind, h.symm]
    · by_cases hj : x = j
      · simp [mset, mfind, hj, h]
      · simp [mset, mfind, hx, hj, ih]

@[simp] theorem mget_mset_same {α : Type} (m : SMap α) (k : Nat) (v d : α) : mget (mset m k v) k d = v := by simp [mget]

theorem mget_mset_ne {α : Type} (m : SMap α) (k j : Nat) (v d : α) (h : j ≠ k) : mget (mset m k v) j d = mget m j d := by
  simp [mget, mfind_mset_ne m k j v h]

@[simp] theorem mfind_mdel_same {α : Type} (m : SMap α) (k : Nat) : mfind (mdel m k) k = none := by
  induction m with
  | nil => rfl
  | cons c r ih =>
    obtain ⟨x, w⟩ := c
    by_cases h : x = k
    · subst h; simpa [mdel] using ih
    · simpa [mdel, h, mfind] using ih

theorem mfind_mdel_ne {α : Type} (m : SMap α) (k j : Nat) (h : j ≠ k) : mfind (mdel m k) j = mfind m j := by
  induction m with
  | nil => rfl
  | cons c r ih =>
    obtain ⟨x, w⟩ := c
    by_cases hx : x = k
    · subst hx; simpa [mdel, mfind, h.symm] using ih
    · by_cases hj : x = j
      · simp [mdel, mfind, hj, h]
      · simpa [mdel, mfind, hx, hj] using ih

/-! ### The canonical form -/

theorem Memory.wfFrom_cons (lo : Option Nat) (x : Nat) (b : Byte) (r : List Host.Cell) :
    Memory.wfFrom lo ((x, b) :: r) = true ↔ (∀ l, lo = some l → l < x) ∧ b ≠ 0 ∧ Memory.wfFrom (some x) r = true := by
  cases lo <;> simp [Memory.wfFrom, and_assoc]

/-- A lower bound that holds may be lowered. -/
theorem Memory.wfFrom_weaken (lo : Nat) (lo' : Option Nat) (m : List Host.Cell) (h : Memory.wfFrom (some lo) m = true)
    (hl : ∀ l, lo' = some l → l ≤ lo) : Memory.wfFrom lo' m = true := by
  cases m with
  | nil => rfl
  | cons c r =>
    rw [Memory.wfFrom_cons] at h ⊢
    exact ⟨fun l e => Nat.lt_of_le_of_lt (hl l e) (h.1 lo rfl), h.2⟩

/-- Leaving entries out keeps the canonical form. -/
theorem Memory.wfFrom_filter (p : Host.Cell → Bool) (lo : Option Nat) (m : List Host.Cell)
    (h : Memory.wfFrom lo m = true) : Memory.wfFrom lo (m.filter p) = true := by
  induction m generalizing lo with
  | nil => rfl
  | cons c r ih =>
    rw [Memory.wfFrom_cons] at h
    by_cases hp : p c = true
    · rw [List.filter_cons_of_pos hp, Memory.wfFrom_cons]
      exact ⟨h.1, h.2.1, ih _ h.2.2⟩
    · rw [List.filter_cons_of_neg hp]
      exact ih _ (Memory.wfFrom_weaken _ lo r h.2.2 (fun l e => Nat.le_of_lt (h.1 l e)))

/-- Storing a byte that is not 0 keeps it. -/
theorem Memory.wfFrom_cellInsert (lo : Option Nat) (m : List Host.Cell) (a : Nat) (b : Byte) (hb : b ≠ 0)
    (h : Memory.wfFrom lo m = true) (hl : ∀ l, lo = some l → l < a) : Memory.wfFrom lo (cellInsert m a b) = true := by
  induction m generalizing lo with
  | nil => exact (Memory.wfFrom_cons ..).2 ⟨hl, hb, rfl⟩
  | cons c r ih =>
    obtain ⟨x, d⟩ := c
    have h' := (Memory.wfFrom_cons ..).1 h
    unfold cellInsert
    split
    · rename_i hax
      exact (Memory.wfFrom_cons ..).2 ⟨hl, hb, (Memory.wfFrom_cons ..).2 ⟨fun l e => by cases e; exact hax, h'.2⟩⟩
    · split
      · rename_i he
        subst he
        exact (Memory.wfFrom_cons ..).2 ⟨hl, hb, h'.2.2⟩
      · refine (Memory.wfFrom_cons ..).2 ⟨h'.1, h'.2.1, ih _ h'.2.2 (fun l e => ?_)⟩
        cases e
        omega

theorem Memory.wf_filter (p : Host.Cell → Bool) (m : List Host.Cell) (h : Memory.wf m = true) : Memory.wf (m.filter p) = true :=
  Memory.wfFrom_filter p none m h

theorem Memory.wf_cellPut (m : List Host.Cell) (a : Nat) (b : Byte) (h : Memory.wf m = true) : Memory.wf (cellPut m a b) = true := by
  unfold cellPut
  split
  · exact Memory.wf_filter _ m h
  · exact Memory.wfFrom_cellInsert none m a b (by assumption) h (fun _ e => nomatch e)

theorem Memory.wf_cellsPut (m : List Host.Cell) (a : Nat) (bs : List Byte) (h : Memory.wf m = true) :
    Memory.wf (cellsPut m a bs) = true := by
  induction bs generalizing m a with
  | nil => exact h
  | cons b r ih => exact ih _ _ (Memory.wf_cellPut m a b h)

theorem Memory.wf_cellsZero (m : List Host.Cell) (a n : Nat) (h : Memory.wf m = true) : Memory.wf (cellsZero m a n) = true :=
  Memory.wf_filter _ m h

/-- The memory of the state after reset has its canonical form. -/
theorem Memory.wf_reset : Memory.wf State.reset.mem = true := rfl

/-- Every operation of Machine/Ops.lean that writes memory keeps the form of both memories. -/
theorem State.wf_wr (s : State) (a : Nat) (bs : List Byte) (h : Memory.wf s.mem = true) : Memory.wf (s.wr a bs).mem = true :=
  Memory.wf_cellsPut s.mem a bs h
theorem State.wf_wrNat (s : State) (a n v : Nat) (h : Memory.wf s.mem = true) : Memory.wf (s.wrNat a n v).mem = true :=
  Memory.wf_cellsPut s.mem a _ h
theorem State.wf_wrFree (s : State) (a n : Nat) (h : Memory.wf s.mem = true) : Memory.wf (s.wrFree a n).mem = true :=
  Memory.wf_cellsPut s.mem a _ h
theorem State.wf_zero (s : State) (a n : Nat) (h : Memory.wf s.mem = true) : Memory.wf (s.zero a n).mem = true :=
  Memory.wf_cellsZero s.mem a n h
theorem State.wf_hostWr (s : State) (p bus : Nat) (bs : List Byte) (h : Memory.wf s.hostMem = true) :
    Memory.wf (s.hostWr p bus bs).hostMem = true :=
  Memory.wf_cellsPut s.hostMem _ bs h

end Sys2Proof.Machine
end

