-- ==== Sys2Proof/Laws/State.lean ====
section
/-! SUPPORT. What each field of the state holds after each of the plain updates: one lemma per field per update, so that
no proof unfolds a record update. -/

namespace Sys2Proof.Machine.State

section wr
variable (s : State) (a : Nat) (bs : List Byte)
@[simp] theorem wr_setup : (s.wr a bs).setup = s.setup := rfl
@[simp] theorem wr_beat : (s.wr a bs).beat = s.beat := rfl
@[simp] theorem wr_sched : (s.wr a bs).sched = s.sched := rfl
@[simp] theorem wr_threads : (s.wr a bs).threads = s.threads := rfl
@[simp] theorem wr_jobs : (s.wr a bs).jobs = s.jobs := rfl
@[simp] theorem wr_nextHandle : (s.wr a bs).nextHandle = s.nextHandle := rfl
@[simp] theorem wr_images : (s.wr a bs).images = s.images := rfl
@[simp] theorem wr_mem : (s.wr a bs).mem = cellsPut s.mem a bs := rfl
@[simp] theorem wr_hostMem : (s.wr a bs).hostMem = s.hostMem := rfl
@[simp] theorem wr_store : (s.wr a bs).store = s.store := rfl
@[simp] theorem wr_stk : (s.wr a bs).stk = s.stk := rfl
@[simp] theorem wr_matrix : (s.wr a bs).matrix = s.matrix := rfl
@[simp] theorem wr_enf : (s.wr a bs).enf = s.enf := rfl
@[simp] theorem wr_solver : (s.wr a bs).solver = s.solver := rfl
@[simp] theorem wr_fabric : (s.wr a bs).fabric = s.fabric := rfl
@[simp] theorem wr_ni : (s.wr a bs).ni = s.ni := rfl
@[simp] theorem wr_upd : (s.wr a bs).upd = s.upd := rfl
@[simp] theorem wr_host : (s.wr a bs).host = s.host := rfl
@[simp] theorem wr_accord : (s.wr a bs).accord = s.accord := rfl
@[simp] theorem wr_power : (s.wr a bs).power = s.power := rfl
@[simp] theorem wr_recov : (s.wr a bs).recov = s.recov := rfl
@[simp] theorem wr_mgmt : (s.wr a bs).mgmt = s.mgmt := rfl
@[simp] theorem wr_obs : (s.wr a bs).obs = s.obs := rfl
@[simp] theorem wr_freeCtr : (s.wr a bs).freeCtr = s.freeCtr := rfl
@[simp] theorem wr_sent : (s.wr a bs).sent = s.sent := rfl
@[simp] theorem wr_pending : (s.wr a bs).pending = s.pending := rfl
end wr

section wrNat
variable (s : State) (a n v : Nat)
@[simp] theorem wrNat_setup : (s.wrNat a n v).setup = s.setup := rfl
@[simp] theorem wrNat_beat : (s.wrNat a n v).beat = s.beat := rfl
@[simp] theorem wrNat_sched : (s.wrNat a n v).sched = s.sched := rfl
@[simp] theorem wrNat_threads : (s.wrNat a n v).threads = s.threads := rfl
@[simp] theorem wrNat_jobs : (s.wrNat a n v).jobs = s.jobs := rfl
@[simp] theorem wrNat_nextHandle : (s.wrNat a n v).nextHandle = s.nextHandle := rfl
@[simp] theorem wrNat_images : (s.wrNat a n v).images = s.images := rfl
@[simp] theorem wrNat_mem : (s.wrNat a n v).mem = cellsPut s.mem a (leBytes n v) := rfl
@[simp] theorem wrNat_hostMem : (s.wrNat a n v).hostMem = s.hostMem := rfl
@[simp] theorem wrNat_store : (s.wrNat a n v).store = s.store := rfl
@[simp] theorem wrNat_stk : (s.wrNat a n v).stk = s.stk := rfl
@[simp] theorem wrNat_matrix : (s.wrNat a n v).matrix = s.matrix := rfl
@[simp] theorem wrNat_enf : (s.wrNat a n v).enf = s.enf := rfl
@[simp] theorem wrNat_solver : (s.wrNat a n v).solver = s.solver := rfl
@[simp] theorem wrNat_fabric : (s.wrNat a n v).fabric = s.fabric := rfl
@[simp] theorem wrNat_ni : (s.wrNat a n v).ni = s.ni := rfl
@[simp] theorem wrNat_upd : (s.wrNat a n v).upd = s.upd := rfl
@[simp] theorem wrNat_host : (s.wrNat a n v).host = s.host := rfl
@[simp] theorem wrNat_accord : (s.wrNat a n v).accord = s.accord := rfl
@[simp] theorem wrNat_power : (s.wrNat a n v).power = s.power := rfl
@[simp] theorem wrNat_recov : (s.wrNat a n v).recov = s.recov := rfl
@[simp] theorem wrNat_mgmt : (s.wrNat a n v).mgmt = s.mgmt := rfl
@[simp] theorem wrNat_obs : (s.wrNat a n v).obs = s.obs := rfl
@[simp] theorem wrNat_freeCtr : (s.wrNat a n v).freeCtr = s.freeCtr := rfl
@[simp] theorem wrNat_sent : (s.wrNat a n v).sent = s.sent := rfl
@[simp] theorem wrNat_pending : (s.wrNat a n v).pending = s.pending := rfl
end wrNat

section zero
variable (s : State) (a n : Nat)
@[simp] theorem zero_setup : (s.zero a n).setup = s.setup := rfl
@[simp] theorem zero_beat : (s.zero a n).beat = s.beat := rfl
@[simp] theorem zero_sched : (s.zero a n).sched = s.sched := rfl
@[simp] theorem zero_threads : (s.zero a n).threads = s.threads := rfl
@[simp] theorem zero_jobs : (s.zero a n).jobs = s.jobs := rfl
@[simp] theorem zero_nextHandle : (s.zero a n).nextHandle = s.nextHandle := rfl
@[simp] theorem zero_images : (s.zero a n).images = s.images := rfl
@[simp] theorem zero_mem : (s.zero a n).mem = cellsZero s.mem a n := rfl
@[simp] theorem zero_hostMem : (s.zero a n).hostMem = s.hostMem := rfl
@[simp] theorem zero_store : (s.zero a n).store = s.store := rfl
@[simp] theorem zero_stk : (s.zero a n).stk = s.stk := rfl
@[simp] theorem zero_matrix : (s.zero a n).matrix = s.matrix := rfl
@[simp] theorem zero_enf : (s.zero a n).enf = s.enf := rfl
@[simp] theorem zero_solver : (s.zero a n).solver = s.solver := rfl
@[simp] theorem zero_fabric : (s.zero a n).fabric = s.fabric := rfl
@[simp] theorem zero_ni : (s.zero a n).ni = s.ni := rfl
@[simp] theorem zero_upd : (s.zero a n).upd = s.upd := rfl
@[simp] theorem zero_host : (s.zero a n).host = s.host := rfl
@[simp] theorem zero_accord : (s.zero a n).accord = s.accord := rfl
@[simp] theorem zero_power : (s.zero a n).power = s.power := rfl
@[simp] theorem zero_recov : (s.zero a n).recov = s.recov := rfl
@[simp] theorem zero_mgmt : (s.zero a n).mgmt = s.mgmt := rfl
@[simp] theorem zero_obs : (s.zero a n).obs = s.obs := rfl
@[simp] theorem zero_freeCtr : (s.zero a n).freeCtr = s.freeCtr := rfl
@[simp] theorem zero_sent : (s.zero a n).sent = s.sent := rfl
@[simp] theorem zero_pending : (s.zero a n).pending = s.pending := rfl
end zero

section hostWr
variable (s : State) (p b : Nat) (bs : List Byte)
@[simp] theorem hostWr_setup : (s.hostWr p b bs).setup = s.setup := rfl
@[simp] theorem hostWr_beat : (s.hostWr p b bs).beat = s.beat := rfl
@[simp] theorem hostWr_sched : (s.hostWr p b bs).sched = s.sched := rfl
@[simp] theorem hostWr_threads : (s.hostWr p b bs).threads = s.threads := rfl
@[simp] theorem hostWr_jobs : (s.hostWr p b bs).jobs = s.jobs := rfl
@[simp] theorem hostWr_nextHandle : (s.hostWr p b bs).nextHandle = s.nextHandle := rfl
@[simp] theorem hostWr_images : (s.hostWr p b bs).images = s.images := rfl
@[simp] theorem hostWr_mem : (s.hostWr p b bs).mem = s.mem := rfl
@[simp] theorem hostWr_hostMem : (s.hostWr p b bs).hostMem = cellsPut s.hostMem (hostKey p b) bs := rfl
@[simp] theorem hostWr_store : (s.hostWr p b bs).store = s.store := rfl
@[simp] theorem hostWr_stk : (s.hostWr p b bs).stk = s.stk := rfl
@[simp] theorem hostWr_matrix : (s.hostWr p b bs).matrix = s.matrix := rfl
@[simp] theorem hostWr_enf : (s.hostWr p b bs).enf = s.enf := rfl
@[simp] theorem hostWr_solver : (s.hostWr p b bs).solver = s.solver := rfl
@[simp] theorem hostWr_fabric : (s.hostWr p b bs).fabric = s.fabric := rfl
@[simp] theorem hostWr_ni : (s.hostWr p b bs).ni = s.ni := rfl
@[simp] theorem hostWr_upd : (s.hostWr p b bs).upd = s.upd := rfl
@[simp] theorem hostWr_host : (s.hostWr p b bs).host = s.host := rfl
@[simp] theorem hostWr_accord : (s.hostWr p b bs).accord = s.accord := rfl
@[simp] theorem hostWr_power : (s.hostWr p b bs).power = s.power := rfl
@[simp] theorem hostWr_recov : (s.hostWr p b bs).recov = s.recov := rfl
@[simp] theorem hostWr_mgmt : (s.hostWr p b bs).mgmt = s.mgmt := rfl
@[simp] theorem hostWr_obs : (s.hostWr p b bs).obs = s.obs := rfl
@[simp] theorem hostWr_freeCtr : (s.hostWr p b bs).freeCtr = s.freeCtr := rfl
@[simp] theorem hostWr_sent : (s.hostWr p b bs).sent = s.sent := rfl
@[simp] theorem hostWr_pending : (s.hostWr p b bs).pending = s.pending := rfl
end hostWr

section tick
variable (s : State)
@[simp] theorem tick_setup : (s.tick).setup = s.setup := rfl
@[simp] theorem tick_beat : (s.tick).beat = s.beat := rfl
@[simp] theorem tick_sched : (s.tick).sched = s.sched := rfl
@[simp] theorem tick_threads : (s.tick).threads = s.threads := rfl
@[simp] theorem tick_jobs : (s.tick).jobs = s.jobs := rfl
@[simp] theorem tick_nextHandle : (s.tick).nextHandle = s.nextHandle := rfl
@[simp] theorem tick_images : (s.tick).images = s.images := rfl
@[simp] theorem tick_mem : (s.tick).mem = s.mem := rfl
@[simp] theorem tick_hostMem : (s.tick).hostMem = s.hostMem := rfl
@[simp] theorem tick_store : (s.tick).store = s.store := rfl
@[simp] theorem tick_stk : (s.tick).stk = s.stk := rfl
@[simp] theorem tick_matrix : (s.tick).matrix = s.matrix := rfl
@[simp] theorem tick_enf : (s.tick).enf = s.enf := rfl
@[simp] theorem tick_solver : (s.tick).solver = s.solver := rfl
@[simp] theorem tick_fabric : (s.tick).fabric = s.fabric := rfl
@[simp] theorem tick_ni : (s.tick).ni = s.ni := rfl
@[simp] theorem tick_upd : (s.tick).upd = s.upd := rfl
@[simp] theorem tick_host : (s.tick).host = s.host := rfl
@[simp] theorem tick_accord : (s.tick).accord = s.accord := rfl
@[simp] theorem tick_power : (s.tick).power = s.power := rfl
@[simp] theorem tick_recov : (s.tick).recov = s.recov := rfl
@[simp] theorem tick_mgmt : (s.tick).mgmt = s.mgmt := rfl
@[simp] theorem tick_obs : (s.tick).obs = s.obs := rfl
@[simp] theorem tick_freeCtr : (s.tick).freeCtr = s.freeCtr + 1 := rfl
@[simp] theorem tick_sent : (s.tick).sent = s.sent := rfl
@[simp] theorem tick_pending : (s.tick).pending = s.pending := rfl
end tick

section wrFree
variable (s : State) (a n : Nat)
@[simp] theorem wrFree_setup : (s.wrFree a n).setup = s.setup := rfl
@[simp] theorem wrFree_beat : (s.wrFree a n).beat = s.beat := rfl
@[simp] theorem wrFree_sched : (s.wrFree a n).sched = s.sched := rfl
@[simp] theorem wrFree_threads : (s.wrFree a n).threads = s.threads := rfl
@[simp] theorem wrFree_jobs : (s.wrFree a n).jobs = s.jobs := rfl
@[simp] theorem wrFree_nextHandle : (s.wrFree a n).nextHandle = s.nextHandle := rfl
@[simp] theorem wrFree_images : (s.wrFree a n).images = s.images := rfl
@[simp] theorem wrFree_mem : (s.wrFree a n).mem = cellsPut s.mem a ((List.range n).map (fun i => Config.freeByte s.freeCtr i)) := rfl
@[simp] theorem wrFree_hostMem : (s.wrFree a n).hostMem = s.hostMem := rfl
@[simp] theorem wrFree_store : (s.wrFree a n).store = s.store := rfl
@[simp] theorem wrFree_stk : (s.wrFree a n).stk = s.stk := rfl
@[simp] theorem wrFree_matrix : (s.wrFree a n).matrix = s.matrix := rfl
@[simp] theorem wrFree_enf : (s.wrFree a n).enf = s.enf := rfl
@[simp] theorem wrFree_solver : (s.wrFree a n).solver = s.solver := rfl
@[simp] theorem wrFree_fabric : (s.wrFree a n).fabric = s.fabric := rfl
@[simp] theorem wrFree_ni : (s.wrFree a n).ni = s.ni := rfl
@[simp] theorem wrFree_upd : (s.wrFree a n).upd = s.upd := rfl
@[simp] theorem wrFree_host : (s.wrFree a n).host = s.host := rfl
@[simp] theorem wrFree_accord : (s.wrFree a n).accord = s.accord := rfl
@[simp] theorem wrFree_power : (s.wrFree a n).power = s.power := rfl
@[simp] theorem wrFree_recov : (s.wrFree a n).recov = s.recov := rfl
@[simp] theorem wrFree_mgmt : (s.wrFree a n).mgmt = s.mgmt := rfl
@[simp] theorem wrFree_obs : (s.wrFree a n).obs = s.obs := rfl
@[simp] theorem wrFree_freeCtr : (s.wrFree a n).freeCtr = s.freeCtr + 1 := rfl
@[simp] theorem wrFree_sent : (s.wrFree a n).sent = s.sent := rfl
@[simp] theorem wrFree_pending : (s.wrFree a n).pending = s.pending := rfl
end wrFree

section out
variable (s : State) (o : Output)
@[simp] theorem out_setup : (s.out o).setup = s.setup := rfl
@[simp] theorem out_beat : (s.out o).beat = s.beat := rfl
@[simp] theorem out_sched : (s.out o).sched = s.sched := rfl
@[simp] theorem out_threads : (s.out o).threads = s.threads := rfl
@[simp] theorem out_jobs : (s.out o).jobs = s.jobs := rfl
@[simp] theorem out_nextHandle : (s.out o).nextHandle = s.nextHandle := rfl
@[simp] theorem out_images : (s.out o).images = s.images := rfl
@[simp] theorem out_mem : (s.out o).mem = s.mem := rfl
@[simp] theorem out_hostMem : (s.out o).hostMem = s.hostMem := rfl
@[simp] theorem out_store : (s.out o).store = s.store := rfl
@[simp] theorem out_stk : (s.out o).stk = s.stk := rfl
@[simp] theorem out_matrix : (s.out o).matrix = s.matrix := rfl
@[simp] theorem out_enf : (s.out o).enf = s.enf := rfl
@[simp] theorem out_solver : (s.out o).solver = s.solver := rfl
@[simp] theorem out_fabric : (s.out o).fabric = s.fabric := rfl
@[simp] theorem out_ni : (s.out o).ni = s.ni := rfl
@[simp] theorem out_upd : (s.out o).upd = s.upd := rfl
@[simp] theorem out_host : (s.out o).host = s.host := rfl
@[simp] theorem out_accord : (s.out o).accord = s.accord := rfl
@[simp] theorem out_power : (s.out o).power = s.power := rfl
@[simp] theorem out_recov : (s.out o).recov = s.recov := rfl
@[simp] theorem out_mgmt : (s.out o).mgmt = s.mgmt := rfl
@[simp] theorem out_obs : (s.out o).obs = s.obs := rfl
@[simp] theorem out_freeCtr : (s.out o).freeCtr = s.freeCtr := rfl
@[simp] theorem out_sent : (s.out o).sent = o :: s.sent := rfl
@[simp] theorem out_pending : (s.out o).pending = s.pending := rfl
end out

section setReg
variable (s : State) (o : Nat) (v : W64)
@[simp] theorem setReg_setup : (s.setReg o v).setup = mset s.setup o v := rfl
@[simp] theorem setReg_beat : (s.setReg o v).beat = s.beat := rfl
@[simp] theorem setReg_sched : (s.setReg o v).sched = s.sched := rfl
@[simp] theorem setReg_threads : (s.setReg o v).threads = s.threads := rfl
@[simp] theorem setReg_jobs : (s.setReg o v).jobs = s.jobs := rfl
@[simp] theorem setReg_nextHandle : (s.setReg o v).nextHandle = s.nextHandle := rfl
@[simp] theorem setReg_images : (s.setReg o v).images = s.images := rfl
@[simp] theorem setReg_mem : (s.setReg o v).mem = s.mem := rfl
@[simp] theorem setReg_hostMem : (s.setReg o v).hostMem = s.hostMem := rfl
@[simp] theorem setReg_store : (s.setReg o v).store = s.store := rfl
@[simp] theorem setReg_stk : (s.setReg o v).stk = s.stk := rfl
@[simp] theorem setReg_matrix : (s.setReg o v).matrix = s.matrix := rfl
@[simp] theorem setReg_enf : (s.setReg o v).enf = s.enf := rfl
@[simp] theorem setReg_solver : (s.setReg o v).solver = s.solver := rfl
@[simp] theorem setReg_fabric : (s.setReg o v).fabric = s.fabric := rfl
@[simp] theorem setReg_ni : (s.setReg o v).ni = s.ni := rfl
@[simp] theorem setReg_upd : (s.setReg o v).upd = s.upd := rfl
@[simp] theorem setReg_host : (s.setReg o v).host = s.host := rfl
@[simp] theorem setReg_accord : (s.setReg o v).accord = s.accord := rfl
@[simp] theorem setReg_power : (s.setReg o v).power = s.power := rfl
@[simp] theorem setReg_recov : (s.setReg o v).recov = s.recov := rfl
@[simp] theorem setReg_mgmt : (s.setReg o v).mgmt = s.mgmt := rfl
@[simp] theorem setReg_obs : (s.setReg o v).obs = s.obs := rfl
@[simp] theorem setReg_freeCtr : (s.setReg o v).freeCtr = s.freeCtr := rfl
@[simp] theorem setReg_sent : (s.setReg o v).sent = s.sent := rfl
@[simp] theorem setReg_pending : (s.setReg o v).pending = s.pending := rfl
end setReg

section setRegNat
variable (s : State) (o v : Nat)
@[simp] theorem setRegNat_setup : (s.setRegNat o v).setup = mset s.setup o (BitVec.ofNat 64 v) := rfl
@[simp] theorem setRegNat_beat : (s.setRegNat o v).beat = s.beat := rfl
@[simp] theorem setRegNat_sched : (s.setRegNat o v).sched = s.sched := rfl
@[simp] theorem setRegNat_threads : (s.setRegNat o v).threads = s.threads := rfl
@[simp] theorem setRegNat_jobs : (s.setRegNat o v).jobs = s.jobs := rfl
@[simp] theorem setRegNat_nextHandle : (s.setRegNat o v).nextHandle = s.nextHandle := rfl
@[simp] theorem setRegNat_images : (s.setRegNat o v).images = s.images := rfl
@[simp] theorem setRegNat_mem : (s.setRegNat o v).mem = s.mem := rfl
@[simp] theorem setRegNat_hostMem : (s.setRegNat o v).hostMem = s.hostMem := rfl
@[simp] theorem setRegNat_store : (s.setRegNat o v).store = s.store := rfl
@[simp] theorem setRegNat_stk : (s.setRegNat o v).stk = s.stk := rfl
@[simp] theorem setRegNat_matrix : (s.setRegNat o v).matrix = s.matrix := rfl
@[simp] theorem setRegNat_enf : (s.setRegNat o v).enf = s.enf := rfl
@[simp] theorem setRegNat_solver : (s.setRegNat o v).solver = s.solver := rfl
@[simp] theorem setRegNat_fabric : (s.setRegNat o v).fabric = s.fabric := rfl
@[simp] theorem setRegNat_ni : (s.setRegNat o v).ni = s.ni := rfl
@[simp] theorem setRegNat_upd : (s.setRegNat o v).upd = s.upd := rfl
@[simp] theorem setRegNat_host : (s.setRegNat o v).host = s.host := rfl
@[simp] theorem setRegNat_accord : (s.setRegNat o v).accord = s.accord := rfl
@[simp] theorem setRegNat_power : (s.setRegNat o v).power = s.power := rfl
@[simp] theorem setRegNat_recov : (s.setRegNat o v).recov = s.recov := rfl
@[simp] theorem setRegNat_mgmt : (s.setRegNat o v).mgmt = s.mgmt := rfl
@[simp] theorem setRegNat_obs : (s.setRegNat o v).obs = s.obs := rfl
@[simp] theorem setRegNat_freeCtr : (s.setRegNat o v).freeCtr = s.freeCtr := rfl
@[simp] theorem setRegNat_sent : (s.setRegNat o v).sent = s.sent := rfl
@[simp] theorem setRegNat_pending : (s.setRegNat o v).pending = s.pending := rfl
end setRegNat

section setField
variable (s : State) (o hi lo x : Nat)
@[simp] theorem setField_setup : (s.setField o hi lo x).setup = mset s.setup o (BitVec.ofNat 64 (setBits (s.regNat o) hi lo x)) := rfl
@[simp] theorem setField_beat : (s.setField o hi lo x).beat = s.beat := rfl
@[simp] theorem setField_sched : (s.setField o hi lo x).sched = s.sched := rfl
@[simp] theorem setField_threads : (s.setField o hi lo x).threads = s.threads := rfl
@[simp] theorem setField_jobs : (s.setField o hi lo x).jobs = s.jobs := rfl
@[simp] theorem setField_nextHandle : (s.setField o hi lo x).nextHandle = s.nextHandle := rfl
@[simp] theorem setField_images : (s.setField o hi lo x).images = s.images := rfl
@[simp] theorem setField_mem : (s.setField o hi lo x).mem = s.mem := rfl
@[simp] theorem setField_hostMem : (s.setField o hi lo x).hostMem = s.hostMem := rfl
@[simp] theorem setField_store : (s.setField o hi lo x).store = s.store := rfl
@[simp] theorem setField_stk : (s.setField o hi lo x).stk = s.stk := rfl
@[simp] theorem setField_matrix : (s.setField o hi lo x).matrix = s.matrix := rfl
@[simp] theorem setField_enf : (s.setField o hi lo x).enf = s.enf := rfl
@[simp] theorem setField_solver : (s.setField o hi lo x).solver = s.solver := rfl
@[simp] theorem setField_fabric : (s.setField o hi lo x).fabric = s.fabric := rfl
@[simp] theorem setField_ni : (s.setField o hi lo x).ni = s.ni := rfl
@[simp] theorem setField_upd : (s.setField o hi lo x).upd = s.upd := rfl
@[simp] theorem setField_host : (s.setField o hi lo x).host = s.host := rfl
@[simp] theorem setField_accord : (s.setField o hi lo x).accord = s.accord := rfl
@[simp] theorem setField_power : (s.setField o hi lo x).power = s.power := rfl
@[simp] theorem setField_recov : (s.setField o hi lo x).recov = s.recov := rfl
@[simp] theorem setField_mgmt : (s.setField o hi lo x).mgmt = s.mgmt := rfl
@[simp] theorem setField_obs : (s.setField o hi lo x).obs = s.obs := rfl
@[simp] theorem setField_freeCtr : (s.setField o hi lo x).freeCtr = s.freeCtr := rfl
@[simp] theorem setField_sent : (s.setField o hi lo x).sent = s.sent := rfl
@[simp] theorem setField_pending : (s.setField o hi lo x).pending = s.pending := rfl
end setField

section log
variable (s : State) (c : W16) (u : Nat) (h : W32) (d : W64)
@[simp] theorem log_setup : (s.log c u h d).setup = s.setup := rfl
@[simp] theorem log_beat : (s.log c u h d).beat = s.beat := rfl
@[simp] theorem log_sched : (s.log c u h d).sched = s.sched := rfl
@[simp] theorem log_threads : (s.log c u h d).threads = s.threads := rfl
@[simp] theorem log_jobs : (s.log c u h d).jobs = s.jobs := rfl
@[simp] theorem log_nextHandle : (s.log c u h d).nextHandle = s.nextHandle := rfl
@[simp] theorem log_images : (s.log c u h d).images = s.images := rfl
@[simp] theorem log_mem : (s.log c u h d).mem = s.mem := rfl
@[simp] theorem log_hostMem : (s.log c u h d).hostMem = s.hostMem := rfl
@[simp] theorem log_store : (s.log c u h d).store = s.store := rfl
@[simp] theorem log_stk : (s.log c u h d).stk = s.stk := rfl
@[simp] theorem log_matrix : (s.log c u h d).matrix = s.matrix := rfl
@[simp] theorem log_enf : (s.log c u h d).enf = s.enf := rfl
@[simp] theorem log_solver : (s.log c u h d).solver = s.solver := rfl
@[simp] theorem log_fabric : (s.log c u h d).fabric = s.fabric := rfl
@[simp] theorem log_ni : (s.log c u h d).ni = s.ni := rfl
@[simp] theorem log_upd : (s.log c u h d).upd = s.upd := rfl
@[simp] theorem log_host : (s.log c u h d).host = s.host := rfl
@[simp] theorem log_accord : (s.log c u h d).accord = s.accord := rfl
@[simp] theorem log_power : (s.log c u h d).power = s.power := rfl
@[simp] theorem log_recov : (s.log c u h d).recov = s.recov := rfl
@[simp] theorem log_mgmt : (s.log c u h d).mgmt = s.mgmt := rfl
@[simp] theorem log_freeCtr : (s.log c u h d).freeCtr = s.freeCtr := rfl
@[simp] theorem log_sent : (s.log c u h d).sent = s.sent := rfl
@[simp] theorem log_pending : (s.log c u h d).pending = s.pending := rfl
end log

section report
variable (s : State) (c : W16) (u : Nat)
@[simp] theorem report_setup : (s.report c u).setup = s.setup := rfl
@[simp] theorem report_beat : (s.report c u).beat = s.beat := rfl
@[simp] theorem report_sched : (s.report c u).sched = s.sched := rfl
@[simp] theorem report_threads : (s.report c u).threads = s.threads := rfl
@[simp] theorem report_jobs : (s.report c u).jobs = s.jobs := rfl
@[simp] theorem report_nextHandle : (s.report c u).nextHandle = s.nextHandle := rfl
@[simp] theorem report_images : (s.report c u).images = s.images := rfl
@[simp] theorem report_mem : (s.report c u).mem = s.mem := rfl
@[simp] theorem report_hostMem : (s.report c u).hostMem = s.hostMem := rfl
@[simp] theorem report_store : (s.report c u).store = s.store := rfl
@[simp] theorem report_stk : (s.report c u).stk = s.stk := rfl
@[simp] theorem report_matrix : (s.report c u).matrix = s.matrix := rfl
@[simp] theorem report_enf : (s.report c u).enf = s.enf := rfl
@[simp] theorem report_solver : (s.report c u).solver = s.solver := rfl
@[simp] theorem report_fabric : (s.report c u).fabric = s.fabric := rfl
@[simp] theorem report_ni : (s.report c u).ni = s.ni := rfl
@[simp] theorem report_upd : (s.report c u).upd = s.upd := rfl
@[simp] theorem report_host : (s.report c u).host = s.host := rfl
@[simp] theorem report_accord : (s.report c u).accord = s.accord := rfl
@[simp] theorem report_power : (s.report c u).power = s.power := rfl
@[simp] theorem report_recov : (s.report c u).recov = s.recov := rfl
@[simp] theorem report_mgmt : (s.report c u).mgmt = s.mgmt := rfl
@[simp] theorem report_obs : (s.report c u).obs = (s.log c u 0 0).obs := rfl
@[simp] theorem report_freeCtr : (s.report c u).freeCtr = s.freeCtr := rfl
@[simp] theorem report_sent : (s.report c u).sent = .report c u :: s.sent := rfl
@[simp] theorem report_pending : (s.report c u).pending = s.pending := rfl
end report

section mapJob
variable (s : State) (h : W32) (f : Job → Job)
@[simp] theorem mapJob_setup : (s.mapJob h f).setup = s.setup := rfl
@[simp] theorem mapJob_beat : (s.mapJob h f).beat = s.beat := rfl
@[simp] theorem mapJob_sched : (s.mapJob h f).sched = s.sched := rfl
@[simp] theorem mapJob_threads : (s.mapJob h f).threads = s.threads := rfl
@[simp] theorem mapJob_jobs : (s.mapJob h f).jobs = s.jobs.map (fun j => if j.handle = h then f j else j) := rfl
@[simp] theorem mapJob_nextHandle : (s.mapJob h f).nextHandle = s.nextHandle := rfl
@[simp] theorem mapJob_images : (s.mapJob h f).images = s.images := rfl
@[simp] theorem mapJob_mem : (s.mapJob h f).mem = s.mem := rfl
@[simp] theorem mapJob_hostMem : (s.mapJob h f).hostMem = s.hostMem := rfl
@[simp] theorem mapJob_store : (s.mapJob h f).store = s.store := rfl
@[simp] theorem mapJob_stk : (s.mapJob h f).stk = s.stk := rfl
@[simp] theorem mapJob_matrix : (s.mapJob h f).matrix = s.matrix := rfl
@[simp] theorem mapJob_enf : (s.mapJob h f).enf = s.enf := rfl
@[simp] theorem mapJob_solver : (s.mapJob h f).solver = s.solver := rfl
@[simp] theorem mapJob_fabric : (s.mapJob h f).fabric = s.fabric := rfl
@[simp] theorem mapJob_ni : (s.mapJob h f).ni = s.ni := rfl
@[simp] theorem mapJob_upd : (s.mapJob h f).upd = s.upd := rfl
@[simp] theorem mapJob_host : (s.mapJob h f).host = s.host := rfl
@[simp] theorem mapJob_accord : (s.mapJob h f).accord = s.accord := rfl
@[simp] theorem mapJob_power : (s.mapJob h f).power = s.power := rfl
@[simp] theorem mapJob_recov : (s.mapJob h f).recov = s.recov := rfl
@[simp] theorem mapJob_mgmt : (s.mapJob h f).mgmt = s.mgmt := rfl
@[simp] theorem mapJob_obs : (s.mapJob h f).obs = s.obs := rfl
@[simp] theorem mapJob_freeCtr : (s.mapJob h f).freeCtr = s.freeCtr := rfl
@[simp] theorem mapJob_sent : (s.mapJob h f).sent = s.sent := rfl
@[simp] theorem mapJob_pending : (s.mapJob h f).pending = s.pending := rfl
end mapJob

section setThread
variable (s : State) (k : Nat) (t : Thread)
@[simp] theorem setThread_setup : (s.setThread k t).setup = s.setup := rfl
@[simp] theorem setThread_beat : (s.setThread k t).beat = s.beat := rfl
@[simp] theorem setThread_sched : (s.setThread k t).sched = s.sched := rfl
@[simp] theorem setThread_threads : (s.setThread k t).threads = mset s.threads k t := rfl
@[simp] theorem setThread_jobs : (s.setThread k t).jobs = s.jobs := rfl
@[simp] theorem setThread_nextHandle : (s.setThread k t).nextHandle = s.nextHandle := rfl
@[simp] theorem setThread_images : (s.setThread k t).images = s.images := rfl
@[simp] theorem setThread_mem : (s.setThread k t).mem = s.mem := rfl
@[simp] theorem setThread_hostMem : (s.setThread k t).hostMem = s.hostMem := rfl
@[simp] theorem setThread_store : (s.setThread k t).store = s.store := rfl
@[simp] theorem setThread_stk : (s.setThread k t).stk = s.stk := rfl
@[simp] theorem setThread_matrix : (s.setThread k t).matrix = s.matrix := rfl
@[simp] theorem setThread_enf : (s.setThread k t).enf = s.enf := rfl
@[simp] theorem setThread_solver : (s.setThread k t).solver = s.solver := rfl
@[simp] theorem setThread_fabric : (s.setThread k t).fabric = s.fabric := rfl
@[simp] theorem setThread_ni : (s.setThread k t).ni = s.ni := rfl
@[simp] theorem setThread_upd : (s.setThread k t).upd = s.upd := rfl
@[simp] theorem setThread_host : (s.setThread k t).host = s.host := rfl
@[simp] theorem setThread_accord : (s.setThread k t).accord = s.accord := rfl
@[simp] theorem setThread_power : (s.setThread k t).power = s.power := rfl
@[simp] theorem setThread_recov : (s.setThread k t).recov = s.recov := rfl
@[simp] theorem setThread_mgmt : (s.setThread k t).mgmt = s.mgmt := rfl
@[simp] theorem setThread_obs : (s.setThread k t).obs = s.obs := rfl
@[simp] theorem setThread_freeCtr : (s.setThread k t).freeCtr = s.freeCtr := rfl
@[simp] theorem setThread_sent : (s.setThread k t).sent = s.sent := rfl
@[simp] theorem setThread_pending : (s.setThread k t).pending = s.pending := rfl
end setThread

section mapThread
variable (s : State) (k : Nat) (f : Thread → Thread)
@[simp] theorem mapThread_setup : (s.mapThread k f).setup = s.setup := rfl
@[simp] theorem mapThread_beat : (s.mapThread k f).beat = s.beat := rfl
@[simp] theorem mapThread_sched : (s.mapThread k f).sched = s.sched := rfl
@[simp] theorem mapThread_threads : (s.mapThread k f).threads = mset s.threads k (f (s.thread k)) := rfl
@[simp] theorem mapThread_jobs : (s.mapThread k f).jobs = s.jobs := rfl
@[simp] theorem mapThread_nextHandle : (s.mapThread k f).nextHandle = s.nextHandle := rfl
@[simp] theorem mapThread_images : (s.mapThread k f).images = s.images := rfl
@[simp] theorem mapThread_mem : (s.mapThread k f).mem = s.mem := rfl
@[simp] theorem mapThread_hostMem : (s.mapThread k f).hostMem = s.hostMem := rfl
@[simp] theorem mapThread_store : (s.mapThread k f).store = s.store := rfl
@[simp] theorem mapThread_stk : (s.mapThread k f).stk = s.stk := rfl
@[simp] theorem mapThread_matrix : (s.mapThread k f).matrix = s.matrix := rfl
@[simp] theorem mapThread_enf : (s.mapThread k f).enf = s.enf := rfl
@[simp] theorem mapThread_solver : (s.mapThread k f).solver = s.solver := rfl
@[simp] theorem mapThread_fabric : (s.mapThread k f).fabric = s.fabric := rfl
@[simp] theorem mapThread_ni : (s.mapThread k f).ni = s.ni := rfl
@[simp] theorem mapThread_upd : (s.mapThread k f).upd = s.upd := rfl
@[simp] theorem mapThread_host : (s.mapThread k f).host = s.host := rfl
@[simp] theorem mapThread_accord : (s.mapThread k f).accord = s.accord := rfl
@[simp] theorem mapThread_power : (s.mapThread k f).power = s.power := rfl
@[simp] theorem mapThread_recov : (s.mapThread k f).recov = s.recov := rfl
@[simp] theorem mapThread_mgmt : (s.mapThread k f).mgmt = s.mgmt := rfl
@[simp] theorem mapThread_obs : (s.mapThread k f).obs = s.obs := rfl
@[simp] theorem mapThread_freeCtr : (s.mapThread k f).freeCtr = s.freeCtr := rfl
@[simp] theorem mapThread_sent : (s.mapThread k f).sent = s.sent := rfl
@[simp] theorem mapThread_pending : (s.mapThread k f).pending = s.pending := rfl
end mapThread

section mapThreadsOf
variable (s : State) (h : W32) (f : Nat → Thread → Thread)
@[simp] theorem mapThreadsOf_setup : (s.mapThreadsOf h f).setup = s.setup := rfl
@[simp] theorem mapThreadsOf_beat : (s.mapThreadsOf h f).beat = s.beat := rfl
@[simp] theorem mapThreadsOf_sched : (s.mapThreadsOf h f).sched = s.sched := rfl
@[simp] theorem mapThreadsOf_threads : (s.mapThreadsOf h f).threads = s.threads.map (fun c => if c.2.job = h ∧ c.2.st ≠ .free then (c.1, f c.1 c.2) else c) := rfl
@[simp] theorem mapThreadsOf_jobs : (s.mapThreadsOf h f).jobs = s.jobs := rfl
@[simp] theorem mapThreadsOf_nextHandle : (s.mapThreadsOf h f).nextHandle = s.nextHandle := rfl
@[simp] theorem mapThreadsOf_images : (s.mapThreadsOf h f).images = s.images := rfl
@[simp] theorem mapThreadsOf_mem : (s.mapThreadsOf h f).mem = s.mem := rfl
@[simp] theorem mapThreadsOf_hostMem : (s.mapThreadsOf h f).hostMem = s.hostMem := rfl
@[simp] theorem mapThreadsOf_store : (s.mapThreadsOf h f).store = s.store := rfl
@[simp] theorem mapThreadsOf_stk : (s.mapThreadsOf h f).stk = s.stk := rfl
@[simp] theorem mapThreadsOf_matrix : (s.mapThreadsOf h f).matrix = s.matrix := rfl
@[simp] theorem mapThreadsOf_enf : (s.mapThreadsOf h f).enf = s.enf := rfl
@[simp] theorem mapThreadsOf_solver : (s.mapThreadsOf h f).solver = s.solver := rfl
@[simp] theorem mapThreadsOf_fabric : (s.mapThreadsOf h f).fabric = s.fabric := rfl
@[simp] theorem mapThreadsOf_ni : (s.mapThreadsOf h f).ni = s.ni := rfl
@[simp] theorem mapThreadsOf_upd : (s.mapThreadsOf h f).upd = s.upd := rfl
@[simp] theorem mapThreadsOf_host : (s.mapThreadsOf h f).host = s.host := rfl
@[simp] theorem mapThreadsOf_accord : (s.mapThreadsOf h f).accord = s.accord := rfl
@[simp] theorem mapThreadsOf_power : (s.mapThreadsOf h f).power = s.power := rfl
@[simp] theorem mapThreadsOf_recov : (s.mapThreadsOf h f).recov = s.recov := rfl
@[simp] theorem mapThreadsOf_mgmt : (s.mapThreadsOf h f).mgmt = s.mgmt := rfl
@[simp] theorem mapThreadsOf_obs : (s.mapThreadsOf h f).obs = s.obs := rfl
@[simp] theorem mapThreadsOf_freeCtr : (s.mapThreadsOf h f).freeCtr = s.freeCtr := rfl
@[simp] theorem mapThreadsOf_sent : (s.mapThreadsOf h f).sent = s.sent := rfl
@[simp] theorem mapThreadsOf_pending : (s.mapThreadsOf h f).pending = s.pending := rfl
end mapThreadsOf

section noteCounted
variable (s : State) (c p n : Nat)
@[simp] theorem noteCounted_setup : (s.noteCounted c p n).setup = s.setup := rfl
@[simp] theorem noteCounted_beat : (s.noteCounted c p n).beat = s.beat := rfl
@[simp] theorem noteCounted_sched : (s.noteCounted c p n).sched = s.sched := rfl
@[simp] theorem noteCounted_threads : (s.noteCounted c p n).threads = s.threads := rfl
@[simp] theorem noteCounted_jobs : (s.noteCounted c p n).jobs = s.jobs := rfl
@[simp] theorem noteCounted_nextHandle : (s.noteCounted c p n).nextHandle = s.nextHandle := rfl
@[simp] theorem noteCounted_images : (s.noteCounted c p n).images = s.images := rfl
@[simp] theorem noteCounted_mem : (s.noteCounted c p n).mem = s.mem := rfl
@[simp] theorem noteCounted_hostMem : (s.noteCounted c p n).hostMem = s.hostMem := rfl
@[simp] theorem noteCounted_store : (s.noteCounted c p n).store = s.store := rfl
@[simp] theorem noteCounted_stk : (s.noteCounted c p n).stk = s.stk := rfl
@[simp] theorem noteCounted_matrix : (s.noteCounted c p n).matrix = s.matrix := rfl
@[simp] theorem noteCounted_enf : (s.noteCounted c p n).enf = s.enf := rfl
@[simp] theorem noteCounted_solver : (s.noteCounted c p n).solver = s.solver := rfl
@[simp] theorem noteCounted_fabric : (s.noteCounted c p n).fabric = s.fabric := rfl
@[simp] theorem noteCounted_ni : (s.noteCounted c p n).ni = s.ni := rfl
@[simp] theorem noteCounted_upd : (s.noteCounted c p n).upd = s.upd := rfl
@[simp] theorem noteCounted_host : (s.noteCounted c p n).host = s.host := rfl
@[simp] theorem noteCounted_accord : (s.noteCounted c p n).accord = s.accord := rfl
@[simp] theorem noteCounted_power : (s.noteCounted c p n).power = s.power := rfl
@[simp] theorem noteCounted_recov : (s.noteCounted c p n).recov = s.recov := rfl
@[simp] theorem noteCounted_mgmt : (s.noteCounted c p n).mgmt = s.mgmt := rfl
@[simp] theorem noteCounted_freeCtr : (s.noteCounted c p n).freeCtr = s.freeCtr := rfl
@[simp] theorem noteCounted_sent : (s.noteCounted c p n).sent = s.sent := rfl
@[simp] theorem noteCounted_pending : (s.noteCounted c p n).pending = s.pending := rfl
end noteCounted

section mapRing
variable (s : State) (p n : Nat) (f : Ring → Ring)
@[simp] theorem mapRing_setup : (s.mapRing p n f).setup = s.setup := rfl
@[simp] theorem mapRing_beat : (s.mapRing p n f).beat = s.beat := rfl
@[simp] theorem mapRing_sched : (s.mapRing p n f).sched = s.sched := rfl
@[simp] theorem mapRing_threads : (s.mapRing p n f).threads = s.threads := rfl
@[simp] theorem mapRing_jobs : (s.mapRing p n f).jobs = s.jobs := rfl
@[simp] theorem mapRing_nextHandle : (s.mapRing p n f).nextHandle = s.nextHandle := rfl
@[simp] theorem mapRing_images : (s.mapRing p n f).images = s.images := rfl
@[simp] theorem mapRing_mem : (s.mapRing p n f).mem = s.mem := rfl
@[simp] theorem mapRing_hostMem : (s.mapRing p n f).hostMem = s.hostMem := rfl
@[simp] theorem mapRing_store : (s.mapRing p n f).store = s.store := rfl
@[simp] theorem mapRing_stk : (s.mapRing p n f).stk = s.stk := rfl
@[simp] theorem mapRing_matrix : (s.mapRing p n f).matrix = s.matrix := rfl
@[simp] theorem mapRing_enf : (s.mapRing p n f).enf = s.enf := rfl
@[simp] theorem mapRing_solver : (s.mapRing p n f).solver = s.solver := rfl
@[simp] theorem mapRing_fabric : (s.mapRing p n f).fabric = s.fabric := rfl
@[simp] theorem mapRing_ni : (s.mapRing p n f).ni = s.ni := rfl
@[simp] theorem mapRing_upd : (s.mapRing p n f).upd = s.upd := rfl
@[simp] theorem mapRing_accord : (s.mapRing p n f).accord = s.accord := rfl
@[simp] theorem mapRing_power : (s.mapRing p n f).power = s.power := rfl
@[simp] theorem mapRing_recov : (s.mapRing p n f).recov = s.recov := rfl
@[simp] theorem mapRing_mgmt : (s.mapRing p n f).mgmt = s.mgmt := rfl
@[simp] theorem mapRing_obs : (s.mapRing p n f).obs = s.obs := rfl
@[simp] theorem mapRing_freeCtr : (s.mapRing p n f).freeCtr = s.freeCtr := rfl
@[simp] theorem mapRing_sent : (s.mapRing p n f).sent = s.sent := rfl
@[simp] theorem mapRing_pending : (s.mapRing p n f).pending = s.pending := rfl
end mapRing

section mapPort
variable (s : State) (p : Nat) (f : HostPort → HostPort)
@[simp] theorem mapPort_setup : (s.mapPort p f).setup = s.setup := rfl
@[simp] theorem mapPort_beat : (s.mapPort p f).beat = s.beat := rfl
@[simp] theorem mapPort_sched : (s.mapPort p f).sched = s.sched := rfl
@[simp] theorem mapPort_threads : (s.mapPort p f).threads = s.threads := rfl
@[simp] theorem mapPort_jobs : (s.mapPort p f).jobs = s.jobs := rfl
@[simp] theorem mapPort_nextHandle : (s.mapPort p f).nextHandle = s.nextHandle := rfl
@[simp] theorem mapPort_images : (s.mapPort p f).images = s.images := rfl
@[simp] theorem mapPort_mem : (s.mapPort p f).mem = s.mem := rfl
@[simp] theorem mapPort_hostMem : (s.mapPort p f).hostMem = s.hostMem := rfl
@[simp] theorem mapPort_store : (s.mapPort p f).store = s.store := rfl
@[simp] theorem mapPort_stk : (s.mapPort p f).stk = s.stk := rfl
@[simp] theorem mapPort_matrix : (s.mapPort p f).matrix = s.matrix := rfl
@[simp] theorem mapPort_enf : (s.mapPort p f).enf = s.enf := rfl
@[simp] theorem mapPort_solver : (s.mapPort p f).solver = s.solver := rfl
@[simp] theorem mapPort_fabric : (s.mapPort p f).fabric = s.fabric := rfl
@[simp] theorem mapPort_ni : (s.mapPort p f).ni = s.ni := rfl
@[simp] theorem mapPort_upd : (s.mapPort p f).upd = s.upd := rfl
@[simp] theorem mapPort_accord : (s.mapPort p f).accord = s.accord := rfl
@[simp] theorem mapPort_power : (s.mapPort p f).power = s.power := rfl
@[simp] theorem mapPort_recov : (s.mapPort p f).recov = s.recov := rfl
@[simp] theorem mapPort_mgmt : (s.mapPort p f).mgmt = s.mgmt := rfl
@[simp] theorem mapPort_obs : (s.mapPort p f).obs = s.obs := rfl
@[simp] theorem mapPort_freeCtr : (s.mapPort p f).freeCtr = s.freeCtr := rfl
@[simp] theorem mapPort_sent : (s.mapPort p f).sent = s.sent := rfl
@[simp] theorem mapPort_pending : (s.mapPort p f).pending = s.pending := rfl
end mapPort

section hold
variable (s : State) (t : ThreadId) (st : TSt)
@[simp] theorem hold_setup : (s.hold t st).setup = s.setup := rfl
@[simp] theorem hold_beat : (s.hold t st).beat = s.beat := rfl
@[simp] theorem hold_sched : (s.hold t st).sched = s.sched := rfl
@[simp] theorem hold_threads : (s.hold t st).threads = mset s.threads t.key { s.thread t.key with st := st } := rfl
@[simp] theorem hold_jobs : (s.hold t st).jobs = s.jobs := rfl
@[simp] theorem hold_nextHandle : (s.hold t st).nextHandle = s.nextHandle := rfl
@[simp] theorem hold_images : (s.hold t st).images = s.images := rfl
@[simp] theorem hold_mem : (s.hold t st).mem = s.mem := rfl
@[simp] theorem hold_hostMem : (s.hold t st).hostMem = s.hostMem := rfl
@[simp] theorem hold_store : (s.hold t st).store = s.store := rfl
@[simp] theorem hold_stk : (s.hold t st).stk = s.stk := rfl
@[simp] theorem hold_matrix : (s.hold t st).matrix = s.matrix := rfl
@[simp] theorem hold_enf : (s.hold t st).enf = s.enf := rfl
@[simp] theorem hold_solver : (s.hold t st).solver = s.solver := rfl
@[simp] theorem hold_fabric : (s.hold t st).fabric = s.fabric := rfl
@[simp] theorem hold_ni : (s.hold t st).ni = s.ni := rfl
@[simp] theorem hold_upd : (s.hold t st).upd = s.upd := rfl
@[simp] theorem hold_host : (s.hold t st).host = s.host := rfl
@[simp] theorem hold_accord : (s.hold t st).accord = s.accord := rfl
@[simp] theorem hold_power : (s.hold t st).power = s.power := rfl
@[simp] theorem hold_recov : (s.hold t st).recov = s.recov := rfl
@[simp] theorem hold_mgmt : (s.hold t st).mgmt = s.mgmt := rfl
@[simp] theorem hold_obs : (s.hold t st).obs = s.obs := rfl
@[simp] theorem hold_freeCtr : (s.hold t st).freeCtr = s.freeCtr := rfl
@[simp] theorem hold_sent : (s.hold t st).sent = s.sent := rfl
@[simp] theorem hold_pending : (s.hold t st).pending = s.pending := rfl
end hold

/-! ### What is read after an update -/

@[simp] theorem reg_setReg_same (s : State) (o : Nat) (v : W64) : (s.setReg o v).reg o = v := by
  simp [reg]
theorem reg_setReg_ne (s : State) (o x : Nat) (v : W64) (h : x ≠ o) : (s.setReg o v).reg x = s.reg x := by
  simp [reg, mget_mset_ne s.setup o x v _ h]
@[simp] theorem thread_setThread_same (s : State) (k : Nat) (t : Thread) : (s.setThread k t).thread k = t := by
  simp [thread]
theorem thread_setThread_ne (s : State) (k x : Nat) (t : Thread) (h : x ≠ k) : (s.setThread k t).thread x = s.thread x := by
  simp [thread, mget_mset_ne s.threads k x t _ h]
@[simp] theorem thread_mapThread_same (s : State) (k : Nat) (f : Thread → Thread) :
    (s.mapThread k f).thread k = f (s.thread k) := thread_setThread_same s k _
theorem thread_mapThread_ne (s : State) (k x : Nat) (f : Thread → Thread) (h : x ≠ k) :
    (s.mapThread k f).thread x = s.thread x := thread_setThread_ne s k x _ h

/-- A job that keeps its handle is found as the change leaves it. -/
theorem findJob_mapJob_same (s : State) (h : W32) (f : Job → Job) (hf : ∀ j, (f j).handle = j.handle) :
    (s.mapJob h f).findJob h = (s.findJob h).map f := by
  simp only [findJob, mapJob_jobs]
  induction s.jobs with
  | nil => rfl
  | cons j r ih =>
    by_cases e : j.handle = h
    · simp [e, hf]
    · simp [e, ih]

/-- Every other job is found as before. -/
theorem findJob_mapJob_ne (s : State) (h x : W32) (f : Job → Job) (hf : ∀ j, (f j).handle = j.handle) (hx : x ≠ h) :
    (s.mapJob h f).findJob x = s.findJob x := by
  simp only [findJob, mapJob_jobs]
  induction s.jobs with
  | nil => rfl
  | cons j r ih =>
    by_cases e : j.handle = h
    · have : ¬ h = x := fun q => hx q.symm
      simp [e, hf, this, ih]
    · by_cases g : j.handle = x
      · simp [g, hx]
      · simp [e, g, ih]

end Sys2Proof.Machine.State
end

