-- ==== Sys2Proof/Laws/Links.lean ====
section
/-! SUPPORT. What the transmit side of the fabric can touch, said once: set-up counters, the fabric's own state, the log,
the free values and what leaves the module. -/

namespace Sys2Proof.Machine.State

/-- `u` differs from `s` in the set-up registers, the fabric, the log, the free values and what left the module alone. -/
def OnLinks (s u : State) : Prop :=
  u = { s with setup := u.setup, fabric := u.fabric, obs := u.obs, freeCtr := u.freeCtr, sent := u.sent }

theorem OnLinks_refl (s : State) : OnLinks s s := rfl

theorem OnLinks_trans {s t u : State} (h : OnLinks s t) (k : OnLinks t u) : OnLinks s u := by
  unfold OnLinks at *
  rw [h] at k
  exact k

theorem OnLinks_foldl {α : Type} (f : State → α → State) (h : ∀ st x, OnLinks st (f st x)) (l : List α) (s : State) :
    OnLinks s (l.foldl f s) := by
  induction l generalizing s with
  | nil => rfl
  | cons x r ih => exact OnLinks_trans (h s x) (ih _)

/-- The frame spelled out. -/
theorem OnLinks_eq {s u : State} (h : OnLinks s u) :
    ∃ a b c d e, u = { s with setup := a, fabric := b, obs := c, freeCtr := d, sent := e } := ⟨_, _, _, _, _, h⟩

theorem bump_links (o n : Nat) (s : State) : OnLinks s (s.bump o n) := by
  unfold bump
  split <;> rfl

theorem mapLink_links (p : Nat) (f : Link → Link) (s : State) : OnLinks s (s.mapLink p f) := rfl

theorem emit_links (p : Nat) (f : TxFlit) (s : State) : OnLinks s (s.emit p f) := by
  unfold emit
  refine OnLinks_trans ?_ (bump_links _ _ _)
  rfl

theorem sendCtl_links (p kind value : Nat) (s : State) : OnLinks s (s.sendCtl p kind value) := by
  unfold sendCtl
  dsimp only
  split
  · rfl
  · split
    · exact emit_links ..
    · rfl

theorem offerCredit_links (p : Nat) (s : State) : OnLinks s (s.offerCredit p) := by
  unfold offerCredit
  dsimp only
  split
  · exact sendCtl_links ..
  · rfl

theorem returnCredit_links (p vc : Nat) (s : State) : OnLinks s (s.returnCredit p vc) :=
  OnLinks_trans (mapLink_links ..) (offerCredit_links ..)

theorem depart_links (p : Nat) (f : TxFlit) (s : State) : OnLinks s (s.depart p f) := by
  unfold depart
  dsimp only
  split
  · exact OnLinks_trans (emit_links ..) (OnLinks_trans (bump_links ..) (returnCredit_links ..))
  · exact emit_links ..

theorem pumpFuel_links (fuel p : Nat) (s : State) : OnLinks s (s.pumpFuel fuel p) := by
  induction fuel generalizing s with
  | zero => rfl
  | succ n ih =>
    unfold pumpFuel
    split
    · rfl
    · exact OnLinks_trans (OnLinks_trans (mapLink_links ..) (depart_links ..)) (ih _)

theorem pump_links (p : Nat) (s : State) : OnLinks s (s.pump p) := pumpFuel_links ..

theorem txPut_links (front : Bool) (p : Nat) (f : TxFlit) (s : State) : OnLinks s (s.txPut front p f) :=
  OnLinks_trans (mapLink_links ..) (pump_links ..)

theorem txFlit_links (f : TxFlit) (s : State) : OnLinks s (s.txFlit f) := by
  unfold txFlit
  split
  · rfl
  · split
    · exact txPut_links ..
    · exact txPut_links ..
    · rfl
    · rfl

theorem txAll_links (l : List TxFlit) (s : State) : OnLinks s (s.txAll l) :=
  OnLinks_foldl _ (fun st f => txFlit_links f st) l s

theorem report_links (code : W16) (u : Nat) (s : State) : OnLinks s (s.report code u) := rfl

theorem fabReport_links (code : W16) (p : Nat) (s : State) : OnLinks s (s.fabReport code p) := by
  refine OnLinks_trans ?_ (report_links ..)
  unfold recordFault
  split <;> rfl

theorem ethSend_links (m vc len : Nat) (s : State) : OnLinks s (s.ethSend m vc len) := by
  unfold ethSend
  split
  · rfl
  · exact OnLinks_trans (by rfl) (bump_links ..)

theorem askPairs_links (s : State) : OnLinks s s.askPairs := by
  refine OnLinks_foldl _ (fun st q => ?_) _ _
  split <;> rfl

theorem openPair_links (m : Nat) (s : State) : OnLinks s (s.openPair m) := by
  unfold openPair
  split
  · rfl
  · exact OnLinks_trans (by rfl) (askPairs_links _)

/-- A message of a network interface leaves or waits: the fabric alone changes. -/
theorem sendMsg_links (g : NiMsg) (s : State) : OnLinks s (s.sendMsg g) := by
  unfold sendMsg
  dsimp only
  generalize (if g.kind = kQuench then 0 else 1) = vc
  split
  · rfl
  · split
    · refine OnLinks_trans ?_ (by rfl : OnLinks _ (State.out _ _))
      split
      · split
        · split
          · exact sendCtl_links ..
          · exact txPut_links ..
        · exact txFlit_links ..
      · exact ethSend_links ..
    · split
      · rfl
      · exact OnLinks_trans (by rfl) (openPair_links ..)

/-- A quench is told to the job's other modules: the fabric alone changes. -/
theorem sendQuench_links (j : Job) (s : State) : OnLinks s (s.sendQuench j) :=
  OnLinks_foldl _ (fun st _ => sendMsg_links _ st) _ _

/-- The frame of `sendQuench`, spelled out. -/
theorem sendQuench_frame (j : Job) (s : State) : ∃ su fa ob fr se, s.sendQuench j =
    { s with setup := su, fabric := fa, obs := ob, freeCtr := fr, sent := se } :=
  OnLinks_eq (sendQuench_links j s)

end Sys2Proof.Machine.State
end

