-- ==== Sys2Proof/Laws/Ops.lean ====
section
/-! SUPPORT. What each shared operation can touch, said once: a frame of the form `op s = { s with … }`, to be cited in
place of unfolding the operation; and what the operations on threads and jobs give. -/

namespace Sys2Proof.Machine.State

/-! ### Registers, counters and the log -/

theorem recordFault_frame (o v : Nat) (s : State) : ∃ a, s.recordFault o v = { s with setup := a } := by
  unfold recordFault
  split
  · exact ⟨_, rfl⟩
  · exact ⟨_, rfl⟩

theorem bump_frame (o n : Nat) (s : State) : ∃ a, s.bump o n = { s with setup := a } := by
  unfold bump
  split
  · exact ⟨_, rfl⟩
  · exact ⟨_, rfl⟩

theorem bumpSlot_frame (d : Nat) (h : W32) (i n : Nat) (s : State) : ∃ a, s.bumpSlot d h i n = { s with setup := a } := by
  unfold bumpSlot
  split
  · exact ⟨_, rfl⟩
  · split
    · exact ⟨_, rfl⟩
    · exact ⟨_, rfl⟩

theorem count_frame (c d : Nat) (h : W32) (n : Nat) (s : State) :
    ∃ a b, s.count c d h n = { s with setup := a, obs := b } := by
  unfold count
  split
  · exact ⟨_, _, rfl⟩
  · split
    · exact ⟨_, _, rfl⟩
    · rename_i i _
      obtain ⟨a, ha⟩ := bump_frame (Regs.obsTotal d i) n s
      rw [ha]
      obtain ⟨b, hb⟩ := bumpSlot_frame d h i n { s with setup := a }
      rw [hb]
      exact ⟨_, _, rfl⟩

theorem countNumeric_frame (d : Nat) (h : W32) (sat nan acc m8 : Nat) (s : State) :
    ∃ a b, s.countNumeric d h sat nan acc m8 = { s with setup := a, obs := b } := by
  unfold countNumeric
  obtain ⟨_, _, h1⟩ := count_frame 0x2101 d h sat s
  rw [h1]
  obtain ⟨_, _, h2⟩ := count_frame 0x2102 d h nan { s with setup := _, obs := _ }
  rw [h2]
  obtain ⟨_, _, h3⟩ := count_frame 0x2103 d h acc { s with setup := _, obs := _ }
  rw [h3]
  obtain ⟨_, _, h4⟩ := count_frame 0x2105 d h m8 { s with setup := _, obs := _ }
  rw [h4]
  exact ⟨_, _, rfl⟩

/-! ### Completion rings -/

theorem signalCq_frame (p n : Nat) (now : Bool) (s : State) :
    ∃ a b, s.signalCq p n now = { s with host := a, sent := b } := by
  unfold signalCq
  dsimp only
  split
  · exact ⟨_, _, rfl⟩
  · split
    · split
      · exact ⟨_, _, rfl⟩
      · exact ⟨_, _, rfl⟩
    · exact ⟨_, _, rfl⟩

theorem writeEntry_frame (p n : Nat) (e : List Byte) (s : State) :
    ∃ a b c, s.writeEntry p n e = { s with hostMem := a, host := b, sent := c } := by
  unfold writeEntry
  dsimp only
  generalize hg : State.mapRing p n _ _ = t
  obtain ⟨b, c, h⟩ := signalCq_frame p n false t
  rw [h, ← hg]
  exact ⟨_, _, _, rfl⟩

theorem postReserved_frame (p n : Nat) (e : List Byte) (s : State) :
    ∃ a b c, s.postReserved p n e = { s with hostMem := a, host := b, sent := c } := by
  unfold postReserved
  dsimp only
  split
  · exact ⟨_, _, _, rfl⟩
  · split
    · generalize hg : State.mapRing _ _ _ _ = t
      obtain ⟨a, b, c, h⟩ := writeEntry_frame (s.routeCq p n).1 (s.routeCq p n).2 e t
      rw [h, ← hg]
      exact ⟨_, _, _, rfl⟩
    · exact ⟨_, _, _, rfl⟩

theorem postEvent_frame (p n : Nat) (e : List Byte) (s : State) :
    ∃ a b c d, s.postEvent p n e = { s with hostMem := a, host := b, sent := c, obs := d } := by
  unfold postEvent
  dsimp only
  split
  · obtain ⟨a, b, c, h⟩ := writeEntry_frame (s.routeCq p n).1 (s.routeCq p n).2 e s
    rw [h]
    exact ⟨_, _, _, _, rfl⟩
  · split
    · exact ⟨_, _, _, _, rfl⟩
    · exact ⟨_, _, _, _, rfl⟩

theorem completeDesc_frame (p n i k ty : Nat) (code : W16) (aux detail : Nat) (h : W32) (s : State) :
    ∃ a b c d, s.completeDesc p n i k ty code aux detail h = { s with hostMem := a, host := b, sent := c, obs := d } := by
  unfold completeDesc
  dsimp only
  split
  · obtain ⟨a, b, c, e⟩ := postReserved_frame p (State.boundCq (s.mapRing p n (fun r => { r with openDescs := r.openDescs - 1 })) p n)
      (entryBytes code ty k n i aux h detail) (s.mapRing p n (fun r => { r with openDescs := r.openDescs - 1 }))
    rw [e]
    exact ⟨_, _, _, _, rfl⟩
  · generalize hg : State.log _ _ _ _ _ = t
    obtain ⟨a, b, c, e⟩ := postReserved_frame p (State.boundCq t p n) (entryBytes code ty k n i aux h detail) t
    rw [e, ← hg]
    exact ⟨_, _, _, _, rfl⟩

/-! ### Faults -/

theorem markTile_frame (code : W16) (x : Nat) (s : State) : ∃ a, s.markTile code x = { s with recov := a } := by
  unfold markTile
  split
  · split <;> exact ⟨_, rfl⟩
  · split <;> exact ⟨_, rfl⟩
  · exact ⟨_, rfl⟩

theorem memFault_frame (code : W16) (x : Nat) (w : Who) (s : State) :
    ∃ a b, s.memFault code x w = { s with setup := a, recov := b } := by
  obtain ⟨r, hr⟩ := markTile_frame code x s
  have key : ∀ o v, ∃ a b, State.recordFault o v (s.markTile code x) = { s with setup := a, recov := b } := by
    intro o v
    obtain ⟨a, h⟩ := recordFault_frame o v (s.markTile code x)
    exact ⟨a, r, by rw [h, hr]⟩
  unfold memFault
  dsimp only
  split
  · exact key _ _
  · exact key _ _
  · exact key _ _
  · exact ⟨_, _, hr⟩

theorem stackFault_frame (code : W16) (x : Nat) (s : State) : ∃ a, s.stackFault code x = { s with setup := a } := by
  unfold stackFault
  split
  · exact ⟨_, rfl⟩
  · dsimp only
    generalize hv : code.toNat + _ + _ = v
    obtain ⟨a, h⟩ := recordFault_frame Regs.memErrLog v s
    rw [h]
    exact ⟨_, rfl⟩

theorem accessFault_frame (code : W16) (x : Nat) (w : Who) (s : State) :
    ∃ a b, s.accessFault code x w = { s with setup := a, recov := b } := by
  unfold accessFault
  split
  · exact memFault_frame code x w s
  · split
    · obtain ⟨a, h⟩ := stackFault_frame code x s
      exact ⟨a, _, h⟩
    · exact ⟨_, _, rfl⟩

theorem engineFault_frame (t : ThreadId) (code : W16) (slot pc : Nat) (s : State) :
    ∃ a, s.engineFault t code slot pc = { s with setup := a } := by
  unfold engineFault
  dsimp only
  split
  · split
    · exact recordFault_frame ..
    · split
      · exact recordFault_frame ..
      · exact ⟨_, rfl⟩
  · exact recordFault_frame ..
  · exact recordFault_frame ..

/-! ### Quench -/

theorem freeJobSlots_frame (h : W32) (s : State) : ∃ a b, s.freeJobSlots h = { s with setup := a, obs := b } := by
  unfold freeJobSlots
  generalize List.range 4 = l
  induction l generalizing s with
  | nil => exact ⟨_, _, rfl⟩
  | cons d r ih =>
    simp only [List.foldl_cons]
    split
    · exact ih s
    · obtain ⟨a, b, e⟩ := ih _
      rw [e]
      exact ⟨_, _, rfl⟩

theorem quenchTiles_frame (j : Job) (s : State) :
    ∃ a b c d, s.quenchTiles j = { s with setup := a, obs := b, matrix := c, enf := d } := by
  unfold quenchTiles
  dsimp only
  generalize hl : List.filter _ s.enf = l
  clear hl
  generalize hm : ({ s with matrix := _ } : State) = t
  have key : ∀ (l : SMap EnfSet) (t : State), ∃ a b, l.foldl (fun st c => st.count 0x2203 (c.1 / 2 / 64) j.handle 1) t
      = { t with setup := a, obs := b } := by
    intro l
    induction l with
    | nil => intro t; exact ⟨_, _, rfl⟩
    | cons x r ih =>
      intro t
      simp only [List.foldl_cons]
      obtain ⟨a, b, e⟩ := count_frame 0x2203 (x.1 / 2 / 64) j.handle 1 t
      rw [e]
      obtain ⟨c, d, f⟩ := ih { t with setup := a, obs := b }
      exact ⟨c, d, f⟩
  obtain ⟨a, b, e⟩ := key l t
  rw [e, ← hm]
  exact ⟨_, _, _, _, rfl⟩

theorem finalEntry_frame (j : Job) (code : W16) (s : State) :
    ∃ a b c d, s.finalEntry j code = { s with hostMem := a, host := b, sent := c, obs := d } := by
  unfold finalEntry
  dsimp only
  obtain ⟨a, b, c, e⟩ := postReserved_frame j.port (s.boundCq j.port j.ring) (entryBytes code 2 1 j.ring j.sqIndex 0 j.handle 0) s
  rw [e]
  generalize ht : ({ s with hostMem := a, host := b, sent := c } : State) = t
  have key : ∀ (l : List (Nat × Nat × Nat)) (t : State), ∃ a b c d,
      l.foldl (fun st q => st.completeDesc q.1 q.2.1 q.2.2 6 2 0x0000 0 0 j.handle) t
        = { t with hostMem := a, host := b, sent := c, obs := d } := by
    intro l
    induction l with
    | nil => intro t; exact ⟨_, _, _, _, rfl⟩
    | cons x r ih =>
      intro t
      simp only [List.foldl_cons]
      obtain ⟨a, b, c, d, e⟩ := completeDesc_frame x.1 x.2.1 x.2.2 6 2 0x0000 0 0 j.handle t
      rw [e]
      obtain ⟨a', b', c', d', f⟩ := ih { t with hostMem := a, host := b, sent := c, obs := d }
      exact ⟨a', b', c', d', f⟩
  obtain ⟨a', b', c', d', f⟩ := key j.quenchers t
  rw [f, ← ht]
  exact ⟨_, _, _, _, rfl⟩

/-- What a quench touches: nothing of memory but the host's completion rings, nothing of the beat, the images, the
stacks, the power state and the management controller. -/
theorem quenchNow_frame (h : W32) (cause : W16) (s : State) :
    ∃ su sc th jo hm ma en so ni ho fa ob se fr, s.quenchNow h cause =
      { s with setup := su, sched := sc, threads := th, jobs := jo, hostMem := hm, matrix := ma, enf := en, solver := so
               ni := ni, host := ho, fabric := fa, obs := ob, sent := se, freeCtr := fr } := by
  unfold quenchNow
  split
  · exact ⟨_, _, _, _, _, _, _, _, _, _, _, _, _, _, rfl⟩
  · rename_i j _
    split
    · exact ⟨_, _, _, _, _, _, _, _, _, _, _, _, _, _, rfl⟩
    · split <;> exact ⟨_, _, _, _, _, _, _, _, _, _, _, _, _, _, rfl⟩
    · obtain ⟨a, b, e⟩ := freeJobSlots_frame h (s.dropEntries h)
      rw [e]
      generalize hg : ({ s.dropEntries h with setup := a, obs := b } : State) = t
      obtain ⟨x, y, z, w, f⟩ := finalEntry_frame j cause t
      obtain ⟨p, q, r, u, v, g⟩ := sendQuench_frame j (State.dropJob h (t.finalEntry j cause))
      rw [g, f, ← hg]
      exact ⟨_, _, _, _, _, _, _, _, _, _, _, _, _, _, rfl⟩
    all_goals
      dsimp only
      generalize hg : ({ State.mapThreadsOf h _ _ with ni := _ } : State) = t
      obtain ⟨a, b, c, d, e⟩ := quenchTiles_frame j t
      rw [e]
      generalize hp : State.releasePins j _ = u
      obtain ⟨x, y, f⟩ := freeJobSlots_frame h u
      obtain ⟨p, q, r, w, v, g⟩ := sendQuench_frame j (u.freeJobSlots h)
      rw [g, f, ← hp, ← hg]
      exact ⟨_, _, _, _, _, _, _, _, _, _, _, _, _, _, rfl⟩

theorem quenchJob_frame (h : W32) (cause : W16) (s : State) :
    ∃ su sc th jo hm ma en so ni ho fa ob se fr, s.quenchJob h cause =
      { s with setup := su, sched := sc, threads := th, jobs := jo, hostMem := hm, matrix := ma, enf := en, solver := so
               ni := ni, host := ho, fabric := fa, obs := ob, sent := se, freeCtr := fr } := by
  unfold quenchJob
  split
  · split
    · exact ⟨_, _, _, _, _, _, _, _, _, _, _, _, _, _, rfl⟩
    · exact quenchNow_frame h cause s
  · exact ⟨_, _, _, _, _, _, _, _, _, _, _, _, _, _, rfl⟩

/-- A quench that a host asks of a job whose threads are all DONE does nothing: the job completes normally (R99). -/
theorem quenchJob_done (h : W32) (cause : W16) (s : State) (j : Job) (hj : s.findJob h = some j) (ha : asked cause = true)
    (hr : j.runs = true) (hd : s.threadsDone j = true) : s.quenchJob h cause = s := by
  simp [quenchJob, hj, ha, hr, hd]

theorem haltDetail_frame (t : ThreadId) (code : W16) (detail : Nat) (s : State) :
    ∃ su sc th jo hm ma en so ni ho fa ob se fr, s.haltDetail t code detail =
      { s with setup := su, sched := sc, threads := th, jobs := jo, hostMem := hm, matrix := ma, enf := en, solver := so
               ni := ni, host := ho, fabric := fa, obs := ob, sent := se, freeCtr := fr } := by
  unfold haltDetail
  dsimp only
  generalize hl : s.log code t.unit (s.thread t.key).job (BitVec.ofNat 64 detail) = a
  obtain ⟨x, e⟩ := engineFault_frame t code 0xF (s.thread t.key).pc a
  rw [e]
  generalize hm : State.mapThread _ _ _ = b
  obtain ⟨su, sc, th, jo, hm', ma, en, so, ni, ho, fa, ob, se, fr, f⟩ := quenchJob_frame (s.thread t.key).job code b
  rw [f, ← hm, ← hl]
  exact ⟨_, _, _, _, _, _, _, _, _, _, _, _, _, _, rfl⟩

/-! ### Threads -/

theorem fillLine_frame (c line : Nat) (s : State) : ∃ a, s.fillLine c line = { s with store := a } := ⟨_, rfl⟩

/-- A request counts with its thread and stands in its channel's queue or before it. -/
theorem postReq_frame (r : Req) (s : State) :
    ∃ a b c, s.postReq r = { s with setup := a, threads := b, stk := c } := by
  unfold postReq
  dsimp only
  generalize hg : (if r.thread < 7232 then State.mapThread r.thread _ s else s) = t
  have ht : ∃ b, t = { s with threads := b } := by
    subst hg
    split <;> exact ⟨_, rfl⟩
  obtain ⟨b, rfl⟩ := ht
  unfold bump
  split <;> split <;> exact ⟨_, _, _, rfl⟩

theorem traffic_frame (k : Nat) (h : W32) (cls : Nat) (write : Bool) (a n : Nat) (s : State) :
    ∃ x y z, s.traffic k h cls write a n = { s with setup := x, threads := y, stk := z } := by
  unfold traffic
  generalize requestsOf k h cls 0 false write a n [] = l
  induction l generalizing s with
  | nil => exact ⟨_, _, _, rfl⟩
  | cons r l ih =>
    rw [List.foldl_cons]
    obtain ⟨x, y, z, e⟩ := postReq_frame r s
    obtain ⟨x', y', z', f⟩ := ih (s.postReq r)
    rw [f, e]
    exact ⟨_, _, _, rfl⟩

theorem fetchLines_frame (k : Nat) (s : State) :
    ∃ x y z, s.fetchLines k = { s with setup := x, threads := y, stk := z } := by
  unfold fetchLines
  dsimp only
  generalize s.aheadLines k = l
  generalize (s.thread k).job = h
  induction l generalizing s with
  | nil => exact ⟨_, _, _, rfl⟩
  | cons line l ih =>
    rw [List.foldl_cons]
    split
    · exact ih s
    · obtain ⟨x, y, z, e⟩ := traffic_frame (listRequester (listCache k)) h 1 false (line * 256) 256 s
      rw [e]
      obtain ⟨x', y', z', f⟩ := ih { s with setup := x, threads := y, stk := z }
      exact ⟨x', y', z', f⟩

/-- What a thread's next command costs: its state, its list cache and the reads of the lines ahead. -/
theorem fetchNext_frame (k : Nat) (s : State) :
    ∃ a b c d, s.fetchNext k = { s with setup := a, threads := b, store := c, stk := d } := by
  unfold fetchNext
  dsimp only
  split
  · obtain ⟨x, y, z, e⟩ := fetchLines_frame k
      (((s.pinLines k).fillLine (listCache k) (s.listLine k)).mapThread k (fun t => { t with st := .ready }))
    rw [e]
    exact ⟨_, _, _, _, rfl⟩
  · obtain ⟨x, y, z, e⟩ := fetchLines_frame k ((s.pinLines k).mapThread k (fun t => { t with st := .waitList }))
    rw [e]
    exact ⟨_, _, _, _, rfl⟩

theorem wakeIdle_frame (k : Nat) (s : State) :
    ∃ a b c d, s.wakeIdle k = { s with setup := a, threads := b, store := c, stk := d } := by
  unfold wakeIdle
  dsimp only
  generalize (if keyEngine k = 3 then s.stalled k else s.busy k) = b
  split
  · exact fetchNext_frame k s
  · exact ⟨_, _, _, _, rfl⟩

/-- A thread that is not READY issues nothing. -/
theorem issue_waiting (t : ThreadId) (op eng : Nat) (h : CmdHead) (ok : Bool) (f : Thread → Job → State → State) (s : State)
    (hs : (s.thread t.key).st ≠ .ready) : s.issue t op eng h ok f = s := by
  simp [issue, hs]

/-- A READY thread of a running job whose command passes the checks of R68 and meets no upset runs it. -/
theorem issue_runs (t : ThreadId) (op eng : Nat) (h : CmdHead) (ok : Bool) (f : Thread → Job → State → State) (s : State)
    (j : Job) (hs : (s.thread t.key).st = .ready) (hj : s.findJob (s.thread t.key).job = some j) (hr : j.st = .running)
    (hi : s.issues t = true) (hc : headCode op eng t h (s.thread t.key).pc ok = none) (hu : h.upsets = []) :
    s.issue t op eng h ok f = f (s.thread t.key) j s := by
  simp [issue, underUpsets, hs, hj, hr, hi, hc, hu]

/-- One whose command fails a check halts with that check's code. -/
theorem issue_halts (t : ThreadId) (op eng : Nat) (h : CmdHead) (ok : Bool) (f : Thread → Job → State → State) (s : State)
    (j : Job) (c : W16) (hs : (s.thread t.key).st = .ready) (hj : s.findJob (s.thread t.key).job = some j)
    (hr : j.st = .running) (hi : s.issues t = true) (hc : headCode op eng t h (s.thread t.key).pc ok = some c) :
    s.issue t op eng h ok f = s.haltThread t c := by
  simp [issue, hs, hj, hr, hi, hc]

end Sys2Proof.Machine.State
end

