-- ==== Sys2Proof/WellFormed.lean ====
section
/-! DEFINITION. Well-formed commands: what the carrier of a command already bounds, so that an operand outside
it cannot arrive. Nothing here decides what a command does: `exec` has a meaning for every term. -/

namespace Sys2Proof

/-- A system has at most 1,024 groups of 8 modules: module numbers are below 8,192 (R2, R6, R308). -/
def moduleOk (m : W16) : Bool := decide (m.toNat < 8192)

/-- A module address has 48 bits (R11, R69). -/
def addr48Ok (a : W64) : Bool := decide (a.toNat < 2 ^ 48)

/-- A message that lands data carries it to a 48-bit address and at most 16 MiB of it (R328). -/
def landedOk (w : Option NiWrite) : Bool :=
  match w with
  | none => true
  | some x => addr48Ok x.dst && decide (x.data.length ≤ 16777216)

/-- The module numbers that a command carries as its source or its peer. -/
def Instr.remotes : Instr → List W16
  | .ethMessage _ r _ _ _ => [r]
  | .qpOpen r _ => [r]
  | .cnpReceived _ r _ => [r]
  | .rateRecover _ r => [r]
  | .ethRetransmit _ r => [r]
  | .ready r _ _ _ _ => [r]
  | .getServe _ r _ _ _ _ _ _ _ => [r]
  | .joinMessage _ r _ _ _ _ _ => [r]
  | .qpClose r => [r]
  | _ => []

/-- The data that a command lands from another module. -/
def Instr.lands : Instr → Option NiWrite
  | .dataFlit _ _ w => w
  | .ethMessage _ _ _ _ w => w
  | _ => none

/-- A set-up access moves 4 or 8 bytes (R397). -/
def Instr.accessSize : Instr → BitVec 8
  | .registerWrite _ _ n _ => n
  | .readReg _ _ n => n
  | .writeReg _ _ n _ => n
  | _ => 4

/-- The bytes that a management access to memory moves (R479): 64 to 4,096. -/
def Instr.memBytes : Instr → Nat
  | .memRead _ _ n => n.toNat
  | .memWrite _ _ d => d.length
  | _ => 64

/-- The command can arrive. -/
def Instr.wf (i : Instr) : Bool :=
  i.remotes.all moduleOk && landedOk i.lands && (i.accessSize == 4 || i.accessSize == 8)
    && decide (64 ≤ i.memBytes) && decide (i.memBytes ≤ 4096)

end Sys2Proof
end

