-- ==== Sys2Proof/Tests/Slice0.lean ====
section
/-! SUPPORT. The model's own tests: small states, one witness for each clause of a statement that has hypotheses, the
well-formedness checks with a term that each refuses, and a few effects whose results the manual's tables give. -/

open Sys2Proof Sys2Proof.Machine

namespace Sys2Proof.Tests

set_option Elab.async false

/-! ### Small states -/

/-- The state after reset, once a boot has let the compute domain out of reset (R19). -/
def base : State := { State.reset with power := { State.reset.power with held := false } }

/-- The state after a command. -/
def run (c : Instr) (s : State) : State := match exec c s with | .next t => t | _ => s

/-- A sound header of a command at image offset `pc`. -/
def head (op eng pc : Nat) : CmdHead :=
  let h : CmdHead := ⟨BitVec.ofNat 3 eng, BitVec.ofNat 4 (pc / 32), false, 0, 0, 0, false, none, []⟩
  { h with nhdr := ~~~(headerWord op h) }

def block : JobBlock where
  flags := 0
  tag := 7
  jobId := 0x1234
  seed := 99
  start := 0
  deadline := 0
  serveCount := 0
  serve := 0
  bases := List.replicate 13 0
  banks := [0xFF, 0, 0, 0]
  niw := [0, 0, 0, 0]
  hostr := []
  tiles := [0]
  shares := []
  exports := []

def image : Image := ⟨0x4000, 0x1000, 0, 0, 1, 256, 0, 512, 0, 512, 0, 512, 0, 512, 0, 1, 1⟩

/-- A running job on tile 0, solver engine 0 and update unit 0. -/
def job : Job where
  handle := 1
  port := 0
  ring := 0
  sqIndex := 0
  st := .running
  block := block
  image := image
  resident := false
  named := [1]
  plan := ⟨0, 0, 0, false, 0, []⟩
  segment := 0
  refreshDl := []
  cause := 0
  faults := 0
  trapped := false
  replay := none
  quenchers := []

/-- A thread of the job in a state, at image offset 0x100. -/
def thread (st : TSt) : Thread := { Thread.idle with st := st, job := 1, pc := 0x100, bases := block.bases }

/-- The job runs, and thread `k` of it is in a state. -/
def one (k : Nat) (st : TSt) : State := { base with jobs := [job], threads := [(k, thread st)] }

/-- Region 0 covers the first 4 MiB of the module, readable and writable under tag 7. -/
def regions : List (Nat × W64) := [(Regs.rgnLo 0, 1), (Regs.rgnHi 0, BitVec.ofNat 64 (0x200000 + 0x30007))]

/-- Bytes placed above every byte that memory lists. -/
def put (a : Nat) (bs : List Byte) (s : State) : State :=
  { s with mem := s.mem ++ ((List.range bs.length).zip bs).filterMap (fun x => if x.2 = 0 then none else some (a + x.1, x.2)) }

abbrev t0 : ThreadId := .tile 0 0
abbrev te : ThreadId := .tile 0 12
abbrev sv : ThreadId := .solver 0 0
abbrev up : ThreadId := .update 0 0

/-- A place of a command's operand by base 15 (tile 0's scratchpad) and by base 14 (die 0's shared store). -/
def own (o : Nat) : W64 := BitVec.ofNat 64 (15 * 2 ^ 48 + o)
def near (o : Nat) : W64 := BitVec.ofNat 64 (14 * 2 ^ 48 + o)

/-! ### The beat and its schedule -/

def locked (src : Nat) : State :=
  { base with
    setup := [(Regs.beatCfg, BitVec.ofNat 64 (src + 0x271000))]
    beat := { base.beat with
      pos := 0x50000, mode := 1, activeSrc := BitVec.ofNat 4 src, lastFrame := some (3, 2), unconfirmed := false } }

/-- The beat changed as said. -/
def beatOf (f : Beat → Beat) (s : State) : State := { s with beat := f s.beat }

/-- The receiver has all but the last bit, a 0, of the frame of count 64, behind the frame of count 0: its next bit shows the
count 127. The beat stands at a count. -/
def framed (src n : Nat) (mode : BitVec 3) : State :=
  beatOf (fun b => { b with
    pos := BitVec.ofNat 64 (n * 65536), mode := mode, lastFrame := some (0, 63),
    bits := (List.range 63).map (fun i => (64 * 65536 + 0xB38F).testBit (62 - i)) }) (locked src)

/-- The same, its count not known. -/
def unsure (src n : Nat) (mode : BitVec 3) : State := beatOf (fun b => { b with unconfirmed := true }) (framed src n mode)

theorem witness_beatPulse_off : ({ base with power := { base.power with off := true } } : State).power.off = true := rfl
theorem witness_beatPulse_repeat : base.power.off = false ∧ base.flag Regs.beatCfg 5 = true := by decide +kernel
theorem witness_beatPulse_bad : State.pulseBit (700 : W16).toNat = none := by decide +kernel
theorem witness_beatPulse_other : (locked 2).power.off = false ∧ State.pulseBit (500 : W16).toNat = some false ∧
    (locked 2).beatSrc = 2 := by decide +kernel
theorem witness_beatPulse : (locked 1).pulsed 500 false ∧ (locked 1).beat.conflict = false ∧
    (locked 1).beat.jumpNext = false ∧ (locked 1).beat.holding = false ∧ (locked 1).beat.unconfirmed = false ∧
    (locked 1).beat.mode = 1 ∧ (locked 1).cableShows false = none := by decide +kernel
theorem witness_beatPulse_agrees : (framed 1 126 2).pulsed 500 false ∧ (framed 1 126 2).beatCount = 126 ∧
    (framed 1 126 2).cableShows false = some 127 ∧ (framed 1 126 2).beat.unconfirmed = false := by decide +kernel

/-- The source is ahead at count 9, and the count jumps at its next edge. -/
def jumping (src : Nat) : State :=
  { beatOf (fun b => { b with jumpNext := true, srcCount := some 9 }) (locked src) with
    sched := [(3, SchedEntry.make 4 0 0x60000 1 1 false)] }
theorem witness_beatPulse_jumps : (jumping 1).pulsed 500 false ∧ (jumping 1).beat.conflict = false ∧
    (jumping 1).beat.jumpNext = true ∧ (jumping 1).beat.srcCount = some 9 ∧ (jumping 1).beatCount < 9 + 1 ∧
    (jumping 1).cableShows false = none := by decide +kernel

def held (src : Nat) : State := beatOf (fun b => { b with holding := true, srcCount := some 2 }) (locked src)
theorem witness_beatPulse_holds : (held 1).pulsed 500 false ∧ (held 1).beat.conflict = false ∧ (held 1).beat.jumpNext = false ∧
    (held 1).beat.holding = true ∧ (held 1).beat.mode = 1 ∧ (held 1).beat.srcCount = some 2 ∧
    (held 1).cableShows false = none := by decide +kernel

def searching (src : Nat) : State := beatOf (fun b => { b with mode := 0, unconfirmed := true }) (locked src)
theorem witness_beatPulse_waits : (searching 1).pulsed 500 false ∧ (searching 1).cableShows false = none ∧
    (searching 1).beat.jumpNext = false ∧ (searching 1).beat.mode = 0 ∧ (searching 1).beat.holding = false := by decide +kernel
theorem witness_beatPulse_locks : (unsure 1 0 0).pulsed 500 false ∧ (unsure 1 0 0).beat.conflict = false ∧
    (unsure 1 0 0).beat.jumpNext = false ∧ (unsure 1 0 0).cableShows false = some 127 ∧ (unsure 1 0 0).beat.mode = 0 ∧
    (unsure 1 0 0).beatInUse = false := by decide +kernel
theorem witness_beatPulse_relocks : (unsure 1 127 2).pulsed 500 false ∧ (unsure 1 127 2).beat.conflict = false ∧
    (unsure 1 127 2).beat.jumpNext = false ∧ (unsure 1 127 2).beat.holding = false ∧
    (unsure 1 127 2).cableShows false = some 127 ∧ (unsure 1 127 2).beat.unconfirmed = true ∧
    (unsure 1 127 2).beat.mode ≠ 0 := by decide +kernel
theorem witness_relocked : (unsure 1 127 2).beatCount = 127 ∧ (unsure 1 126 2).beatCount < 127 ∧
    127 < (unsure 1 191 2).beatCount ∧ (unsure 1 191 2).beatCount ≤ 127 + 64 ∧ 127 + 64 < (unsure 1 192 2).beatCount := by
  decide +kernel

/-- Under AUTO a marker source is dead, and pulses with valid frames arrive. -/
def dying : State := beatOf (fun b => { b with mode := 2, missed := 4, activeSrc := 3 }) (locked 0)
theorem witness_beatPulse_auto : dying.power.off = false ∧ dying.beatSrc = 0 ∧ dying.beat.activeSrc ≠ 1 ∧
    (dying.receiveBit false).2.cableLive = true ∧ dying.cableShows false = none ∧ 4 ≤ dying.beat.missed ∧ dying.beat.mode = 2 ∧
    dying.beat.conflict = false ∧ dying.beat.unconfirmed = false := by decide +kernel

/-- A header of a flit that arrives in order at a port of which nothing has arrived yet. -/
def ctl (p : GPort) : CtlFlit := ⟨⟨1, 0, true, [], false⟩, p⟩

/-- Port G0 is up, and has brought a run of 127 markers up to the count 126. -/
def marking0 (s : State) : State :=
  (s.mapLink 0 (fun l => { l with st := .up })).setBeat (fun b => { b with activeSrc := 2, markers := [⟨0, 126, 1, 127, 0, 0⟩] })

theorem witness_beatMarker_ignored : (marking0 (locked 2)).arrives (ctl 0) ∧ bits (0x0007000000000006 : W64).toNat 50 48 = 7 ∧
    (marking0 (locked 1)).beatSrc = 1 ∧ (marking0 (locked 6)).field Regs.beatCfg 4 2 ≠ (0 : GPort).val := by decide +kernel
theorem witness_beatMarker : (marking0 (locked 2)).marked (ctl 0) 0x0001000000000006 ∧ (marking0 (locked 2)).beat.conflict = false ∧
    (marking0 (locked 2)).beat.jumpNext = false ∧ (marking0 (locked 2)).beat.holding = false ∧
    (marking0 (locked 2)).beat.unconfirmed = false ∧ (marking0 (locked 2)).beat.mode = 1 ∧
    (marking0 (locked 2)).markerShows (ctl 0) 0x0001000000000006 = none := by decide +kernel
theorem witness_beatMarker_agrees : (marking0 (framed 2 126 1)).marked (ctl 0) 0x000100000000007F ∧
    (marking0 (framed 2 126 1)).markerShows (ctl 0) 0x000100000000007F = some ((marking0 (framed 2 126 1)).beatCount + 1) := by
  decide +kernel
theorem witness_beatMarker_jumps : (marking0 (jumping 2)).marked (ctl 0) 0x0001000000000006 ∧
    (marking0 (jumping 2)).beat.srcCount = some 9 ∧ (marking0 (jumping 2)).beatCount < 9 + 1 ∧
    (marking0 (jumping 2)).markerShows (ctl 0) 0x0001000000000006 = none := by decide +kernel
theorem witness_beatMarker_waits : (marking0 (searching 2)).marked (ctl 0) 0x0001000000000006 ∧
    (marking0 (searching 2)).markerShows (ctl 0) 0x0001000000000006 = none ∧ (marking0 (searching 2)).beat.mode = 0 := by
  decide +kernel
theorem witness_beatMarker_locks : (marking0 (unsure 2 0 0)).marked (ctl 0) 0x000100000000007F ∧
    (marking0 (unsure 2 0 0)).markerShows (ctl 0) 0x000100000000007F = some 127 ∧ (marking0 (unsure 2 0 0)).beatInUse = false := by
  decide +kernel
theorem witness_beatMarker_relocks : (marking0 (unsure 2 127 2)).marked (ctl 0) 0x000100000000007F ∧
    (marking0 (unsure 2 127 2)).markerShows (ctl 0) 0x000100000000007F = some 127 ∧
    (marking0 (unsure 2 127 2)).beat.unconfirmed = true ∧ (marking0 (unsure 2 127 2)).beat.mode ≠ 0 := by decide +kernel

def freerun : State := { base with beat := { base.beat with mode := 4 } }
def holdover : State := { base with beat := { base.beat with mode := 2, missed := 64 } }

theorem witness_localBeat : freerun.beat.mode = 4 ∧ holdover.beat.mode = 2 ∧ holdover.power.off = false := by decide +kernel
theorem witness_localBeat_local : (searching 3).power.off = false ∧ (searching 3).beat.mode = 0 ∧ (searching 3).beatSrc = 3 ∧
    (searching 1).beatSrc ≠ 3 := by decide +kernel
theorem witness_holdoverEntry : (locked 1).power.off = false ∧ (locked 1).beat.mode = 1 ∧ freerun.beat.mode ≠ 1 := by decide +kernel
theorem witness_beatLost : holdover.power.off = false ∧ holdover.beat.mode = 2 ∧ 64 ≤ holdover.beat.missed ∧
    freerun.beat.mode ≠ 2 := by decide +kernel

theorem test_beatPulse_counts : (run (.beatPulse 500 0) (locked 1)).beat.pos = 0x60000 := by decide +kernel

/-- The management controller writes at reset. -/
theorem witness_writesNow : base.writesNow .mgmt := by decide +kernel

theorem witness_beatCfgWrite : bits (0x271040 : W32).toNat 4 0 = bits (base.regNat Regs.beatCfg) 4 0 := by decide +kernel
theorem witness_beatCfgWrite_source : bits (0x271001 : W32).toNat 4 0 ≠ bits (base.regNat Regs.beatCfg) 4 0 ∧
    bits (0x271001 : W32).toNat 1 0 ≠ 3 ∧ bits (0x271003 : W32).toNat 1 0 = 3 ∧ base.beat.conflict = false ∧
    base.beatInUse = false ∧ (one 0 .ready).beatInUse = true ∧ (one 0 .ready).writesNow .mgmt := by decide +kernel

def entry (kind : Nat) : SchedEntry := SchedEntry.make kind 0 0x10000 1 1 false

/-- An entry of a kind is due in table 0, index 3 (or table 4 for those of the management domain). -/
def due (table kind : Nat) : State :=
  { one 0 .ready with
    sched := [(table * 1024 + 3, entry kind)], beat := { base.beat with mode := 1, pos := 0x20000, unconfirmed := false } }

theorem witness_resync : (due 0 5).writesNow .mgmt ∧ (due 0 5).findJob 1 = some job ∧ job.st = .running ∧
    (due 0 5).sched.any (fun c => c.2.owner == 1) = true ∧ (due 0 5).threadsDone job = false := by decide +kernel

def sleeping (st : BitVec 3) : State :=
  { due 4 1 with power := { base.power with st := st }, setup := [(Regs.pwrWakeEn, 0x1F)] }

theorem witness_wakeEntry : (sleeping 2).fires 4 (3 : Fin 256).val 1 (entry 1) ∧ (sleeping 2).wakeEnabled 4 = true ∧
    (sleeping 2).power.st = 2 ∧ (sleeping 2).power.off = false ∧ (sleeping 2).power.held = false ∧
    (sleeping 2).power.leak = false := by decide +kernel
theorem witness_deadlineJob : (due 0 5).fires (0 : Die).val (3 : Fin 1024).val 5 (entry 5) ∧
    (due 0 5).findJob (entry 5).target = some job ∧ job.st = .running ∧ (due 0 5).threadsDone job = false := by decide +kernel

def broken : SchedEntry := { entry 4 with nposition := 0 }
theorem witness_guardDiscards : mfind ({ base with sched := [(3, broken)] } : State).sched
    ((0 : Die).val * 1024 + (3 : Fin 1024).val) = some broken ∧ broken.guarded = false := by decide +kernel

/-! ### Common commands of the threads -/

theorem witness_nop : (one 0 .ready).issuing t0 0x00 0 (head 0 0 0x100) true job ∧ (one 0 .ready).untraced (head 0 0 0x100) := by
  decide +kernel
theorem witness_endCmd : (one 0 .ready).issuing t0 0x01 0 (head 1 0 0x100) true job ∧ (one 0 .ready).busy t0.key = false ∧
    ((one 0 .ready).thread t0.key).markAt = none ∧ (one 0 .ready).matrix.chain.any (fun c => c.2.thread == t0.key) = false := by
  decide +kernel
def waiting : State := { one 0 .ready with threads := [(0, { thread .ready with outstanding := 1 })] }
theorem witness_endCmd_waits : waiting.issuing t0 0x01 0 (head 1 0 0x100) true job ∧ waiting.busy t0.key = true ∧
    waiting.matrix.chain.any (fun c => c.2.thread == t0.key) = false := by decide +kernel

theorem witness_fence : (one 0 .ready).issuing t0 0x09 0 (head 9 0 0x100) true job ∧ (one 0 .ready).busy t0.key = false ∧
    waiting.issuing t0 0x09 0 (head 9 0 0x100) true job ∧ waiting.busy t0.key = true := by decide +kernel
theorem witness_loop : (one 0 .ready).issuing t0 0x0A 0 (head 0xA 0 0x100) true job ∧ (2 : W32) ≠ 0 ∧ 1 ≤ (4095 : W16).toNat ∧
    (4095 : W16).toNat ≤ 4095 ∧ (13 : BitVec 8).toNat ≤ 13 ∧ ((one 0 .ready).thread t0.key).loops.length < 4 := by decide +kernel
theorem witness_link : (one 0 .ready).issuing t0 0x0B 0 (head 0xB 0 0x100) true job ∧ (0xFE0 : W64).toNat % 32 = 0 ∧
    (0xFE0 : W64).toNat < job.image.bytes ∧ (0xFE0 : W64).toNat < 2 ^ 30 := by decide +kernel

def lp (remaining sel : Nat) : LoopRec := ⟨0x100, 2, 3, remaining, sel, 0x40, 0x1000⟩
theorem witness_loops_repeat : 1 < (lp 2 0).remaining ∧ (lp 2 0).baseSel = 0 ∧ 1 ≤ (lp 2 13).baseSel ∧
    (lp 2 13).baseSel ≤ block.bases.length ∧ (lp 1 13).remaining ≤ 1 ∧ 0x100 ≠ (lp 1 13).first + 32 * (lp 1 13).body := by
  decide +kernel
theorem test_loop_strides : closeLoops [lp 2 1] 0x140 block.bases = ([lp 1 1], 0x100, block.bases.set 0 0x40) := by decide +kernel

/-- The flag word at 0x40 of tile 0's scratchpad holds 5. -/
def flagged : State := (one 0 .ready).wrNat (scratchAddr 0 0x40) 4 5

theorem witness_wait : flagged.issuing t0 0x02 0 (head 2 0 0x100) true job ∧ bits (own 0x40).toNat 63 52 = 0 ∧
    bits (0 : BitVec 8).toNat 7 5 = 0 ∧ resolveAddr t0 (flagged.thread t0.key).bases (own 0x40) = some (scratchAddr 0 0x40) ∧
    State.flagPlaceOk t0 (scratchAddr 0 0x40) = true ∧ ¬(bit (0 : BitVec 8).toNat 2 = true ∧ 2 ≤ bits (0 : BitVec 8).toNat 1 0) ∧
    flagged.pieceAcc job (whoOf t0) false false (scratchAddr 0 0x40) 4 = .ok ∧
    State.condHolds 0 5 (flagged.flagWord (scratchAddr 0 0x40)) = true ∧
    State.condHolds 0 8 (flagged.flagWord (scratchAddr 0 0x40)) = false := by decide +kernel

def waits (a : Nat) (limit : Option Nat) (mask : W32) : State :=
  { flagged with threads := [(0, { thread .waitEvent with wait := some ⟨a, mask, 0, limit⟩ })] }

theorem witness_waitWake : ((waits (scratchAddr 0 0x40) none 5).thread t0.key).wait = some ⟨scratchAddr 0 0x40, 5, 0, none⟩ ∧
    ((waits (scratchAddr 0 0x40) none 5).thread t0.key).st = .waitEvent ∧
    (waits (scratchAddr 0 0x40) none 5).isWatched t0.key (scratchAddr 0 0x40) = true ∧
    State.condHolds 0 5 ((waits (scratchAddr 0 0x40) none 5).flagWord (scratchAddr 0 0x40)) = true := by decide +kernel
theorem witness_watchPoll : ((waits (sharedAddr 0 0x40) none 0).thread t0.key).wait = some ⟨sharedAddr 0 0x40, 0, 0, none⟩ ∧
    (waits (sharedAddr 0 0x40) none 0).isWatched t0.key (sharedAddr 0 0x40) = false ∧
    State.condHolds 0 0 ((waits (sharedAddr 0 0x40) none 0).flagWord (sharedAddr 0 0x40)) = true := by decide +kernel
theorem witness_eventLimit : (WaitRec.mk (scratchAddr 0 0x40) 8 0 (some 0)).limit = some 0 ∧
    ((waits (scratchAddr 0 0x40) (some 0) 8).thread t0.key).wait = some ⟨scratchAddr 0 0x40, 8, 0, some 0⟩ ∧
    0 ≤ (waits (scratchAddr 0 0x40) (some 0) 8).beat.pos.toNat ∧
    State.condHolds 0 8 ((waits (scratchAddr 0 0x40) (some 0) 8).flagWord (scratchAddr 0 0x40)) = false ∧
    (waits (scratchAddr 0 0x40) (some 0) 8).findJob ((waits (scratchAddr 0 0x40) (some 0) 8).thread t0.key).job = some job := by
  decide +kernel
theorem witness_skipIfFlag : flagged.issuing t0 0x05 0 (head 5 0 0x100) true job ∧ flagged.busy t0.key = false ∧
    bits (own 0x40).toNat 63 52 = 0 ∧ bits (1 : BitVec 8).toNat 7 2 = 0 ∧ (3 : BitVec 8) ≠ 0 ∧
    resolveAddr t0 (flagged.thread t0.key).bases (own 0x40) = some (scratchAddr 0 0x40) ∧
    State.flagPlaceOk t0 (scratchAddr 0 0x40) = true ∧ flagged.pieceAcc job (whoOf t0) false false (scratchAddr 0 0x40) 4 = .ok := by
  decide +kernel
theorem test_skip_goes_on : ((run (.skipIfFlag t0 (head 5 0 0x100) (own 0x40) 1 1 3) flagged).thread 0).pc = 0x180 := by decide +kernel

theorem witness_waitBeat : (one 0 .ready).issuing t0 0x04 0 (head 4 0 0x100) true job ∧ (2 : BitVec 8).toNat ≤ 2 ∧
    bits (9 : W64).toNat 63 16 = 0 ∧ bits (9 : W64).toNat 63 32 = 0 ∧ State.beatTargetOf 0 0 0 ≤ (one 0 .ready).beat.pos.toNat ∧
    (one 0 .ready).beat.pos.toNat < State.beatTargetOf 0 9 2 := by decide +kernel
def beatWait : State := { one 0 .ready with threads := [(0, { thread .waitBeat with beatTarget := some 0 })] }
theorem witness_waitBeatEnd : (beatWait.thread t0.key).st = .waitBeat ∧ (beatWait.thread t0.key).beatTarget = some 0 ∧
    0 ≤ beatWait.beat.pos.toNat ∧ beatWait.upd.waitBeat.contains t0.key = false ∧
    (beatWait.thread t0.key).traced = false := by decide +kernel

theorem witness_signal : (one 0 .ready).issuing t0 0x03 0 (head 3 0 0x100) true job ∧ (one 0 .ready).busy t0.key = false ∧
    bits (near 0x40).toNat 63 52 = 0 ∧ (2 : BitVec 8).toNat ≤ 2 ∧
    resolveAddr t0 ((one 0 .ready).thread t0.key).bases (near 0x40) = some (sharedAddr 0 0x40) ∧
    State.signalPlaceOk 2 (sharedAddr 0 0x40) = true ∧ plainAddr (sharedAddr 0 0x40) = sharedAddr 0 0x40 ∧
    (one 0 .ready).pieceAcc job (whoOf t0) true false (sharedAddr 0 0x40) 4 = .ok ∧
    placeOf (sharedAddr 0 0x40) = .shared 0 0x40 ∧ (one 0 .ready).untraced (head 3 0 0x100) ∧
    ((one 0 .ready).cacheClean t0.key 0 0 0).busy t0.key = false := by decide +kernel
theorem test_signal_adds : (run (.signal t0 (head 3 0 0x100) (near 0x40) 7 2) ((one 0 .ready).wrNat (sharedAddr 0 0x40) 4 0xFFFFFFFE)).rdNat
    (sharedAddr 0 0x40) 4 = 5 := by decide +kernel

/-- Tile 0's data cache holds a dirty line of the shared store and one of a stack. -/
def cached : State := { one 0 .ready with store := { base.store with
  dcache := [(0, [⟨sharedAddr 0 0x40, BitVec.allOnes 64, 1, List.replicate 64 7⟩, ⟨0x40, BitVec.allOnes 64, 0xF, List.replicate 64 3⟩])] } }

theorem witness_acquire : cached.issuing (.tile 0 0) 0x07 0 (head 7 0 0x100) true job ∧ bits (0 : W64).toNat 63 52 = 0 ∧
    resolveAddr (.tile 0 0) (cached.thread (ThreadId.tile 0 0).key).bases 0 = some 0 ∧
    cached.jobPlace job (placeOf 0) = .ok ∧ 7168 ≤ sv.key ∧ 7168 ≤ up.key ∧
    resolveAddr sv ((one 7168 .ready).thread sv.key).bases 0 = some 0 ∧
    (one 7168 .ready).issuing sv 0x07 0 (head 7 0 0x100) true job ∧ (one 7168 .ready).busy sv.key = false := by decide +kernel
theorem witness_release : cached.issuing (.tile 0 0) 0x08 0 (head 8 0 0x100) true job ∧ cached.busy (ThreadId.tile 0 0).key = false ∧
    (cached.cacheClean 0 0 0 0).busy 0 = true ∧ ((one 0 .ready).cacheClean 0 0 0 0).busy 0 = false ∧
    (one 7200 .ready).issuing up 0x08 0 (head 8 0 0x100) true job ∧ (one 7200 .ready).busy up.key = false := by decide +kernel

theorem witness_mark : (one 0 .ready).issuing t0 0x0C 0 (head 0xC 0 0x100) true job ∧ bit (7 : W32).toNat 31 = false := by
  decide +kernel

/-- Threads 0 and 1 of the job, thread 1 at a replay mark or not. -/
def marking (at1 : Option Nat) : State := { one 0 .ready with
  jobs := [{ job with named := [0, 1] }]
  threads := [(0, thread .ready), (1, { thread .waitOrder with markAt := at1 })] }
theorem witness_mark_replay : (∀ m ∈ [none, some 7], (marking m).issuing t0 0x0C 0 (head 0xC 0 0x100) true { job with named := [0, 1] } ∧
    (marking m).busy t0.key = false ∧
    ∀ x ∈ [0, 1], ((marking m).thread x).markAt = none ∨ ((marking m).thread x).markAt = some ((0x80000007 : W32).toNat % 2 ^ 31)) ∧
    bit (0x80000007 : W32).toNat 31 = true ∧ t0.key ∈ [0, 1] ∧ [0, 1].Nodup ∧ ((marking none).thread 1).st ≠ .done ∧
    (marking (some 7)).markClean { job with named := [0, 1] } = true := by decide +kernel
theorem witness_mark_order : (marking (some 6)).issuing t0 0x0C 0 (head 0xC 0 0x100) true { job with named := [0, 1] } ∧
    ((marking (some 6)).thread 1).markAt = some 6 ∧ 6 ≠ (0x80000007 : W32).toNat % 2 ^ 31 := by decide +kernel
theorem witness_listFill : ((one 0 .waitList).thread t0.key).st = .waitList ∧
    (one 0 .waitList).findJob ((one 0 .waitList).thread t0.key).job = some job ∧ job.live = true ∧
    ((one 0 .waitList).aheadLines t0.key).contains ((job.image.base + (1 : BitVec 22).toNat * 256) / 256) = true ∧
    (one 0 .waitList).reqsOut (fun r => r.thread == listRequester (listCache t0.key) &&
      r.addr == job.image.base + (1 : BitVec 22).toNat * 256) = [] ∧
    (one 0 .waitList).channelAcc (job.image.base + (1 : BitVec 22).toNat * 256) 256 = .ok ∧
    (one 0 .waitList).poisonStack (job.image.base + (1 : BitVec 22).toNat * 256) 256 = false ∧
    (one 0 .waitList).listLine t0.key = (job.image.base + (1 : BitVec 22).toNat * 256) / 256 := by decide +kernel

theorem witness_regWrite : (one 0 .ready).issuing t0 0x06 0 (head 6 0 0x100) true job ∧ (one 0 .ready).busy t0.key = false ∧
    job.block.tiles.contains (0 : Tile).val = true ∧
    (BitVec.ofNat 32 (Regs.layerEn 0 15) : W32).toNat = Regs.layerEn (0 : Tile).val (15 : Fin 16).val ∧
    State.listOk job (0 : W32).toNat 4 = false := by decide +kernel

/-! ### Supply, clock plans and power states -/

/-- The module in a power state, with what it is entering or leaves. -/
def powered (st target origin : BitVec 3) : State :=
  { base with power := { base.power with st := st, target := target, origin := origin } }

theorem witness_supply : base.power.off = false ∧ base.power.held = false ∧ (37999 : W16).toNat < 38000 ∧
    base.power.warn = false ∧ 39000 ≤ (39000 : W16).toNat ∧ (33999 : W16).toNat < 34000 ∧ 62000 < (62001 : W16).toNat ∧
    base.power.leak = false := by decide +kernel
theorem test_supplyWarn_reports : Output.report 0x6101 0x700 ∈ (run (.supplyWarn 37999) base).sent := by decide +kernel

def throttled : State := { base with power := { base.power with therm := 2 } }
theorem witness_throttle : base.planNow ≠ 5 ∧ ({ base with power := { base.power with therm := 5 } } : State).planNow = 5 := by
  decide +kernel
theorem test_planStepUp : (run .planStepUp throttled).power.therm = 1 := by decide +kernel
theorem witness_coolantHigh : base.power.coolFloor = 0 ∧ base.power.off = false := by decide +kernel

theorem witness_idleEntry : (powered 4 1 0).entering 1 = true ∧ (powered 4 1 0).power.latched = none ∧
    (powered 4 1 0).power.queued = [] := by decide +kernel
theorem witness_autoIdle : base.power.st = 0 ∧
    (({ base with setup := [(Regs.pwrPlan, 0x10000)] } : State).field Regs.pwrPlan 31 16) ≠ 0 ∧
    base.anyBound = false := by decide +kernel
theorem witness_sleepEntry : (powered 4 2 0).entering 2 = true ∧ (powered 4 2 0).drained = true ∧
    (powered 4 2 0).power.latched = none ∧ (powered 4 2 0).power.queued = [] := by decide +kernel
theorem witness_deepSleepEntry : (powered 4 3 0).entering 3 = true ∧ (powered 4 3 0).drained = true ∧
    (powered 4 3 0).jobs = [] ∧ (powered 4 3 0).power.queued = [] := by decide +kernel
theorem witness_offEntry : (powered 4 4 0).entering 4 = true ∧ (powered 4 4 0).drained = true ∧ (powered 4 4 0).jobs = [] := by
  decide +kernel
theorem witness_forceTimeout : ({ powered 4 4 0 with jobs := [job] } : State).entering 4 = true ∧
    (powered 4 4 0).power.forceDone = false ∧ ({ powered 4 4 0 with jobs := [job] } : State).findJob 1 = some job ∧
    job.st = .running := by decide +kernel

def asked : State := { powered 2 0 0 with power := { (powered 2 0 0).power with inProgress := some ⟨0, false, none, none⟩ } }
theorem witness_runRequest : asked.power.inProgress = some ⟨0, false, none, none⟩ ∧ (PwrReq.mk 0 false none none).target = 0 ∧
    asked.power.st = 2 := by decide +kernel
theorem witness_exits : (powered 5 0 1).exiting 1 = true ∧ (powered 5 0 2).exiting 2 = true ∧ (powered 5 0 3).exiting 3 = true ∧
    (powered 5 0 1).power.queued = [] ∧ (powered 5 0 3).power.pgFails = 0 := by decide +kernel
theorem witness_wakePin : 1000 ≤ (1000 : W32).toNat ∧ (powered 3 0 0).power.st = 3 ∧ (powered 3 0 0).power.off = false ∧
    (powered 3 0 0).power.held = false := by decide +kernel
def latched : State := { powered 3 0 0 with power := { (powered 3 0 0).power with latched := some 6 } }
theorem witness_wakeReplayed : latched.power.latched = some 6 ∧ latched.power.off = false ∧ latched.power.st = 3 ∧
    base.power.latched = none ∧
    ({ latched with power := { latched.power with off := true } } : State).imagesGood = true := by decide +kernel
def failedOnce (st origin : BitVec 3) : State := { powered st 0 origin with power := { (powered st 0 origin).power with pgFails := 1 } }
theorem witness_powerGood : (powered 5 0 3).power.st = 5 ∧ (powered 5 0 3).power.pgFails = 0 ∧ (failedOnce 5 3).power.st = 5 ∧
    (failedOnce 5 3).power.pgFails ≠ 0 ∧ (failedOnce 3 0).power.pgFails ≠ 0 ∧ (failedOnce 3 0).power.st = 3 := by decide +kernel

def off : State := { base with power := { base.power with off := true, held := true } }
/-- No bank of flash holds a valid image. -/
def badImages (s : State) : State := { s with mgmt := { s.mgmt with banks := [] } }

theorem witness_coldBoot : base.imagesGood = true ∧ off.imagesGood = true ∧ off.power.held = true ∧ off.power.hot = false ∧
    off.power.leak = false ∧ (badImages base).imagesGood = false := by decide +kernel

/-! ### Accord and the set-up space -/

/-- Context 2, the management controller's, in a state with staged writes. -/
def ctx (st : BitVec 2) (staged : List Staged) (failed : W16) : State :=
  { base with accord := [(2, ⟨st, 9, staged, failed, 0, none⟩)], beat := { base.beat with mode := 1 } }

def wakeStage : List Staged := [⟨Regs.pwrWakeEn, 4, 0x12301⟩]

theorem witness_begin : base.commands .mgmt (2 : Fin 3).val ∧ (base.acc (2 : Fin 3).val).st = 0 := by decide +kernel
theorem witness_commitAt : (ctx 1 wakeStage 0).commands .mgmt (2 : Fin 3).val ∧ ((ctx 1 wakeStage 0).acc (2 : Fin 3).val).st = 1 ∧
    (ctx 1 wakeStage 0).beat.mode ≠ 0 ∧ (ctx 1 wakeStage 0).beat.mode ≠ 3 ∧
    (ctx 1 wakeStage 0).beat.pos.toNat ≤ ((ctx 1 wakeStage 0).reg (Regs.accordBeat (2 : Fin 3).val)).toNat ∧
    ((ctx 1 wakeStage 0).freeEntry 4).isSome = true := by decide +kernel
theorem witness_begin_open : (ctx 1 wakeStage 0).commands .mgmt (2 : Fin 3).val ∧ ((ctx 1 wakeStage 0).acc (2 : Fin 3).val).st ≠ 0 ∧
    (0 : W32) ≠ BitVec.ofNat 32 (2 ^ 32 - 2) := by decide +kernel

/-- The context cannot commit later: in SEARCH, behind the beat, and with no entry free. -/
def unsearched : State := { ctx 1 wakeStage 0 with beat := base.beat }
def passed : State := { ctx 1 wakeStage 0 with beat := { base.beat with mode := 1, pos := 1 } }
def fullTable : State := { ctx 1 wakeStage 0 with sched := (List.range 256).map (fun i => (4096 + i, entry 1)) }
theorem witness_commitAt_ends : unsearched.beat.mode = 0 ∧ (passed.reg (Regs.accordBeat 2)).toNat < passed.beat.pos.toNat ∧
    (fullTable.freeEntry 4).isSome = false ∧ fullTable.beat.mode ≠ 0 := by decide +kernel
theorem witness_rollback : (ctx 2 wakeStage 0).commands .mgmt (2 : Fin 3).val ∧
    ((ctx 2 wakeStage 0).acc (2 : Fin 3).val).st = 2 := by decide +kernel

theorem witness_plainWord : plainWord Regs.pwrWakeEn { width := 32, reset := 31, rw := 31 } := by decide +kernel
theorem witness_commit : ((ctx 1 wakeStage 0).acc (2 : Fin 3).val).failed = 0 ∧
    (ctx 1 wakeStage 0).plainStaged ((ctx 1 wakeStage 0).acc (2 : Fin 3).val).staged ∧
    ((ctx 1 wakeStage 0x1112).acc (2 : Fin 3).val).failed ≠ 0 := by
  refine ⟨by decide +kernel, ⟨?_, by decide +kernel⟩, by decide +kernel⟩
  intro w hw
  rw [show ((ctx 1 wakeStage 0).acc (2 : Fin 3).val).staged = wakeStage by decide +kernel] at hw
  obtain rfl : w = ⟨Regs.pwrWakeEn, 4, 0x12301⟩ := by simpa [wakeStage] using hw
  exact ⟨rfl, _, witness_plainWord⟩
theorem test_commit_applies : (run (.commit .mgmt 2 0xFFFFFFFD) (ctx 1 wakeStage 0)).regNat Regs.pwrWakeEn = 1 := by decide +kernel

def commitDue : State := { ctx 2 wakeStage 0 with sched := [(4 * 1024 + 3, SchedEntry.make 2 0 0 (2 * 65536 + 9) 0 false)] }
theorem witness_accordCommit : commitDue.fires 4 (3 : Fin 256).val 2 (SchedEntry.make 2 0 0 (2 * 65536 + 9) 0 false) ∧
    2 = bits (2 * 65536 + 9 : W32).toNat 17 16 ∧ (commitDue.acc 2).st = 2 ∧
    bits (2 * 65536 + 9 : W32).toNat 15 0 = (commitDue.acc 2).txn.toNat ∧ (commitDue.acc 2).failed = 0 := by decide +kernel

theorem witness_staging : (ctx 1 [] 0).reaches .mgmt = true ∧ ((ctx 1 [] 0).acc (State.ctxOf .mgmt)).st = 1 ∧
    ((ctx 1 [] 0).acc (State.ctxOf .mgmt)).staged.length < 4096 ∧
    ((ctx 1 [] 0).acc (State.ctxOf .mgmt)).staged.any (fun w => w.offset == Regs.pwrWakeEn && w.size == 4) = false := by decide +kernel

theorem witness_setup_stray : (base.writesNow .mgmt) ∧ State.piece4 (0xFFFFFC : W32).toNat = .nothing (0xFFFFFC : W32).toNat ∧
    (0xFFFFFC : W32).toNat % 4 = 0 ∧ State.accessOk (2 : W32).toNat (4 : BitVec 8).toNat = false := by decide +kernel

/-! ### On-chip and stacked memory control -/

theorem witness_bankOwner : State.rwgOk (0xFFFFFFFE00000001 : W64).toNat = true ∧
    base.bankJob (bankNum (.scratch 0 15)) = none ∧
    ownerFieldsOk (decide (4096 ≤ bankNum (.scratch 0 15))) ((0xFFFFFFFE00000001 : W64).toNat % 2 ^ 32) = true ∧ base.nothingWaits ∧
    State.rwgOk (0xFFFFFFF800000007 : W64).toNat = true ∧
    ownerFieldsOk false ((0xFFFFFFF800000007 : W64).toNat % 2 ^ 32) = false := by decide +kernel
def compat : State := { base with setup := [(Regs.memCompat 0, 1)], store := { base.store with compatWaking := [0] } }
theorem witness_bankPwr : base.flag (Regs.memCompat (0 : Tile).val) 0 = false ∧
    bits (0x00000002 : W32).toNat (2 * 0 + 1) (2 * 0) = 2 ∧ compat.flag (Regs.memCompat (0 : Tile).val) 0 = true := by decide +kernel
def moving : State := { base with store := { base.store with moves := [⟨3, 0, true⟩] } }
theorem witness_bankTransition : moving.store.moves.find? (fun m => m.bank == bankNum (.scratch 0 3)) = some ⟨3, 0, true⟩ ∧
    (BankMove.mk 3 0 true).zero = true ∧ (BankMove.mk 3 0 true).target ≠ 2 ∧ moving.flag (Regs.memCompat 0) 0 = false ∧
    moving.nothingWaits := by decide +kernel
theorem witness_memCompat : bit (1 : W32).toNat 0 = true ∧ bit (0 : W32).toNat 0 = false ∧ base.flag (Regs.memCompat (0 : Tile).val) 0 = false := by
  decide +kernel
theorem witness_compatWake : compat.flag (Regs.memCompat (0 : Tile).val) 0 = true ∧
    compat.flag (Regs.memCompat (0 : Tile).val) 1 = false ∧ compat.store.compatWaking.contains (0 : Tile).val = true ∧ compat.nothingWaits := by decide +kernel

theorem witness_region : base.regionVerdict (State.regionEff (63 : Fin 64).val true (7 : W64).toNat base) (63 : Fin 64).val
    true (7 : W64).toNat = .ok ∧
    ({ base with jobs := [job], setup := [(Regs.rgnHi 63, 7)] } : State).regionVerdict
      (State.regionEff (63 : Fin 64).val true (8 : W64).toNat { base with jobs := [job], setup := [(Regs.rgnHi 63, 7)] })
      (63 : Fin 64).val true (8 : W64).toNat = .region ∧ 4 ≤ bits (8 : W64).toNat 3 1 := by decide +kernel

def scrubbing : State := { base with setup := [(Regs.scrubCfg, 1)] }
theorem witness_scrub : scrubbing.power.st = 0 ∧ scrubbing.flag Regs.scrubCfg 0 = true ∧ (powered 2 0 0).power.st = 2 ∧
    (0xBFFFFFFC0 : BitVec 36).toNat < 0xC00000000 := by decide +kernel
theorem witness_repairs : mget base.stk.rowsUsed (((0 : Stack).val * 132 + (131 : Fin 132).val) * 16 + (15 : Fin 16).val) 0 < 8 ∧
    (powered 2 0 0).power.st = 2 ∧
    mget (powered 2 0 0).stk.colsUsed (((0 : Stack).val * 132 + (131 : Fin 132).val) * 16 + (15 : Fin 16).val) 0 < 2 ∧
    mget (powered 2 0 0).stk.lanesUsed ((0 : Stack).val * 132 + (131 : Fin 132).val) 0 < 2 := by decide +kernel
def worn : State := { powered 2 0 0 with stk := { (powered 2 0 0).stk with chSt := [(5, .degraded)] } }
theorem witness_channelReplace : worn.power.st = 2 ∧ worn.chState (0 : Stack).val (worn.physCh (0 : Stack).val (5 : Fin 128).val) = .degraded ∧
    worn.freeSpare (0 : Stack).val = some 128 := by decide +kernel
theorem witness_channelDown : base.chState (0 : Stack).val (base.physCh (0 : Stack).val (5 : Fin 128).val) ≠ .down := by
  decide +kernel

/-! ### Transfers and the stack channels -/

/-- The state with bytes of a record at image offset 0x200, which lies at 0x4200 of stack 0. -/
def withRec (bs : List Byte) (s : State) : State := s.wr 0x4200 bs

def copyBytes : List Byte :=
  leBytes 8 (scratchAddr 0 0) ++ leBytes 8 (scratchAddr 0 0x1000) ++ leBytes 4 64 ++ leBytes 4 1 ++ List.replicate 24 0
    ++ [0x0B, 0x0B, 0, 0] ++ List.replicate 12 0
def copying : State := withRec copyBytes ((one 12 .ready).wrNat (scratchAddr 0 0) 4 0x12345678)
def copyRec : CopyRec := ⟨scratchAddr 0 0, scratchAddr 0 0x1000, 64, 1, 0, 0, 0, 0, 0xB, 0xB, 0, 0, 0, 0, 0, 0⟩

theorem witness_teCopy : copying.copying 0 12 (head 0x20 3 0x100) job 0x200 copyRec ∧ copyRec.fin = copyRec.fout ∧
    fmtMx copyRec.fin = false ∧ fmtTensor copyRec.fin = false ∧ State.copyOverlap copyRec = none ∧ copyRec.rows = 1 ∧
    windowOf copyRec.src = 0 ∧ placeOf copyRec.src = .scratch 0 0 ∧ placeOf copyRec.dst = .scratch 0 0x1000 ∧
    windowOf copyRec.dst = 0 ∧ copying.clearOfServe copyRec.dst ((copyRec.rows - 1) * copyRec.dpitch + copyRec.dstBytes) := by
  decide +kernel

/-- FP32 to BF16 of 16 elements, and from or to stacked memory, or from host memory. -/
def copyFrom (src dst : Nat) (fin fout : Byte) : State :=
  withRec (leBytes 8 src ++ leBytes 8 dst ++ leBytes 4 16 ++ leBytes 4 1 ++ List.replicate 24 0 ++ [fin, fout, 0, 0] ++
    List.replicate 12 0) ((({ one 12 .ready with setup := regions } : State).wrNat (scratchAddr 0 0) 4 0x3FC00000).wrNat 0x8000 4 0x12345678)
def copyRecOf (src dst : Nat) (fin fout : Nat) : CopyRec := ⟨src, dst, 16, 1, 0, 0, 0, 0, fin, fout, 0, 0, 0, 0, 0, 0⟩
theorem witness_teCopy_converts :
    (copyFrom (scratchAddr 0 0) (scratchAddr 0 0x1000) 0 1).copying 0 12 (head 0x20 3 0x100) job 0x200
      (copyRecOf (scratchAddr 0 0) (scratchAddr 0 0x1000) 0 1) ∧
    (copyRecOf (scratchAddr 0 0) (scratchAddr 0 0x1000) 0 1).sr = false ∧ fmtMx 0 = false ∧ fmtMx 1 = false ∧
    fmtTensor 0 = false ∧ fmtTensor 1 = false ∧
    State.copyOverlap (copyRecOf (scratchAddr 0 0) (scratchAddr 0 0x1000) 0 1) = none ∧ bit job.block.flags.toNat 3 = false := by
  decide +kernel
theorem witness_teCopy_stack :
    (copyFrom 0x8000 (scratchAddr 0 0x1000) 0 0).copying 0 12 (head 0x20 3 0x100) job 0x200
      (copyRecOf 0x8000 (scratchAddr 0 0x1000) 0 0) ∧ placeOf 0x8000 = .stack 0 0x8000 ∧
    (copyFrom 0x8000 (scratchAddr 0 0x1000) 0 0).hostReadsOf 12 (copyRecOf 0x8000 (scratchAddr 0 0x1000) 0 0) = [] ∧
    (copyFrom (scratchAddr 0 0) 0x8000 0 0).copying 0 12 (head 0x20 3 0x100) job 0x200 (copyRecOf (scratchAddr 0 0) 0x8000 0 0) ∧
    mget (copyFrom (scratchAddr 0 0) 0x8000 0 0).store.dcache 0 [] = [] := by decide +kernel

/-- The list word is 2, so the third row of the source is taken. -/
def rowcopyBytes : List Byte :=
  leBytes 8 (scratchAddr 0 0x40) ++ leBytes 8 (scratchAddr 0 0x1000) ++ leBytes 8 (scratchAddr 0 0x2000) ++ leBytes 4 1 ++ leBytes 4 64
    ++ leBytes 4 3 ++ leBytes 4 64 ++ leBytes 4 0 ++ [4] ++ List.replicate 19 0
def gathering : State := withRec rowcopyBytes (((one 12 .ready).wrNat (scratchAddr 0 0x40) 4 2).wrNat (scratchAddr 0 0x1080) 4 77)
def rowRec : RowRec := ⟨scratchAddr 0 0x40, scratchAddr 0 0x1000, scratchAddr 0 0x2000, 1, 64, 3, 64, 0, 4⟩

theorem witness_teRowcopy : gathering.rowCopying 0 12 (head 0x39 3 0x100) job 0x200 rowRec ∧ rowRec.rows = 1 ∧
    placeOf rowRec.list = .scratch 0 0x40 ∧
    placeOf (rowRec.src + gathering.rowIndex rowRec 0 * rowRec.spitch) = .scratch 0 0x1080 ∧
    placeOf rowRec.dst = .scratch 0 0x2000 ∧ windowOf (rowRec.src + gathering.rowIndex rowRec 0 * rowRec.spitch) = 0 ∧
    windowOf rowRec.dst = 0 ∧ rowRec.list + 4 ≤ rowRec.dst ∧
    rowRec.src + gathering.rowIndex rowRec 0 * rowRec.spitch + rowRec.rowBytes ≤ rowRec.dst ∧
    gathering.clearOfServe rowRec.dst rowRec.rowBytes := by decide +kernel

/-- The same with its source rows in stacked memory. -/
def rowStackRec : RowRec := ⟨scratchAddr 0 0x40, 0x8000, scratchAddr 0 0x2000, 1, 64, 3, 64, 0, 4⟩
def gatheringStack : State := { gathering with setup := regions }.wr 0x4208 (leBytes 8 0x8000)
theorem witness_teRowcopy_stack : gatheringStack.rowCopying 0 12 (head 0x39 3 0x100) job 0x200 rowStackRec ∧
    gatheringStack.rowIndex rowStackRec 0 < rowStackRec.srcRows ∧
    placeOf (rowStackRec.src + gatheringStack.rowIndex rowStackRec 0 * rowStackRec.spitch) = .stack 0 0x8080 := by decide +kernel
theorem test_rowcopy_takes_named_row :
    (run (.teRowcopy (.tile 0 12) (head 0x39 3 0x100) 0x200) gathering).rdNat (scratchAddr 0 0x2000) 4 = 77 := by decide +kernel

/-- Two tokens of one choice each among two experts of one row block; both name expert 1, whose fallback is 0. -/
def dispBytes : List Byte :=
  leBytes 8 (scratchAddr 0 0x1000) ++ leBytes 8 (scratchAddr 0 0x1100) ++ leBytes 8 (scratchAddr 0 0x1200) ++ leBytes 8 (scratchAddr 0 0x2000)
    ++ leBytes 8 (scratchAddr 0 0x1300) ++ leBytes 8 (scratchAddr 0 0x1400) ++ leBytes 8 (scratchAddr 0 0x1500) ++ leBytes 4 2 ++ [1, 0]
    ++ leBytes 2 2 ++ leBytes 4 256 ++ leBytes 2 64 ++ leBytes 2 8 ++ List.replicate 56 0
def dispatching : State :=
  withRec dispBytes (((one 12 .ready).wr (scratchAddr 0 0x1000) (leBytes 4 1 ++ leBytes 4 1)).wr (scratchAddr 0 0x1200)
    (leBytes 4 0 ++ leBytes 2 128 ++ leBytes 2 0xFFFF ++ leBytes 8 0 ++ leBytes 4 0 ++ leBytes 2 128 ++ leBytes 2 0 ++ leBytes 8 128))
def dispRec : State.DispRec := ⟨scratchAddr 0 0x1000, scratchAddr 0 0x1100, scratchAddr 0 0x1200, scratchAddr 0 0x2000,
  scratchAddr 0 0x1300, scratchAddr 0 0x1400, scratchAddr 0 0x1500, 2, 1, 2, 256, 64, 8, false, 0⟩

theorem witness_teDispatch : dispatching.issuing (.tile 0 12) 0x38 3 (head 0x38 3 0x100) true job ∧
    (0x200 : W32).toNat + 128 ≤ job.image.bytes ∧ dispatching.recordAcc (job.image.base + (0x200 : W32).toNat) 128 = none ∧
    State.readDispRec (.tile 0 12) (dispatching.thread (ThreadId.tile 0 12).key).bases
      (dispatching.rd (job.image.base + (0x200 : W32).toNat) 128) = some dispRec ∧
    State.dispFieldsOk dispRec = true ∧
    (∀ x ∈ State.dispExtents dispRec, x.2.1 ≠ 0 → dispatching.ownScratch ⟨3, (0 : Tile).val⟩ (0 : Tile).val x.1 x.2.1 = .ok) ∧
    (dispatching.checkAll job ⟨3, (0 : Tile).val⟩ (State.dispExtents dispRec)).1 = .ok ∧ dispatching.dispTableOk dispRec = true := by
  decide +kernel

/-- Placements so far: expert 1 full or not. -/
def placing (placed : SMap Nat) : State.Placing := { st := dispatching, placed := placed, capped := [], dropped := 0, fallback := 0, badIndex := 0 }
theorem witness_assign : (BitVec.ofNat 32 ((placing []).st.w4 (dispRec.route + 4 * 0))).toInt = ((1 : Nat) : Int) ∧ 1 < dispRec.nexp ∧
    mget (placing []).placed 1 0 < (placing []).st.expCap dispRec 1 ∧ (placing []).st.expCap dispRec 1 ≤ mget (placing [(1, 128)]).placed 1 0 ∧
    (placing []).st.expFallback dispRec 1 < dispRec.nexp ∧ dispRec.nexp ≤ (placing []).st.expFallback dispRec 0 := by decide +kernel

def request (write : Bool) : Req := ⟨12, 1, 3, true, 0x40, 64, write, if write then List.replicate 64 9 else [], 1⟩
def queued (st : TSt) (w q : List Req) : State := { one 12 st with
  threads := [(12, { thread st with outstanding := 1 })]
  stk := { base.stk with waiting := [(0, w)], queues := [(0, q)] } }

theorem witness_channels : mget (queued .ready [request false] []).stk.waiting ((0 : Stack).val * 128 + (0 : Fin 128).val) [] = [request false] ∧
    entriesOf (mget (queued .ready [request false] []).stk.queues ((0 : Stack).val * 128 + (0 : Fin 128).val) [] ++ [request false]) ≤ 96 ∧
    ((queued .ready [request false] []).thread 12).copy = none ∧ ((queued .ready [request false] []).thread 12).unissued = [] ∧
    ((queued .ready [request false] []).thread 12).st = .ready ∧ ((queued .waitData [request false] []).thread 12).st = .waitData ∧
    keyEngine 12 = 3 ∧ ((queued .waitData [request false] []).thread 12).markAt = none ∧
    (∀ c ∈ mset (queued .waitData [request false] []).stk.waiting 0 [], ∀ x ∈ c.2, x.thread ≠ 12) := by decide +kernel
theorem witness_promote :
    (mget (queued .ready [] [request false]).stk.queues ((0 : Stack).val * 128 + (0 : Fin 128).val) [])[(0 : Fin 96).val]? = some (request false) ∧
    1 < (request false).cls := by decide +kernel
theorem witness_done : (∀ w ∈ [false, true], nextServed (mget (queued .ready [] [request w]).stk.queues 0 []) = some (request w) ∧
    (queued .ready [] [request w]).chState (0 : Stack).val ((queued .ready [] [request w]).physCh (0 : Stack).val (0 : Fin 128).val) ≠ .down ∧
    (queued .ready [] [request w]).findJob ((queued .ready [] [request w]).thread 12).job = some job ∧
    ((queued .ready [] [request w]).thread 12).tails = []) ∧ placeOf (request true).addr = .stack 0 0x40 := by decide +kernel

/-- A fill of tile 0's list cache, and a channel that is DOWN. -/
def listRead : Req := { request false with thread := 8192 }
def downed : State := { queued .ready [] [request true] with stk := { (queued .ready [] [request true]).stk with chSt := [(0, .down)] } }
theorem witness_done_others : nextServed (mget (queued .ready [] [listRead]).stk.queues 0 []) = some listRead ∧ 7232 ≤ listRead.thread ∧
    listRead.data = [] ∧ listRead.thread < runaheadRequester 0 ∧
    nextServed (mget downed.stk.queues 0 []) = some (request true) ∧ downed.chState 0 (downed.physCh 0 0) = .down := by decide +kernel
/-! ### Rings, descriptors and host ports -/

def desc (kind : Nat) : DescHead :=
  let d : DescHead := ⟨0, 0, false, 0, 0, false, none⟩
  { d with nhdr := ~~~(descHeader kind d) }

/-- Port 0 is up, with submission and completion ring 0 of 64 entries and one descriptor to take; the job runs. -/
def ringed : State := { one 0 .ready with
  setup := [(Regs.sqCfg 0 0, 13), (Regs.cqCfg 0 0, 0x80D), (Regs.cqBase 0 0, 0x100000), (Regs.ringDb 0 0, 0x200000)]
  host := { base.host with ports := [(0, { HostPort.fresh with up := true })], rings := [(0, { Ring.fresh with sqTail := 1 })] } }

theorem witness_takes : ringed.takes (desc 2) 2 1 ∧ ringed.takes (desc 4) 4 1 ∧ ringed.takes (desc 5) 5 1 ∧
    ringed.takes (desc 6) 6 1 ∧ ringed.takes (desc 3) 3 1 := by decide +kernel

theorem witness_quench : ringed.findJob 1 = some job ∧ job.st = .running ∧ ringed.ownsPort (desc 6).port.val job.port = true ∧
    (ringed.thread t0.key).job = 1 ∧ (ringed.thread t0.key).st = .ready := by decide +kernel

def quenchable (st : JobSt) (p : Nat) : State := { ringed with jobs := [{ job with st := st, port := p }] }
def finished : State := { ringed with threads := [(0, thread .done), (1, thread .done)] }
theorem witness_quench_answers : ringed.findJob 2 = none ∧ ringed.threadsDone job = false ∧
    (quenchable .running 1).ownsPort (desc 6).port.val 1 = false ∧ (quenchable .completing 0).takes (desc 6) 6 1 ∧
    (quenchable .quenching 0).takes (desc 6) 6 1 ∧ (quenchable .admitted 0).findJob 1 = some { job with st := .admitted } ∧
    finished.takes (desc 6) 6 1 ∧ finished.threadsDone job = true := by decide +kernel

def resident (ev : Option (Nat × Nat × Nat)) : State := { ringed with jobs := [], images := [⟨image, ev⟩] }
theorem witness_evict : (resident none).takes (desc 5) 5 1 ∧
    (resident none).images.find? (fun r => r.evicting.isNone && r.img.digest == 0) = some ⟨image, none⟩ ∧
    (resident none).images.find? (fun r => r.evicting.isNone && r.img.digest == 1) = none ∧
    (resident (some (0, 0, 0))).images.find? (fun r => r.evicting.isSome && r.img.digest == 0
      && !(resident (some (0, 0, 0))).imageUsed r.img) = some ⟨image, some (0, 0, 0)⟩ := by decide +kernel

theorem witness_doorbell : ringed.polls (0 : HPort).val (0 : Fin 64).val = true ∧
    ringed.flag (Regs.sqCfg (0 : HPort).val (0 : Fin 64).val) 0 = true ∧ (ringed.ring (0 : HPort).val (0 : Fin 64).val).stopped = false ∧
    ((64 : W32) - (ringed.ring (0 : HPort).val (0 : Fin 64).val).sqHead).toNat ≤ 2 ^ ringed.field (Regs.sqCfg (0 : HPort).val (0 : Fin 64).val) 4 1 ∧
    ringed.polls 1 0 = false ∧ base.portLive 0 = false ∧ State.polls { ringed with setup := (Regs.sqCfg 0 0, 12) :: ringed.setup } 0 0 = true ∧
    2 ^ ringed.field (Regs.sqCfg (0 : HPort).val (0 : Fin 64).val) 4 1 < ((65 : W32) - (ringed.ring (0 : HPort).val (0 : Fin 64).val).sqHead).toNat := by
  decide +kernel
def nudged : State := { ringed with power := { base.power with st := 2 }, setup := (Regs.pwrWakeEn, 0x1F) :: ringed.setup }
theorem witness_nudge : nudged.portLive (0 : HPort).val = true ∧ nudged.wakeEnabled 2 = true ∧ nudged.power.st = 2 ∧
    nudged.power.off = false ∧ nudged.power.held = false ∧ nudged.power.leak = false := by decide +kernel
def idleRing : State := { ringed with power := { base.power with st := 1 } }
def emptied (st : BitVec 3) : State := { ringed with jobs := [], threads := [], power := { base.power with st := st } }
theorem witness_power_enters : (∀ tg, 1 ≤ tg → tg ≤ 3 → (match (State.consume (desc 5) 1 (emptied 0)).installWake ⟨tg, false, none, some (0, 0, 0)⟩ with
      | .ok _ => true | _ => false) = true) ∧ (emptied 0).takes (desc 5) 5 1 ∧ (emptied 1).takes (desc 5) 5 1 ∧
    (emptied 0).anyBound = false ∧ ringed.anyBound = true ∧ (emptied 4).takes (desc 5) 5 1 ∧ (emptied 5).takes (desc 5) 5 1 ∧
    (match (State.consume (desc 5) 1 (emptied 0)).installWake ⟨2, false, some 7, some (0, 0, 0)⟩ with
      | .error c => c == 0x1302 | _ => false) = true ∧ ringed.jobs ≠ [] := by
  refine ⟨fun tg h₁ h₂ => ?_, by decide +kernel⟩
  have : tg = 1 ∨ tg = 2 ∨ tg = 3 := by omega
  rcases this with rfl | rfl | rfl <;> decide +kernel
theorem witness_power : ringed.power.st = 0 ∧ ringed.power.off = false ∧ ringed.power.leak = false ∧ ringed.power.held = false ∧
    idleRing.takes (desc 5) 5 1 ∧ idleRing.power.st = 1 := by decide +kernel

/-! ### Transfers, exports and ports -/

/-- A tile's bytes as a transfer names them, in the normal, the OR and the clear window. -/
def modAddr (w : Nat) : W64 := BitVec.ofNat 64 (scratchAddr 0 0x1000 + w * 2 ^ 40)
def flagAddr : W64 := BitVec.ofNat 64 (scratchAddr 0 0x40)
def sleepy : State := { ringed with setup := (Regs.memCompat 0, 1) :: ringed.setup }
theorem witness_transfer : (∀ w < 3, State.transferFieldsOk (modAddr w).toNat 64 0 0 = true ∧ windowOf (modAddr w).toNat = w ∧
      (ringed.transferVerdict (desc 2).port.val 1 7 true (modAddr w).toNat 64 0).1 = .ok) ∧
    (List.replicate 64 (9 : Byte)).length = 64 ∧ State.transferFieldsOk (modAddr 0).toNat 64 1 0 = true ∧
    (ringed.transferVerdict (desc 2).port.val 1 7 false (modAddr 0).toNat 64 0).1 = .ok ∧
    (0x4000 : W64).toNat + 64 ≤ ringed.entryAddr (desc 2).port.val (ringed.boundCq (desc 2).port.val (desc 2).ring.val) := by
  decide +kernel
theorem witness_transfer_flag : State.transferFieldsOk (modAddr 0).toNat 64 1 flagAddr.toNat = true ∧ flagAddr ≠ 0 ∧
    (ringed.transferVerdict (desc 2).port.val 1 7 false (modAddr 0).toNat 64 flagAddr.toNat).1 = .ok ∧
    State.transferFieldsOk (modAddr 0).toNat 64 0 flagAddr.toNat = true ∧
    (ringed.transferVerdict (desc 2).port.val 1 7 true (modAddr 0).toNat 64 flagAddr.toNat).1 = .ok ∧
    plainAddr flagAddr.toNat + 4 ≤ (modAddr 0).toNat := by decide +kernel
theorem witness_transfer_refused : State.transferFieldsOk (modAddr 0).toNat 60 0 0 = false ∧
    (ringed.transferVerdict (desc 2).port.val 0 7 true 0x9000 64 0).1 = .bad 0x3201 ∧
    (sleepy.transferVerdict (desc 2).port.val 1 7 true (modAddr 0).toNat 64 0).1 = .wait ∧ sleepy.takes (desc 2) 2 1 := by
  decide +kernel

def hosted : State := { ringed with setup := [], host := { ringed.host with ports := [(0, { HostPort.fresh with up := true })] } }
theorem witness_ringCfg : hosted.writesNow (.host 0) ∧ hosted.flag (Regs.sqCfg (0 : HPort).val (63 : Fin 64).val) 0 = false ∧
    hosted.flag (Regs.cqCfg (0 : HPort).val (63 : Fin 64).val) 0 = false ∧ 6 ≤ bits (0xD : W32).toNat 4 1 ∧
    bits (0x21 : W32).toNat 4 1 ≤ 16 ∧ bits (0xB : W32).toNat 4 1 < 6 ∧
    hosted.writesNow .mgmt ∧ Src.mgmt ≠ .host 0 ∧ ringed.writesNow (.host 0) ∧ ringed.flag (Regs.sqCfg 0 0) 0 = true ∧
    ringed.flag (Regs.cqCfg 0 0) 0 = true ∧ base.cqEnabled 0 0 = false ∧ (hosted.ring (0 : HPort).val (63 : Fin 64).val).held = [] := by decide +kernel
def unsent : State := { ringed with host := { ringed.host with rings := [(0, { Ring.fresh with unsent := 3 })] } }
theorem witness_coalesce : (unsent.ring (0 : HPort).val (0 : Fin 64).val).unsent ≠ 0 ∧
    unsent.cqEnabled (0 : HPort).val (0 : Fin 64).val = true ∧ unsent.portLive (0 : HPort).val = true ∧
    unsent.flag (Regs.cqCfg (0 : HPort).val (0 : Fin 64).val) 11 = true ∧
    bit (unsent.port (0 : HPort).val).masked.toNat (unsent.field (Regs.cqCfg (0 : HPort).val (0 : Fin 64).val) 10 5) = false := by decide +kernel
theorem witness_departs : ringed.portLive (0 : HPort).val = true ∧ (ringed.port (1 - (0 : HPort).val)).adopter = none ∧
    base.portLive (0 : HPort).val = false ∧ base.power.off = false := by decide +kernel
def reading : State := { one 0 .waitData with host := { base.host with reads := [⟨0, 0, 0x1000, 4⟩] } }
theorem witness_hostRead : (HostRead.mk 0 0 0x1000 4).port = (0 : HPort).val ∧ (HostRead.mk 0 0 0x1000 4).addr = (0x1000 : W64).toNat ∧
    (HostRead.mk 0 0 0x1000 4).bytes = ([1, 2, 3, 4] : List Byte).length ∧ 0 < (HostRead.mk 0 0 0x1000 4).bytes ∧
    reading.host.reads.filter (fun x => x.thread == (HostRead.mk 0 0 0x1000 4).thread) = [⟨0, 0, 0x1000, 4⟩] ∧
    (reading.thread (HostRead.mk 0 0 0x1000 4).thread).st = .waitData ∧ reading.host.reads = [⟨0, 0, 0x1000, 4⟩] ∧
    ⟨0, 0, 0x1000, 4⟩ ∈ reading.host.reads ∧ (0 : Nat) = t0.key ∧ base.host.reads = [] ∧
    reading.findJob (reading.thread (HostRead.mk 0 0 0x1000 4).thread).job = some job := by decide +kernel


/-! ### Jobs and exports -/

/-- A job block of the resident image of digest 0: no units but solver engine 0 and update unit 0. -/
def rawBlock (guard : Nat) : List Byte :=
  leBytes 4 0x10400 ++ leBytes 4 guard ++ leBytes 4 1 ++ leBytes 2 7 ++ List.replicate 1010 0

/-- The resident image has neither threads nor tiles. -/
def bare : State := { resident none with images := [⟨{ image with tileCount := 0, threadCount := 0 }, none⟩]
                                         host := { ringed.host with rings := [(0, { Ring.fresh with sqTail := 2 })] } }
def bareTaken (guard : Nat) : State := (bare.consume (desc 1) 2).hostWr 0 0x8000 (rawBlock guard)
def bareJob : Job := (bareTaken (2 ^ 32 - 1 - 0x10400)).candidate 0 0 0 ⟨rawBlock (2 ^ 32 - 1 - 0x10400)⟩ [] []
  { image with tileCount := 0, threadCount := 0 } true

theorem witness_job : bare.takes (desc 1) 1 2 ∧ (0x8000 : W64).toNat % 64 = 0 ∧
    (bareTaken (2 ^ 32 - 1 - 0x10400)).hostRd 0 0x8000 1024 = rawBlock (2 ^ 32 - 1 - 0x10400) ∧
    (RawBlock.mk (rawBlock (2 ^ 32 - 1 - 0x10400))).fieldsOk = true ∧
    (RawBlock.mk (rawBlock (2 ^ 32 - 1 - 0x10400))).n 4 4 = 2 ^ 32 - 1 - (RawBlock.mk (rawBlock (2 ^ 32 - 1 - 0x10400))).n 0 4 ∧
    (RawBlock.mk (rawBlock (2 ^ 32 - 1 - 0x10400))).n 124 4 = 0 ∧
    (bareTaken (2 ^ 32 - 1 - 0x10400)).refreshTable 0 ((RawBlock.mk (rawBlock (2 ^ 32 - 1 - 0x10400))).n 56 8) = some [] ∧
    (RawBlock.mk (rawBlock 5)).n 4 4 ≠ 2 ^ 32 - 1 - (RawBlock.mk (rawBlock 5)).n 0 4 := by decide +kernel
theorem witness_job_admits :
    (match State.takeImage 0 ⟨rawBlock (2 ^ 32 - 1 - 0x10400)⟩ (bareTaken (2 ^ 32 - 1 - 0x10400)) with
     | (.ok (m, res), s₂) => decide (m = { image with tileCount := 0, threadCount := 0 } ∧ res = true ∧
         s₂ = bareTaken (2 ^ 32 - 1 - 0x10400))
     | _ => false) = true ∧
    (match State.admitCand bareJob ((RawBlock.mk (rawBlock (2 ^ 32 - 1 - 0x10400))).n 64 8) (bareTaken (2 ^ 32 - 1 - 0x10400)) with
     | .ok _ => true | _ => false) = true := by decide +kernel

def badBlock : List Byte := leBytes 4 0x10400 ++ leBytes 4 (2 ^ 32 - 1 - 0x10400) ++ List.replicate 1016 0
theorem witness_job_refused : (RawBlock.mk badBlock).fieldsOk = false ∧
    (RawBlock.mk badBlock).n 4 4 = 2 ^ 32 - 1 - (RawBlock.mk badBlock).n 0 4 ∧ { bare with images := [] }.takes (desc 1) 1 2 ∧
    (match State.takeImage 0 ⟨rawBlock (2 ^ 32 - 1 - 0x10400)⟩ { bareTaken (2 ^ 32 - 1 - 0x10400) with images := [] } with
     | (.error x, _) => x.1 == 0x1201 | _ => false) = true ∧
    (match State.admitCand bareJob 0 { bareTaken (2 ^ 32 - 1 - 0x10400) with mgmt := { base.mgmt with lifecycle := 2 } } with
     | .error x => x.1 == 0x1207 | _ => false) = true := by decide +kernel

def admitted : Job := { job with st := .admitted, named := [12], image := { image with threadCount := 1 } }
/-- The image's one thread record names thread 12 of the first tile, at image offset 0x200. -/
def starting : State := ({ base with jobs := [admitted] } : State).wr 0x4100 ([1, 12, 0, 0] ++ leBytes 4 0 ++ leBytes 8 0x200)
theorem witness_jobStart : starting.findJob 1 = some admitted ∧ starting.startReady admitted = true ∧
    starting.power.held = false ∧ starting.power.off = false ∧ starting.power.st = 0 ∧ 0 < admitted.image.threadCount ∧
    State.threadOf admitted (starting.threadRec admitted 0).1.1 (starting.threadRec admitted 0).1.2.1
      (starting.threadRec admitted 0).1.2.2 = some te := by decide +kernel
theorem witness_jobStart_idle : State.startReady { starting with power := { base.power with st := 1 } } admitted = true ∧
    base.findJob 1 = none := by decide +kernel
def ending (st : JobSt) : State := { (one 0 .done).wrNat (scratchAddr 0 0x40) 4 5 with jobs := [{ job with st := st }] }
theorem witness_jobZeroed : (ending .completing).findJob 1 = some { job with st := .completing } ∧
    (ending .completing).jobStill { job with st := .completing } = true ∧
    (ending .quenching).findJob 1 = some { job with st := .quenching } ∧
    (ending .quenching).jobStill { job with st := .quenching } = true := by decide +kernel

/-- A shard record of one block at 0x20000 of stack 0, at generation 5, closed; rule 0 keeps no moment. -/
def shardBytes (gen : Nat) (opened : Bool) : List Byte :=
  curBytes gen opened ++ curBytes gen opened ++ leBytes 4 1 ++ leBytes 2 9 ++ leBytes 2 0 ++ leBytes 8 0x21000
def exportOpen : Job := { job with block := { block with exports := [(0x20000, 0x300000, 0x10000, 7)] } }
def exporting : State := { ringed with setup := regions ++ ringed.setup, sched := [(3, entry 8)]
                                       jobs := [exportOpen]
                                       beat := (due 0 8).beat }.wr 0x20000 (shardBytes 5 false)
theorem witness_export : exporting.takes (desc 4) 4 1 ∧ exporting.exportWaits 0x20000 = false ∧
    State.exportPlaceOk 0x20000 0x300000 = true ∧ (State.exportRun 0 7 0x20000 0x300000 0x10000 (exporting.consume (desc 4) 1)).1 = 0 ∧
    exporting.entryAddr 0 (exporting.boundCq 0 0) + 16 ≤ 0x300000 ∧
    exporting.fires (0 : Die).val (3 : Fin 1024).val 8 (entry 8) ∧
    (exporting.findJob (entry 8).owner).map (fun j => j.block.exports[(entry 8).flags]?) = some (some (0x20000, 0x300000, 0x10000, 7)) ∧
    (State.exportRun 0 7 0x20000 0x300000 0x10000 ((exporting.fired 0 3 (entry 8)).loseReplay 1)).1 = 0 := by decide +kernel

/-- The record is OPEN, by the job that runs; and the same for a descriptor under another tag. -/
def exportHeld : State := { (exporting.wr 0x20000 (shardBytes 5 true)) with upd := { base.upd with opened := [⟨0x20000, 0, 7200, 1, 6, true, [], []⟩] } }
theorem witness_export_waits : exportHeld.exportWaits 0x20000 = true ∧ exportHeld.takes (desc 4) 4 1 ∧
    exportHeld.fires (0 : Die).val (3 : Fin 1024).val 8 (entry 8) ∧
    (State.exportRun 0 8 0x20000 0x300000 0x10000 (exporting.consume (desc 4) 1)).1 = 0x3201 ∧
    (State.exportRun 0 7 0x20000 0x300000 0xFC0 ((exporting.fired 0 3 (entry 8)).loseReplay 1)).1 = 0x5111 ∧
    State.exportPlaceOk 0x20001 0x300000 = false := by decide +kernel

/-! ### The matrix engine -/

theorem witness_mxOpnd : (one 0 .ready).issuing (.tile 0 0) 0x20 1 (head 0x20 1 0x100) true job ∧
    State.opndFieldsOk (own 0x40) 11 0 1 = true ∧
    resolveAddr (.tile 0 0) ((one 0 .ready).thread (ThreadId.tile 0 0).key).bases (own 0x40) = some (scratchAddr 0 0x40) := by
  decide +kernel
/-- Bank 0 of tile 0's scratchpad belongs to the engine of a kind (R136). -/
def bank0 (kind : Nat) : List (Nat × W64) := [(Regs.tilOwner 0 0, BitVec.ofNat 64 (0x10000 + kind))]

def wanting : State := { one 3 .waitUnit with matrix := { base.matrix with last := [(0, 2)] } }
theorem witness_arrayGrant : mfind wanting.matrix.holder (0 : Tile).val = none ∧
    3 = (mget wanting.matrix.last (0 : Tile).val 4 + 1) % 5 ∧ wanting.wantsArray (0 : Tile).val 3 = true := by decide +kernel

def granted : State := { wanting with matrix := { base.matrix with holder := [(0, 2)] } }
def lent : State := { one 3 .ready with matrix := { base.matrix with borrowed := [(0, [1])] } }
theorem witness_arrayGrant_others : mfind granted.matrix.holder 0 = some 2 ∧
    ((List.range 5).map (fun i => (mget wanting.matrix.last 0 4 + 1 + i) % 5)).find? (fun n =>
      if n = 4 then !(mget wanting.matrix.borrowed 0 []).isEmpty else wanting.wantsArray 0 n) = some 3 ∧
    ((List.range 5).map (fun i => (mget lent.matrix.last 0 4 + 1 + i) % 5)).find? (fun n =>
      if n = 4 then !(mget lent.matrix.borrowed 0 []).isEmpty else lent.wantsArray 0 n) = some 4 := by decide +kernel

/-- Slots of a product of BF16 rows that lie in the scratchpad; D lies in a tile buffer, X and the vectors in the scratchpad. -/
def slots (d : Nat) (pitch : Nat) : SMap OpndSlot :=
  [(0, ⟨scratchAddr 0 0, 1, 0, 64⟩), (1, ⟨scratchAddr 0 0x1000, 1, 0, 64⟩), (2, ⟨d, 0, 0, pitch⟩),
    (8, ⟨scratchAddr 0 0x2000, 0, 0, 64⟩), (9, ⟨scratchAddr 0 0x3000, 0, 0, 64⟩), (10, ⟨scratchAddr 0 0x4000, 0, 0, 64⟩)]
/-- Thread 0 of tile 0 holds the array. A is (1, 2) and B is (3, 4), of BF16. -/
def product (d pitch : Nat) : State :=
  let s : State := { one 0 .ready with
    threads := [(0, { thread .ready with slots := slots d pitch })], setup := bank0 1, matrix := { base.matrix with holder := [(0, 0)] } }
  ((s.wr (scratchAddr 0 0) (leBytes 2 0x3F80 ++ leBytes 2 0x4000)).wr (scratchAddr 0 0x1000) (leBytes 2 0x4040)).wr
    (scratchAddr 0 0x1040) (leBytes 2 0x4080)
def mma (mode : BitVec 8) : MmaBody := ⟨1, 1, 2, mode, 0, 0, 0, 0⟩
def prodAt (mode : BitVec 8) : State := if bit mode.toNat 0 then product (scratchAddr 0 0x5000) 64 else product (tbufAddr 0 0) 512

theorem witness_enfFlush : (product 0 0).issuing (.tile 0 0) 0x24 1 (head 0x24 1 0x100) true job ∧
    mfind (product 0 0).matrix.flushing (ThreadId.tile 0 0).key = none ∧
    mfind (product 0 0).matrix.holder (0 : Tile).val = some (0 : Fin 28).val ∧ mfind (product 0 0).matrix.chain (0 : Tile).val = none ∧
    mfind (product 0 0).enf ((0 : Tile).val * 2) = none ∧ mfind (product 0 0).enf ((0 : Tile).val * 2 + 1) = none := by decide +kernel
theorem witness_mxMma : (prodAt 0).issuing (.tile 0 0) 0x21 1 (head 0x21 1 0x100) true job ∧ mmaFieldsOk (mma 0) = true ∧
    (prodAt 0).productReady 0 0 job (prodOf (mma 0)) none ∧ (prodOf (mma 0)).os = false ∧ (prodAt 0).untraced (head 0x21 1 0x100) := by decide +kernel
/-- The same product added to D. -/
theorem witness_mxMma_adds : (prodAt 0).productReady 0 0 job (prodOf ⟨1, 1, 2, 0, 1, 0, 0, 0⟩) none ∧
    (prodOf ⟨1, 1, 2, 0, 1, 0, 0, 0⟩).dst = 1 := by decide +kernel
theorem witness_mxMma_os : (prodAt 1).issuing (.tile 0 0) 0x21 1 (head 0x21 1 0x100) true job ∧ mmaFieldsOk (mma 1) = true ∧
    (prodAt 1).productReady 0 0 job (prodOf (mma 1)) none ∧ (prodOf (mma 1)).os = true ∧ (prodOf (mma 1)).dst ≠ 2 := by
  decide +kernel
/-- The same product kept in the array, and one that goes on from what is kept there. -/
def keep (cont : Bool) : MmaBody := ⟨1, 1, 2, 1, if cont then 6 else 2, 0, 0, 0⟩
def keeping : State := { prodAt 1 with matrix := { base.matrix with holder := [(0, 0)], chain := [(0, ⟨0, 1, 1, 2, [0x3F800000]⟩)] } }
theorem witness_mxMma_keeps : (prodAt 1).productReady 0 0 job (prodOf (keep false)) none ∧ mmaFieldsOk (keep false) = true ∧
    keeping.productReady 0 0 job (prodOf (keep true)) none ∧ mmaFieldsOk (keep true) = true ∧ (prodOf (keep true)).dst = 2 ∧
    (prodOf (keep true)).os = true ∧ keeping.issuing (.tile 0 0) 0x21 1 (head 0x21 1 0x100) true job := by decide +kernel
def setOf (st : SetSt) : EnfSet := ⟨st, 1, sharedAddr 0 0, sharedAddr 0 0x10000, 0, 0, 0, 0, 0, [], 0⟩
def flushing (st : SetSt) (l : SMap Nat) : State :=
  { product 0 0 with enf := [(1, setOf st)], matrix := { base.matrix with holder := [(0, 0)], flushing := l } }
theorem witness_enfFlush_waits : (∀ st ∈ [SetSt.accumulating, .draining], ∀ l ∈ [[], [(0, 0)], [(0, 2)]],
      (flushing st l).issuing (.tile 0 0) 0x24 1 (head 0x24 1 0x100) true job ∧
      mfind (flushing st l).enf ((0 : Tile).val * 2 + (1 : Fin 2).val) = some (setOf st)) ∧
    mfind (flushing .draining [(0, 2)]).matrix.flushing (ThreadId.tile 0 0).key = some (1 + 1) ∧
    keeping.issuing (.tile 0 0) 0x24 1 (head 0x24 1 0x100) true job ∧ mfind granted.matrix.holder (0 : Tile).val ≠ some (0 : Fin 28).val ∧
    (one 0 .ready).issuing (.tile 0 0) 0x24 1 (head 0x24 1 0x100) true job ∧
    (one 0 .ready).issuing (.tile 0 0) 0x21 1 (head 0x21 1 0x100) (mmaFieldsOk (mma 0)) job ∧
    (one 0 .ready).issuing (.tile 0 0) 0x22 1 (head 0x22 1 0x100) (fusedFieldsOk (mma 0) 0 0x3F800000) job ∧
    (one 0 .ready).issuing (.tile 0 0) 0x23 1 (head 0x23 1 0x100) (fusedFieldsOk (mma 0) 0 0x3F800000) job := by decide +kernel
theorem witness_fused : (prodAt 0).issuing (.tile 0 0) 0x22 1 (head 0x22 1 0x100) true job ∧
    (prodAt 0).issuing (.tile 0 0) 0x23 1 (head 0x23 1 0x100) true job ∧ fusedFieldsOk (mma 0) 0 0x3F800000 = true ∧
    (prodAt 0).productReady 0 0 job (prodOf (mma 0)) (some ⟨true, bit (0 : BitVec 8).toNat 0, 0x3F800000⟩) ∧
    (prodAt 0).productReady 0 0 job (prodOf (mma 0)) (some ⟨false, bit (0 : BitVec 8).toNat 0, 0x3F800000⟩) := by decide +kernel

def drain : OsDrain := ⟨0, 1, scratchAddr 0 0x5000, 64, 2, 2, false, 0, [false], [5, 6, 7, 8], 0x100, false⟩
def fstep (norm : Bool) : FusedStep := ⟨0, 1, norm, 2, 2, tbufAddr 0 0, ⟨scratchAddr 0 0x2000, 0, 0, 64⟩,
  ⟨scratchAddr 0 0x3000, 0, 0, 64⟩, scratchAddr 0 0x4000, none, 0x40000000, 0x100, false⟩
/-- P is 3, X is 5, and ALPHA and G are 2; BETA, GAMMA and DELTA are 0. -/
def draining (norm : Bool) : State :=
  let s : State := { one 0 .waitUnit with setup := bank0 1, matrix := { base.matrix with osDrain := [(0, drain)], fused := [fstep norm] } }
  (((s.wrNat (tbufAddr 0 0) 4 0x40400000).wrNat (scratchAddr 0 0x2000) 4 0x40A00000).wrNat (scratchAddr 0 0x3000) 4
    (if norm then 0x40000000 else 0)).wrNat (scratchAddr 0 0x4000) 4 0x40000000
/-- The same drain in a bank that is not the tile's matrix engine's. -/
def undrained : State := { draining true with setup := bank0 2 }
theorem witness_osDrain : mfind (draining true).matrix.osDrain (0 : Tile).val = some drain ∧
    (draining true).findJob drain.job = some job ∧ drain.trace = false ∧ 4 * drain.n ≤ drain.pitch ∧
    (∀ i, i < drain.m → areaOf (0 : Tile).val (drain.addr + i * drain.pitch) = 0 ∧
      areaOf (0 : Tile).val (drain.addr + i * drain.pitch + 4 * drain.n - 1) = 0) ∧
    ((draining true).checkSpans (0 : Tile).val job 0
      (State.wholeSpans [⟨2, drain.addr, drain.pitch, drain.m, 4 * drain.n, true, true⟩])).1 = .ok ∧
    drain.thread = (ThreadId.tile 0 0).key ∧ (undrained.thread drain.thread).job = drain.job ∧ job.st = .running ∧
    undrained.checkSpans (0 : Tile).val job 0 (State.wholeSpans [⟨2, drain.addr, drain.pitch, drain.m, 4 * drain.n, true, true⟩])
      = (.bad 0x3106, drain.addr) := by decide +kernel
theorem witness_fusedStep : (∀ norm ∈ [true, false],
    (draining norm).matrix.fused.find? (fun f => f.thread == (0 : Tile).val * 28 + (0 : Fin 4).val) = some (fstep norm) ∧
    (draining norm).findJob (fstep norm).job = some job ∧ (fstep norm).trace = false ∧ 4 * (fstep norm).n ≤ 512 ∧
    (∀ i, i < (fstep norm).m → windowOf ((fstep norm).addr + i * 512) = 0 ∧ placeOf ((fstep norm).addr + i * 512) = .tbuf 0 (i * 512)) ∧
    ((draining norm).checkSpans (0 : Tile).val job 1 (State.wholeSpans (State.fusedSpans (fstep norm)))).1 = .ok) ∧
    undrained.checkSpans (0 : Tile).val job 1 (State.wholeSpans (State.fusedSpans (fstep true))) = (.bad 0x3106, scratchAddr 0 0x2000) := by
  decide +kernel
/-- A step with a GG vector. -/
def gstep : FusedStep := { fstep true with gg := some (scratchAddr 0 0x6000) }
def draining2 : State := { draining true with matrix := { base.matrix with fused := [gstep] } }
theorem witness_fusedStep_gg : draining2.matrix.fused.find? (fun f => f.thread == (0 : Tile).val * 28 + (0 : Fin 4).val) = some gstep ∧
    windowOf (scratchAddr 0 0x6000) = 0 ∧ placeOf (scratchAddr 0 0x6000) = .scratch 0 0x6000 ∧
    (∀ i, i < gstep.m → gstep.addr + i * 512 + 4 * gstep.n ≤ scratchAddr 0 0x6000 ∨ scratchAddr 0 0x6000 + 4 * gstep.n ≤ gstep.addr + i * 512) ∧
    (draining2.checkSpans (0 : Tile).val job 1 (State.wholeSpans (State.fusedSpans gstep))).1 = .ok := by decide +kernel

/-! ### Releases, launches and refreshes that fall due -/

/-- The state's regions of stacked memory under tag 7: region 0, the first 4 MiB, and region 1, the Absolute store behind it. -/
def regioned (s : State) : State :=
  { s with setup := regions ++ [(Regs.rgnLo 1, 0x400005), (Regs.rgnHi 1, BitVec.ofNat 64 (0x400000 + 0x30007))] ++ s.setup }

def serveBytes (record relBeat relGen : Nat) : List Byte :=
  let b := leBytes 8 record ++ leBytes 8 relBeat ++ leBytes 2 relGen ++ leBytes 14 0
  b ++ b.map (fun x => ~~~x)
def served : Job := { job with block := { block with serveCount := 1, serve := 0x30000 } }
/-- An entry releases generation 6 of serve entry 0. -/
def relEntry : SchedEntry := SchedEntry.make 3 0 0x10000 0x60000 1 false
def releasing : State := (regioned { due 0 3 with jobs := [served], sched := [(3, relEntry)] }).wr 0x30000 (serveBytes 0x20000 9 5)
theorem witness_releaseEntry : releasing.fires (0 : Die).val (3 : Fin 1024).val 3 relEntry ∧
    releasing.findJob relEntry.owner = some served ∧ relEntry.target.toNat % 65536 < served.block.serveCount ∧
    State.plainPlace (State.serveAddr served (relEntry.target.toNat % 65536)) ∧ served.st = .running ∧
    (match (releasing.fired 0 3 relEntry).readRelease served 0 with
      | .ok en => decide (en.relGen = 5) | .error _ => false) = true ∧ 0 ≤ genDiff (relEntry.target.toNat / 65536) 5 := by decide +kernel
/-- The same entry names generation 4, an index at the table's end, or is guarded badly. -/
def releaseOf (target : W32) (bytes : List Byte) : State := (regioned { due 0 3 with
  jobs := [served], sched := [(3, SchedEntry.make 3 0 0x10000 target 1 false)] }).wr 0x30000 bytes
theorem witness_releaseEntry_earlier : (releaseOf 0x40000 (serveBytes 0x20000 9 5)).fires (0 : Die).val (3 : Fin 1024).val 3
      (SchedEntry.make 3 0 0x10000 0x40000 1 false) ∧ genDiff (0x40000 / 65536) 5 < 0 ∧
    (releaseOf 0x60001 (serveBytes 0x20000 9 5)).fires (0 : Die).val (3 : Fin 1024).val 3
      (SchedEntry.make 3 0 0x10000 0x60001 1 false) ∧ served.block.serveCount ≤ 0x60001 % 65536 := by decide +kernel
theorem witness_releaseEntry_broken : (releaseOf 0x60000 [1]).fires (0 : Die).val (3 : Fin 1024).val 3 relEntry ∧
    (match ((releaseOf 0x60000 [1]).fired 0 3 relEntry).readRelease served 0 with
      | .error (.broken c _ _) => c == 0x8010 | _ => false) = true ∧ State.asked 0x8010 = false := by decide +kernel
theorem witness_entries_ownerless : ∀ k ∈ [3, 4, 6, 7], ({ due 0 k with jobs := [] } : State).fires (0 : Die).val (3 : Fin 1024).val k
    (entry k) ∧ ({ due 0 k with jobs := [] } : State).findJob (entry k).owner = none ∧
    ({ due 0 k with jobs := [] } : State).findJob (entry k).target = none := by decide +kernel
theorem witness_launchEntry : (due 0 7).fires (0 : Die).val (3 : Fin 1024).val 7 (entry 7) ∧
    (due 0 7).findJob (entry 7).target = some job := by decide +kernel
/-- Refresh 0 names engines 0 and 1, and its status records lie at 0x40000. -/
def refreshed (s : State) : State := (regioned s).wr 0x4200 ([1, 0] ++ leBytes 2 3 ++ leBytes 4 0 ++ leBytes 8 0x40000 ++ List.replicate 16 0)
theorem witness_refreshEntry : (refreshed (due 0 6)).fires (0 : Die).val (3 : Fin 1024).val 6 (entry 6) ∧
    (refreshed (due 0 6)).findJob (entry 6).owner = some job ∧ (refreshed (due 0 6)).refreshOn job (entry 6).flags 0 = [0, 1] := by
  decide +kernel
def occurrence : OpenOcc := ⟨0, 0, 1, 0, 0, 0, 0, 0, 0, 0⟩
/-- Engine 0 has an occurrence open; engine 1 has one launched that has not begun. -/
def late : State := refreshed { due 0 4 with
  threads := [(7168, thread .ready)]
  solver := { base.solver with engines := [(0, ⟨[occurrence], none⟩)], launches := [(State.launchKey 1 1 0, 1)] } }
theorem witness_deadlineRefresh : late.fires (0 : Die).val (3 : Fin 1024).val 4 (entry 4) ∧
    late.findJob (entry 4).owner = some job ∧ late.refreshOn job (entry 4).flags (0 : Die).val = [0, 1] ∧
    (late.slvEngine 0).opens.find? (fun o => o.refresh == (entry 4).flags && o.abandoned == 0 &&
      (late.thread (State.svKey 0 o.thread)).job == job.handle) = some occurrence ∧
    (late.slvEngine 1).opens = [] ∧ mget late.solver.begins (State.launchKey 1 1 0) 0 < mget late.solver.launches (State.launchKey 1 1 0) 0 ∧
    late.solver.marks = [] ∧ ((List.range (mget late.solver.launches (State.launchKey 1 1 0) 0 - mget late.solver.begins (State.launchKey 1 1 0) 0)).map
      (fun x => mget late.solver.begins (State.launchKey 1 1 0) 0 + 1 + x)).find?
        (fun o => !late.solver.marks.contains (State.launchKey 1 1 0, o)) = some 1 := by decide +kernel

/-! ### The vector engine and Enfleurage -/

/-- Thread 8 of tile 0 is a vector thread; A at line 0 of the tile buffers holds 3 and 4, B at line 1 holds 5 and 6. -/
def vec : State := ((one 8 .ready).wr (tbufAddr 0 0) (leBytes 4 0x40400000 ++ leBytes 4 0x40800000)).wr (tbufAddr 0 64)
  (leBytes 4 0x40A00000 ++ leBytes 4 0x40C00000)
abbrev ve : ThreadId := .tile 0 8
/-- Two FP32 sums, in the buffer's line 2. -/
abbrev sum2 : VCmd := veOpCmd 1 0 2 2 0 1 0 0 0
theorem witness_veOp : vec.issuing (.tile 0 8) 0x20 2 (head 0x20 2 0x100) true job ∧
    veOpOk 1 0 (2 : W16).toNat 2 0 1 0 (0 : W16).toNat 0 = true ∧
    vec.buffersHeld (0 : Tile).val (State.veReads sum2 ++ [(sum2.d.loc * 64, 2 * vecBytes sum2.fd)]) = false ∧
    vec.buffersAcc job (0 : Tile).val (State.veReads sum2) (some (sum2.d.loc * 64, 2 * vecBytes sum2.fd)) = .ok ∧
    vec.traps job.handle (State.veCount .nan (vec.veOut ve 0 sum2)) = false ∧ vec.untraced (head 0x20 2 0x100) := by decide +kernel
/-- A NaN in line 0, converted to FP16 by a job that asked to be stopped. -/
def trapJob : Job := { job with block := { block with flags := 8 } }
def trapping : State := { vec.wrNat (tbufAddr 0 0) 4 0x7FC00000 with jobs := [trapJob] }
abbrev half2 : VCmd := veOpCmd 0 2 2 2 0 0 0 0 0
theorem witness_veOp_traps : trapping.issuing (.tile 0 8) 0x20 2 (head 0x20 2 0x100) true trapJob ∧
    veOpOk 0 2 (2 : W16).toNat 2 0 0 0 (0 : W16).toNat 0 = true ∧
    trapping.buffersHeld (0 : Tile).val (State.veReads half2 ++ [(half2.d.loc * 64, 2 * vecBytes half2.fd)]) = false ∧
    trapping.buffersAcc trapJob (0 : Tile).val (State.veReads half2) (some (half2.d.loc * 64, 2 * vecBytes half2.fd)) = .ok ∧
    trapping.traps trapJob.handle (State.veCount .nan (trapping.veOut ve 0 half2)) = true := by decide +kernel
theorem witness_veRed : vec.issuing (.tile 0 8) 0x21 2 (head 0x21 2 0x100) true job ∧
    (∀ f ∈ [(0 : BitVec 8), 1], veRedOk 0 0 (2 : W16).toNat 2 0 0 (1 : W16).toNat f = true ∧
      veRedOk 0 0 (2 : W16).toNat 0x1007 0 0 (2 : W16).toNat f = true) ∧
    (veRedCmd 0 0 2 2 0 0).d.mode = 0 ∧ (veRedCmd 0 0 2 0x1007 0 0).d.mode = 1 ∧
    (veRedCmd 0 0 2 0x1007 0 0).d.loc < (vec.thread (ThreadId.tile 0 8).key).sc.length ∧
    vec.buffersHeld (0 : Tile).val (State.veReads (veRedCmd 0 0 2 2 0 0) ++ [(128, 8)]) = false ∧
    vec.buffersAcc job (0 : Tile).val (State.veReads (veRedCmd 0 0 2 2 0 0) ++ [(128, 8)]) (some (128, 8)) = .ok ∧
    vec.buffersAcc job (0 : Tile).val (State.veReads (veRedCmd 0 0 2 2 0 0)) (some (128, 8)) = .ok ∧
    vec.buffersAcc job (0 : Tile).val (State.veReads (veRedCmd 0 0 2 0x1007 0 0)) none = .ok := by decide +kernel
/-- A poisoned word in line 0; a tile whose memory is in retention; a drain that holds line 0. -/
def poisoned : State := { vec with store := { vec.store with poison := [tbufAddr 0 0] } }
def retained : State := { vec with setup := (Regs.memCompat 0, 1) :: vec.setup }
theorem witness_veBad : poisoned.buffersAcc job 0 (State.veReads sum2) (some (128, 8)) = .bad 0x3112 ∧
    retained.buffersAcc job 0 (State.veReads sum2) (some (128, 8)) = .wait ∧ State.asked 0x3112 = false := by decide +kernel
/-- The vector engine owns bank 0, whose line at 0x80 holds 9. -/
def vecState : State := { vec with setup := bank0 2 }.wrNat (scratchAddr 0 0x80) 4 9
theorem witness_veMove : vecState.issuing (.tile 0 8) 0x22 2 (head 0x22 2 0x100) true job ∧
    vecState.issuing (.tile 0 8) 0x23 2 (head 0x23 2 0x100) true job ∧ State.moveFieldsOk (own 0x80) (0xFFF : W16).toNat (64 : W32).toNat = true ∧
    resolveAddr (.tile 0 8) (vecState.thread (ThreadId.tile 0 8).key).bases (own 0x80) = some (scratchAddr 0 0x80) ∧
    scratchAddr 0 0x80 % 64 = 0 ∧ State.vePlaceOk 0 (scratchAddr 0 0x80) 64 = true ∧
    vecState.meetsHeld 0 (tbufAddr 0 (0xFFF * 64), 64) = false ∧ vecState.access job ⟨2, 0⟩ false true (scratchAddr 0 0x80) 64 = .ok ∧
    vecState.access job ⟨2, 0⟩ true true (scratchAddr 0 0x80) 64 = .ok ∧ vecState.bufferAcc job 0 true (0xFFF * 64, 64) = .ok ∧
    vecState.bufferAcc job 0 false (0xFFF * 64, 64) = .ok ∧ vecState.clearOfServe (scratchAddr 0 0x80) 64 := by decide +kernel
theorem witness_veMove_stops : ¬ (State.vePlaceOk 0 (scratchAddr 1 0x80) 64 = true) ∧
    (vec.access job ⟨2, 0⟩ false true (scratchAddr 0 0x80) 64).andThen (vec.bufferAcc job 0 true (0, 64)) = .bad 0x3106 ∧
    (retained.access job ⟨2, 0⟩ false true (scratchAddr 0 0x80) 64).andThen (retained.bufferAcc job 0 true (0, 64)) ≠ .ok := by
  decide +kernel
theorem witness_veSc : vecState.issuing (.tile 0 8) 0x24 2 (head 0x24 2 0x100) true job ∧ State.scFieldsOk 3 0 7 0 0 0 = true ∧
    (3 : BitVec 8) ≠ 1 ∧ (3 : BitVec 8) ≠ 2 ∧ State.scFieldsOk 1 0 7 0 0 (own 0x80) = true ∧ State.scFieldsOk 2 0 0 7 0 (own 0x80) = true ∧
    State.vePlaceOk 0 (scratchAddr 0 0x80) 4 = true ∧ vecState.access job ⟨2, 0⟩ false true (scratchAddr 0 0x80) 4 = .ok ∧
    vecState.access job ⟨2, 0⟩ true true (scratchAddr 0 0x80) 4 = .ok ∧ (vecState.thread (ThreadId.tile 0 8).key).sc.length = 8 := by
  decide +kernel
theorem test_veOp_adds_integers :
    (run (.veOp ve (head 0x20 2 0x100) 0x25 0xFF 2 2 0 1 0 0 0) vec).rdNat (tbufAddr 0 128) 4 = (0x40400000 + 0x40A00000) % 2 ^ 32 := by
  decide +kernel

/-- A set that drains into a statistic tile of the shared store, whose header follows it; BETA as given. -/
def set0 (beta : W32) (order : Nat) : EnfSet :=
  ⟨.draining, 1, sharedAddr 0 0x10000, sharedAddr 0 0x20000, 0, 3, 0x3F800000, beta, 70, [0x40000000], order⟩
/-- The header's epoch is as given. -/
def landing (beta : W32) (epoch : Nat) : State :=
  ({ one 0 .ready with enf := [(0, set0 beta 0), (1, set0 beta 1)] }).wrNat (sharedAddr 0 0x20000) 2 epoch
theorem witness_enfDrain : ∀ x ∈ [((0 : W32), 0), (0x3F000000, 0), (0, 3)],
    mfind (landing x.1 x.2).enf ((0 : Tile).val * 2 + (0 : Fin 2).val) = some (set0 x.1 0) ∧ (set0 x.1 0).st = .draining ∧
    (landing x.1 x.2).drainFirst (set0 x.1 0) = true ∧ (landing x.1 x.2).drainFirst (set0 x.1 1) = false ∧
    (landing x.1 x.2).drainAcc (0 : Tile).val (set0 x.1 0) = .ok ∧
    ((set0 x.1 0).dest + 65536 ≤ (set0 x.1 0).hdr ∨ (set0 x.1 0).hdr + 512 ≤ (set0 x.1 0).dest) ∧ (set0 x.1 0).idx < 136 ∧
    ((landing x.1 x.2).rdNat ((set0 x.1 0).hdr + 2 * (set0 x.1 0).idx) 2 ≠ (set0 x.1 0).epoch ↔ x.2 = 0) := by decide +kernel
theorem witness_enfDrain_beta : Sys2Proof.Num.fp32.decode (0 : W32).toNat = .fin false 0 (-149) ∧
    Sys2Proof.Num.fp32.decode (0x3F000000 : W32).toNat = .fin false 8388608 (-24) := by decide +kernel
/-- The job holds no bank of the shared store. -/
def bankless : Job := { job with block := { block with banks := [0, 0, 0, 0] } }
def landingBad : State := { landing 0 0 with jobs := [bankless] }
theorem witness_enfDrain_bad : landingBad.drainAcc (0 : Tile).val (set0 0 0) = .bad 0x3101 ∧ landingBad.findJob (set0 0 0).job = some bankless ∧
    landingBad.drainFirst (set0 0 0) = true ∧ bankless.st = .running ∧ State.asked 0x3101 = false := by decide +kernel

/-! ### Solver engines -/

def launched (n : Nat) : State := refreshed { one 7168 .ready with
  solver := { base.solver with launches := [(State.launchKey 1 0 0, n)] } }
/-- Refresh 0 launches itself; or its occurrence is marked abandoned. -/
def selfLaunched : State := (launched 0).wr 0x4200 [0]
def markedOcc : State := { launched 1 with solver := { (launched 1).solver with marks := [(State.launchKey 1 0 0, 1)] } }
theorem witness_svBegin : ∀ s ∈ [launched 1, launched 0, selfLaunched, markedOcc],
    s.issuing (.solver 0 0) 0x20 4 (head 0x20 4 0x100) true job ∧ (0 : W16).toNat < 256 ∧ s.untraced (head 0x20 4 0x100) := by
  decide +kernel
theorem witness_svBegin_counts : mget (launched 1).solver.begins (State.launchKey job.handle 0 0) 0 = 0 ∧
    (launched 0).refreshLaunch job 0 = 1 ∧ selfLaunched.refreshLaunch job 0 = 0 ∧
    markedOcc.solver.marks.contains (State.launchKey job.handle 0 0, 0 + 1) = true := by decide +kernel

/-- A record of CHOL, of order 64, into a matrix of region 0 or into the slot that begins the Absolute store. -/
def slvBytes (toSlot : Bool) : List Byte :=
  let h := 1 + (if toSlot then 8192 else 0)
  leBytes 4 h ++ leBytes 4 (2 ^ 32 - 1 - h) ++ leBytes 2 64 ++ leBytes 2 0 ++ [0, 0, 0, 0] ++ leBytes 8 0x100000 ++ leBytes 8 0
    ++ leBytes 8 (if toSlot then 0x400000 else 0x180000) ++ leBytes 8 0x200000 ++ leBytes 4 0 ++ leBytes 4 0 ++ leBytes 4 0x7F800000
    ++ List.replicate 68 0
def slvRec (toSlot : Bool) (op n : Nat) : SlvRec := ⟨op, false, false, false, 0, toSlot, 0, false, false, false, n, 0, 0, 0, 0,
  0x100000, 0, if toSlot then 0x400000 else 0x180000, 0x200000, 0, 0, 0x7F800000, 0, 0, []⟩
/-- CUR of a slot of order 64: generation 3 in buffer 0, valid. -/
def curOf (v : Nat) : List Byte := leBytes 4 v ++ leBytes 4 (2 ^ 32 - 1 - v)
def running (toSlot : Bool) : State :=
  ((launched 1).wr 0x4400 (slvBytes toSlot)).wr 0x400000 (curOf 0x20003 ++ List.replicate 20 0 ++ leBytes 2 64 ++ [1])
theorem witness_svRun : ∀ toSlot ∈ [false, true],
    (running toSlot).issuing (.solver 0 0) 0x21 4 (head 0x21 4 0x100) true job ∧ (0x400 : W32).toNat % 128 = 0 ∧
    (0x400 : W32).toNat + 128 ≤ job.image.bytes ∧ ((running toSlot).slvEngine 0).op = none ∧
    (running toSlot).recordFor (.solver 0 0) job (0 : Sys2Proof.Engine).val (0x400 : W32).toNat (slvRec toSlot 1 64) ∧
    (running toSlot).solver.holds = [] ∧
    (running true).pinned (slvRec true 1 64).out (1 - (running true).curBuf (slvRec true 1 64).out) = false ∧
    (running toSlot).untraced (head 0x21 4 0x100) := by decide +kernel
/-- Another engine holds the slot; a pin holds its other buffer. -/
def slotHeld : State := { running true with solver := { (running true).solver with holds := [(0x400000, 1)] } }
def slotPinned : State := { running true with setup := (Regs.pin 0 0, 0x400005) :: (running true).setup }
theorem witness_svRun_waits : ∀ s ∈ [slotHeld, slotPinned], s.issuing (.solver 0 0) 0x21 4 (head 0x21 4 0x100) true job ∧
    s.recordFor (.solver 0 0) job (0 : Sys2Proof.Engine).val (0x400 : W32).toNat (slvRec true 1 64) ∧ (s.slvEngine 0).op = none ∧
    (s.solver.holds.any (fun x => x.1 == 0x400000) ∨ s.pinned 0x400000 (1 - s.curBuf 0x400000) = true) := by decide +kernel
/-- Records that are refused: a bad guard, BASE 15, order 63. -/
def refusedRun (bs : List Byte) (o : Nat) : State := (running false).wr (0x4400 + o) bs
theorem witness_svRun_refused : recGuard ((refusedRun [0] 4).rd 0x4400 128) = false ∧
    recGuard ((refusedRun [0xF] 22).rd 0x4400 128) = true ∧
    readRec (.solver 0 0) block.bases ((refusedRun [0xF] 22).rd 0x4400 128) = none ∧
    (readRec (.solver 0 0) block.bases ((refusedRun [63] 8).rd 0x4400 128)).isSome = true ∧
    recStatic ((refusedRun [63] 8).rd 0x4400 128) job.image.bytes = false := by decide +kernel

def open0 (s : State) (op : Option SlvOp) : State :=
  { s with solver := { s.solver with engines := [(0, ⟨[occurrence], op⟩)] } }
theorem witness_svEnd : (open0 (launched 1) none).issuing (.solver 0 0) 0x22 4 (head 0x22 4 0x100) true job ∧
    ((open0 (launched 1) none).slvEngine 0).op = none ∧ (open0 (launched 1) none).openOf 0 0 = some occurrence ∧
    resolveAddr (.solver 0 0) ((open0 (launched 1) none).thread (ThreadId.solver 0 0).key).bases
      ((open0 (launched 1) none).refreshStatus job 0) = some 0x40000 ∧
    (open0 (launched 1) none).access job ⟨6, 0⟩ true true (0x40000 + 64 * 0) 64 = .ok ∧
    State.plainPlace (0x40000 + 64 * 0) ∧ (open0 (launched 1) none).untraced (head 0x22 4 0x100) := by decide +kernel
/-- Nothing is open; or the record lies outside every region. -/
def endBad : State := { open0 (launched 1) none with setup := [] }
theorem witness_svEnd_stops : (launched 1).issuing (.solver 0 0) 0x22 4 (head 0x22 4 0x100) true job ∧ (launched 1).openOf 0 0 = none ∧
    endBad.issuing (.solver 0 0) 0x22 4 (head 0x22 4 0x100) true job ∧ endBad.access job ⟨6, 0⟩ true true 0x40000 64 = .bad 0x3201 := by
  decide +kernel
def solverDesc : State := refreshed { ringed with jobs := [{ job with image := { image with solverCount := 1 } }] }
theorem witness_solverDesc : solverDesc.takes (desc 3) 3 1 ∧
    solverDesc.jobFor 0 1 = some { job with image := { image with solverCount := 1 } } ∧ solverDesc.jobFor 0 9 = none ∧
    solverDesc.refreshLaunch { job with image := { image with solverCount := 1 } } 0 = 1 := by decide +kernel

/-- An operation on engine 0, of order 2 so that its computation is short. -/
def slvOp (toSlot : Bool) (op : Nat) (staged overflow : Bool) : SlvOp where
  thread := 0
  r := slvRec toSlot op 2
  buf := 1
  steps := 0
  iter := 0
  staged := staged
  overflow := overflow
  resid := none
  sigma := none
  result := [(0, [0x3F800000, 0, 0, 0x40000000])]
  tiles := [5]
  cmd := 0x100
def staging (toSlot : Bool) (op : Nat) (staged overflow : Bool) : State := open0 (running toSlot) (some (slvOp toSlot op staged overflow))
theorem witness_solverOps : ∀ op ∈ [1, 2, 3, 4, 5, 6, 7, 8, 14, 15],
    (staging true op false false).works (0 : Sys2Proof.Engine).val (slvOp true op false false) job ∧ (slvOp true op false false).r.op = op ∧
    ((staging true op false false).checkAll job ⟨6, 0⟩ ((staging true op false false).readExtents job (slvRec true op 2))).1 = .ok ∧
    (staging true op false false).patternFault job (slvRec true op 2) = none := by decide +kernel
def stagingBad : State := { staging true 1 false false with setup := [] }
theorem witness_solverOps_bad : stagingBad.works (0 : Sys2Proof.Engine).val (slvOp true 1 false false) job ∧
    (stagingBad.checkAll job ⟨6, 0⟩ (stagingBad.readExtents job (slvRec true 1 2))).1 = .bad 0x3201 ∧ State.asked 0x3201 = false := by
  decide +kernel
/-- The residual 2 is above RES_MAX 1. -/
def highResid : SlvOp := { slvOp true 6 true false with r := { slvRec true 6 2 with resMax := 0x3F800000 }, resid := some 0x40000000 }
theorem witness_stepEnd : (staging true 1 true false).openOf 0 0 = some occurrence ∧ occurrence.abandoned = 0 ∧
    (∀ c ∈ [(true, 1), (true, 15), (false, 1)], (staging c.1 c.2 true false).works (0 : Sys2Proof.Engine).val (slvOp c.1 c.2 true false) job ∧
      State.residOk (slvOp c.1 c.2 true false) = true ∧
      ((staging c.1 c.2 true false).checkAll job ⟨6, 0⟩
        [((slvRec c.1 c.2 2).out, (staging c.1 c.2 true false).outBytes job (slvRec c.1 c.2 2), true)]).1 = .ok) ∧
    State.plainPlace (slvRec false 1 2).out ∧
    (staging true 1 true true).works (0 : Sys2Proof.Engine).val (slvOp true 1 true true) job ∧
    (open0 (running true) (some highResid)).works (0 : Sys2Proof.Engine).val highResid job ∧ State.residOk highResid = false := by
  decide +kernel
theorem witness_stepEnd_stops : (staging true 1 false false).works (0 : Sys2Proof.Engine).val (slvOp true 1 false false) job ∧
    ({ staging true 1 true false with setup := [] } : State).works (0 : Sys2Proof.Engine).val (slvOp true 1 true false) job ∧
    (({ staging true 1 true false with setup := [] } : State).checkAll job ⟨6, 0⟩ [(0x400000, 4096 + 2 * 4096, true)]).1 = .bad 0x3201 ∧
    (slvOp true 1 true false).thread = (0 : Fin 2).val := by decide +kernel
/-- The occurrence is abandoned. -/
def abandoned : State := { staging true 1 true false with
  solver := { (staging true 1 true false).solver with engines := [(0, ⟨[{ occurrence with abandoned := 0x2310 }], some (slvOp true 1 true false)⟩)] } }
theorem witness_stepEnd_abandoned : abandoned.works (0 : Sys2Proof.Engine).val (slvOp true 1 true false) job ∧
    abandoned.openOf 0 0 = some { occurrence with abandoned := 0x2310 } ∧ (abandoned.thread (State.svKey 0 0)).st = .ready := by
  decide +kernel
/-- Engines 0 and 1 borrowed tile 5's array; engine 0 owns its bank 1, which it was lent. -/
def lender : Job := { job with block := { block with tiles := [0, 5] } }
def lentOp : SlvOp := { slvOp true 1 false false with r := { slvRec true 1 2 with lend := 2 } }
def borrowing : State := { open0 (running true) (some lentOp) with
  jobs := [lender]
  setup := (Regs.tilOwner 5 1, 6) :: (running true).setup
  matrix := { base.matrix with holder := [(5, 4)], borrowed := [(5, [0, 1])] } }
theorem witness_borrowedChunk : mfind borrowing.matrix.holder (5 : Tile).val = some 4 ∧
    mget borrowing.matrix.borrowed (5 : Tile).val [] = (0 : Sys2Proof.Engine).val :: [1] ∧ (borrowing.slvEngine 0).op = some lentOp ∧
    borrowing.findJob (borrowing.thread (State.svKey 0 lentOp.thread)).job = some lender ∧
    (5 : Tile).val ∈ lentOp.tiles ∧ borrowing.power.st = 0 ∧ borrowing.power.warn = false ∧
    (borrowing.checkAll lender ⟨6, 0⟩ [(bankAddr (5 * 16 + 1), bankSize (5 * 16 + 1), true)]).1 = .ok ∧
    (({ borrowing with setup := (running true).setup } : State).checkAll lender ⟨6, 0⟩ [(bankAddr (5 * 16 + 1), bankSize (5 * 16 + 1), true)]).1 = .bad 0x3106 := by
  decide +kernel
theorem witness_pinWrite : ((running true).thread sv.key).st = .ready ∧ (running true).findJob ((running true).thread sv.key).job = some job ∧
    (running true).issues sv = true ∧ job.engines.contains (4 * (0 : Die).val + (63 : Fin 256).val / 64) = true ∧
    job.engines.contains (4 * (0 : Die).val + (64 : Fin 256).val / 64) = false ∧
    bits (0x400001 : W64).toNat 47 12 * 4096 = 0x400000 ∧ bit (0x400001 : W64).toNat 0 = true ∧
    (running true).absoluteOk job 0x400000 4096 = true ∧ (running true).channelAcc 0x400000 64 = .ok ∧
    (running true).poisonStack 0x400000 64 = false ∧ (running true).curGuard 0x400000 = true ∧ (running true).curValid 0x400000 = true ∧
    bit (0 : W64).toNat 0 = false ∧ (running true).absoluteOk job 0x1000 4096 = false ∧
    (running true).absoluteOk job 0x401000 4096 = true ∧ (running true).curGuard 0x401000 = false := by decide +kernel
theorem witness_pinWrite_denied : hosted.writesNow (.host 0) ∧ hosted.writesNow .mgmt ∧ hosted.domainOn (Regs.pin 0 0) = true := by decide +kernel

/-! ### The group links and Ethernet -/

/-- Port 0 in a state, with one failed training where `fails` says so. -/
def linked (st : LinkSt) (fails : Nat) : State := { one 0 .ready with
  fabric := { base.fabric with
    links := [(0, { Link.fresh with st := st, trainFails := fails, peerSlot := 1, credits := [32, 64, 512, 768, 256, 256],
                                    relayCredits := [128, 128, 128, 128] })] } }
def hi (sysId : W32) (confirmed : Bool) : HelloInfo := ⟨true, false, true, sysId, BitVec.ofNat 10 base.fabric.group, 1, 6, 77, confirmed⟩
theorem witness_links : (linked .down 0).linksOn = true ∧ ((linked .down 0).link (0 : GPort).val).st = .down ∧
    ((linked .down 0).link (0 : GPort).val).trainFails = 0 ∧ ((linked .down 1).link (0 : GPort).val).st = .down ∧
    ((linked .down 1).link (0 : GPort).val).trainFails ≠ 0 ∧ (linked .train 1).linksOn = true ∧
    ((linked .train 1).link (0 : GPort).val).st = .train ∧ ((linked .train 1).link (0 : GPort).val).trainFails < 2 ∧
    2 ≤ ((linked .train 2).link (0 : GPort).val).trainFails ∧ (linked .hello 0).linksOn = true ∧
    ((linked .hello 0).link (0 : GPort).val).st = .hello ∧ (linked .hello 0).helloCheck (0 : GPort).val (hi base.fabric.sysId true) = none ∧
    (linked .hello 0).helloCheck (0 : GPort).val (hi base.fabric.sysId false) = none ∧
    (linked .hello 0).helloCheck (0 : GPort).val (hi (base.fabric.sysId + 1) true) = some 0x4103 ∧
    ((linked .up 0).link (0 : GPort).val).st ≠ .train ∧ ((linked .up 0).link (0 : GPort).val).st ≠ .hello := by decide +kernel

def spare (ctrl : W64) : State := { linked .up 0 with setup := [(Regs.portCtrl 0, ctrl)] }
theorem witness_lanes : (spare 5).linksOn = true ∧ ((spare 5).link (0 : GPort).val).st = .up ∧
    bit ((spare 5).link (0 : GPort).val).good (7 : Fin 9).val = true ∧ bit ((spare 5).link (0 : GPort).val).good (8 : Fin 9).val = true ∧
    (spare 5).flag (Regs.portCtrl (0 : GPort).val) 2 = true ∧ (spare 1).flag (Regs.portCtrl (0 : GPort).val) 2 = false ∧
    ((spare 5).link (0 : GPort).val).spareUsed = false ∧ ((spare 1).link (0 : GPort).val).st = .up := by decide +kernel
theorem witness_swap : (linked .swap 0).linksOn = true ∧
    ((linked .swap 0).link (0 : GPort).val).st = .swap ∧ ((linked .down 0).link (0 : GPort).val).st ≠ .up ∧
    ((linked .down 0).link (0 : GPort).val).st ≠ .swap := by decide +kernel
theorem witness_portWrites : (linked .disabled 0).writesNow .mgmt ∧ (0 : FPort).val < 7 ∧ 7 ≤ (7 : FPort).val ∧
    bit (5 : W32).toNat 1 = false ∧ bit (5 : W32).toNat 0 = true ∧ bit (4 : W32).toNat 0 = false ∧ bit (4 : W32).toNat 1 = false ∧
    ((linked .disabled 0).link (0 : FPort).val).st = .disabled ∧ (spare 1).writesNow .mgmt ∧
    (spare 1).flag (Regs.portCtrl (0 : FPort).val) 0 = true := by decide +kernel

/-- A flit of a KIND on virtual channel 2 to a slot, from slot 1, the partner of port 0; `seq` 1 is the next in order. -/
def flit (kind : BitVec 4) (seq ack : BitVec 8) (dst : Fin 8) (relay : Bool) : FlitHead := ⟨⟨seq, ack, true, [], false⟩, kind, 2, relay, 1, dst, 64⟩
/-- Three flits are kept for replay. -/
def keptFlit (seq : Nat) : TxFlit := ⟨seq, 1, 2, false, 0, 1, 64, 0, none⟩
def replaying : State := { linked .up 0 with fabric := { base.fabric with
  links := [(0, { (linked .up 0).link 0 with retry := [keptFlit 7, keptFlit 8, keptFlit 9] })] } }
theorem witness_dataFlit : (linked .up 0).linksOn = true ∧ ((linked .up 0).link (0 : GPort).val).st = .up ∧
    (linked .up 0).inSequence (0 : GPort).val (flit 1 1 0 3 true).toLinkHead = true ∧ (flit 1 1 0 3 true).kind = 1 ∧
    (flit 1 1 0 3 true).vc.toNat < 6 ∧ (linked .up 0).acksWell (0 : GPort).val (flit 1 1 0 3 true).toLinkHead ∧
    (linked .up 0).linkIdle (0 : GPort).val ∧ (flit 1 1 0 3 true).dst.val ≠ (linked .up 0).fabric.slot ∧
    (flit 1 1 0 3 true).relay = true ∧ (flit 1 1 0 3 true).src.val = slotOf (linked .up 0).fabric.slot (0 : GPort).val ∧
    (flit 1 1 0 0 false).dst.val = (linked .up 0).fabric.slot ∧
    (linked .up 0).inSequence (0 : GPort).val (flit 1 2 0 3 true).toLinkHead = false := by decide +kernel
theorem witness_ack : replaying.linksOn = true ∧ (replaying.link (0 : GPort).val).st = .up ∧ (flit 0 0 8 0 false).kind = 0 ∧
    (replaying.link (0 : GPort).val).retry = [keptFlit 7] ++ keptFlit 8 :: [keptFlit 9] ∧ (keptFlit 8).seq = (flit 0 0 8 0 false).ack.toNat ∧
    (∀ x ∈ [keptFlit 7], x.seq ≠ (keptFlit 8).seq) ∧ (flit 0 0 8 0 false).ack.toNat ≠ (replaying.link (0 : GPort).val).lastAck ∧
    replaying.acksWell (0 : GPort).val (flit 0 0 8 0 false).toLinkHead ∧ replaying.linkIdle (0 : GPort).val ∧
    9 ≤ (flit 9 1 0 0 false).kind.toNat ∧ (linked .up 0).inSequence (0 : GPort).val (flit 9 1 0 0 false).toLinkHead = true := by
  decide +kernel
/-- A control flit on port 0. -/
def ctl0 (seq : BitVec 8) : CtlFlit := ⟨⟨seq, 0, true, [], false⟩, 0⟩
theorem witness_control : (linked .up 0).arrives (ctl0 1) ∧ (linked .up 0).acksWell (ctl0 1).port.val (ctl0 1).toLinkHead ∧
    (linked .up 0).linkIdle (ctl0 1).port.val ∧ (linked .up 0).fabric.outbox = [] ∧
    (linked .up 0).findJobId 0x1234 = some job ∧ (linked .up 0).findJobId 9 = none ∧ (linked .up 0).findJob job.handle = some job ∧
    job.st = .running ∧ (linked .up 0).threadsDone job = false ∧ bit (1 : W32).toNat 0 = true ∧
    ((linked .parked 0).link (0 : GPort).val).st = .parked ∧ (linked .parked 0).arrives (ctl0 1) ∧
    (linked .parked 0).acksWell (ctl0 1).port.val (ctl0 1).toLinkHead ∧ bit (2 : W32).toNat 0 = false ∧
    (3 : W32) ≠ ~~~(3 : W32) ∧ (3 : W64) ≠ ~~~(3 : W64) ∧ (3 : BitVec 96) ≠ ~~~(3 : BitVec 96) ∧
    (linked .up 0).inSequence (ctl0 2).port.val (ctl0 2).toLinkHead = false ∧ ((linked .up 0).link (ctl0 2).port.val).st.serves = true ∧
    ((linked .down 0).link (ctl0 1).port.val).st.serves = false := by decide +kernel
def parkedAsleep : State := { linked .parked 0 with power := { base.power with st := 2 }, setup := [(Regs.pwrWakeEn, 0x3F)] }
theorem witness_wakeFlit : parkedAsleep.arrives (ctl0 1) ∧ parkedAsleep.acksWell (ctl0 1).port.val (ctl0 1).toLinkHead ∧
    (parkedAsleep.link (0 : GPort).val).st = .parked ∧ parkedAsleep.power.st = 2 ∧
    parkedAsleep.wakeEnabled 5 = true ∧ parkedAsleep.power.leak = false := by decide +kernel
/-- Port 0 keeps as many flits as it can, or holds a control flit. -/
def full : State := { linked .up 0 with fabric := { base.fabric with
  links := [(0, { (linked .up 0).link 0 with held := [⟨0, 3, 0, false, 0, 1, 0, 5, none⟩] })] } }
theorem witness_heartbeatSend : full.linksOn = true ∧ (full.link (0 : GPort).val).st = .up ∧
    (full.link 0).held.all (fun f => f.kind == 1) = false ∧ ((linked .up 0).link 0).retry.length < 256 := by decide +kernel

def remote : State := (regioned (linked .up 0)).wrNat 0x10000 4 5
theorem witness_remote : remote.carries (0 : FPort).val ∧ remote.findJobId 0x1234 = some job ∧
    job.live = true ∧ placeOf (0x10000 : W64).toNat = .stack 0 0x10000 ∧
    (∀ x ∈ pieces (0x10000 : W64).toNat 4, remote.regionAcc job.block.tag.toNat false true x.1 x.2 = .ok) ∧
    (∀ x ∈ pieces (0x10000 : W64).toNat 4, remote.regionAcc job.block.tag.toNat false false x.1 x.2 = .ok) ∧
    remote.channelAcc (0x10000 : W64).toNat 4 = .ok ∧ remote.poisonStack (0x10000 : W64).toNat 4 = false ∧
    remote.findJobId 9 = none ∧ ¬ remote.carries (1 : FPort).val := by decide +kernel

def pair : QPair := ⟨4096, [true, true], [1000000, 500000], 0, List.replicate 6 0, List.replicate 6 9, [], [], 0, true⟩
def ether : State := { one 0 .ready with
  setup := [(Regs.ethPrefix, 5), (Regs.portCtrl 7, 1)], fabric := { base.fabric with eth := [(0, 4)], pairs := [pair] } }
/-- The same, behind stacked memory of the job. -/
def etherMem : State := regioned ether
theorem witness_ether : ether.linksOn = true ∧ (4096 : W16).toNat / 8 ≠ ether.fabric.group ∧ mget ether.fabric.eth (0 : EPort).val 1 = 4 ∧
    ether.pairOf (4096 : W16).toNat = some pair ∧ pair.up.getD (0 : EPort).val false = true ∧ pair.rxSeq.length = 6 ∧ pair.early = [] ∧
    pair.rate.length = 2 ∧ pair.up = [true, true] ∧ ether.flag (Regs.portCtrl (7 + (0 : EPort).val)) 0 = true ∧
    ether.regNat Regs.ethPrefix ≠ 0 ∧ (3 : Fin 8).val = ether.field Regs.ethCfg 2 0 ∧ (6 : Fin 8).val = ether.field Regs.ethCfg 5 3 ∧
    (BitVec.ofNat 128 (5 * 2 ^ 64) : BitVec 128).toNat = ether.ethAddress (0 : EPort).val ∧ ether.pairOf (9 : W16).toNat = none ∧
    etherMem.carries (7 : FPort).val ∧ mget ether.fabric.eth (1 : EPort).val 1 ≠ 4 := by decide +kernel
theorem witness_qpOpen : (hi base.fabric.sysId true).chainOk = true ∧ (hi base.fabric.sysId true).expiredOrReturn = false ∧
    (hi base.fabric.sysId true).sigOk = true ∧ (hi base.fabric.sysId true).sysId = ether.fabric.sysId ∧
    (hi base.fabric.sysId true).confirmed = true ∧ (hi (base.fabric.sysId + 1) true).sysId ≠ ether.fabric.sysId := by
  decide +kernel

/-! ### Collectives -/

/-- The job takes four staging slots and eight triggered-operation slots of die 0, and its image has one collective. -/
def coll : Job := { job with block := { block with niw := [BitVec.ofNat 64 (4 * 512 + 8 * 2 ^ 19), 0, 0, 0], serveCount := 1, serve := 0x30000 }
                             image := { image with keyOff := 0x300, keyCount := 1 } }
/-- Collective 0x55 of rounds 3 to 7: two slots and one record, at image offset 0x400, on die 0; members 0 and 2. -/
def keyBytes : List Byte :=
  leBytes 4 0x55 ++ leBytes 4 (2 ^ 32 - 1 - 0x55) ++ leBytes 4 3 ++ leBytes 4 5 ++ [0, 1, 0, 0] ++ leBytes 4 0x380
    ++ leBytes 8 (2 * 512 + 2 ^ 19 + 0x400 * 2 ^ 32) ++ List.replicate 24 0 ++ leBytes 4 0xABCD ++ leBytes 4 0
/-- A record that waits for counter 0x100; its arrival counter is 0x104 and its RVAL 3. -/
def trigBytes (act : Nat) (src dst : W64) (bytes peer rctr aux ef : Nat) : List Byte :=
  let h := act + 2 * 256
  leBytes 4 h ++ leBytes 4 (2 ^ 32 - 1 - h) ++ leBytes 4 0x100 ++ leBytes 4 1 ++ leBytes 8 src.toNat ++ leBytes 8 dst.toNat
    ++ leBytes 4 bytes ++ leBytes 2 peer ++ [0, 0] ++ leBytes 4 rctr ++ leBytes 4 3 ++ leBytes 4 0 ++ leBytes 4 aux ++ leBytes 8 ef
def armed (fired asked complete : Bool) : Armed := ⟨0, 0x4400, 7, if fired then some 0 else none, asked, complete⟩
def occ (a : Armed) : Occ := ⟨1, 0, 0x55, 3, 0, 0, 2, [a], false, false⟩
/-- Die 0 runs the occurrence of round 3, slot 2 of the group is reached directly and has said READY. -/
def onNi (occs : List Occ) (rec : List Byte) : State :=
  let s : State := regioned { one 0 .ready with
    jobs := [coll]
    ni := { base.ni with occs := occs, readys := [⟨2, 0x1234, 3, 0x55⟩] }
    fabric := { (linked .up 0).fabric with routes := [(2, (1, 1, 0))] } }
  put 0x10000 (leBytes 4 0x3F800000 ++ leBytes 4 0x40000000)
    (put 0x4400 rec (put 0x4380 (leBytes 4 2 ++ leBytes 2 0 ++ leBytes 2 2) (put 0x4300 keyBytes s)))
def acts (rec : List Byte) : State := onNi [occ (armed true false false)] rec
def shared (o : Nat) : W64 := near o

def arming : State := onNi [] (trigBytes 1 0x10000 0x11000 8 0 0x104 0 0)
def keyK : KeyRec := keyRecOf keyBytes
theorem witness_occurrenceStart : arming.headReady 1 0 coll 3 0 keyK ∧ arming.claimFree coll keyK 0 = true ∧
    keyK.trig 0 ≤ (arming.freeTrigs 0).length ∧ (∀ i, i < keyK.trig 0 → arming.recordAcc (State.trigAt coll keyK 0 i) 64 = none) ∧
    (∀ i, i < keyK.trig 0 → (arming.trigRec (State.trigAt coll keyK 0 i)).nheader = ~~~(arming.trigRec (State.trigAt coll keyK 0 i)).header ∧
      arming.recordOk coll keyK 0 (arming.trigRec (State.trigAt coll keyK 0 i)) = true) ∧ 0 < keyK.trig 0 ∧
    arming.countersAcc coll keyK 0 = .ok ∧ coll.image.base + 2 ^ 33 ≤ 0x006000000000 := by decide +kernel
theorem witness_noHead : base.findJob 1 = none := by decide
/-- The key's guard fails; and the key asks for a launch. -/
def badKey : State := arming.wrNat 0x4300 1 0x54
def launchKey : State := arming.wrNat 0x4310 1 1
theorem witness_badKey : badKey.heads 1 0 coll 3 0 (badKey.keyRec coll 0) ∧
    (badKey.keyRec coll 0).nkey ≠ ~~~(badKey.keyRec coll 0).key := by decide +kernel
theorem witness_launchKey : launchKey.heads 1 0 coll 3 0 (launchKey.keyRec coll 0) ∧
    (launchKey.keyRec coll 0).nkey = ~~~(launchKey.keyRec coll 0).key ∧
    (launchKey.keyRec coll 0).firstSlot 0 + (launchKey.keyRec coll 0).slots 0 ≤ coll.niCount 0 ∧
    (launchKey.keyRec coll 0).trig 0 ≤ coll.trigCount 0 ∧ (launchKey.keyRec coll 0).launch = true ∧
    mget launchKey.ni.launches (4 * 256) 0 ≤ mget launchKey.ni.begun (4 * 256) 0 := by decide +kernel
/-- The slots are held by the occurrence of round 3 still. -/
def slotsTaken : State := let s := onNi [occ (armed false false false)] []
  { s with ni := { s.ni with heads := [(4, (3, 0))] } }
theorem witness_slotsTaken : slotsTaken.headReady 1 0 coll 4 0 (slotsTaken.keyRec coll 0) ∧
    slotsTaken.claimFree coll (slotsTaken.keyRec coll 0) 0 = false ∧ 1 * 4 + 0 ∉ slotsTaken.ni.waited ∧
    slotsTaken.flag Regs.obsCtrl 0 = false := by decide +kernel
/-- A record whose guard fails, and one whose location does. -/
def badRecord : State := onNi [] (leBytes 4 1)
def badPlace : State := onNi [] (trigBytes 1 0x10000 0x11000 8 0 0x106 0 0)
theorem witness_badRecord : ∀ s ∈ [badRecord, badPlace], s.headReady 1 0 coll 3 0 keyK ∧ s.claimFree coll keyK 0 = true ∧
    keyK.trig 0 ≤ (s.freeTrigs 0).length ∧ (∀ i, i < keyK.trig 0 → s.recordAcc (State.trigAt coll keyK 0 i) 64 = none) ∧
    0 < keyK.trig 0 := by decide +kernel
def ended : Occ := { occ (armed true false true) with doneFired := true }
def halted : Occ := { occ (armed true false false) with stopped := true }
theorem witness_occurrenceRelease : (onNi [ended] []).occOn 1 (0 : Die).val 0x55 (3 : W32).toNat = some ended ∧
    ended.doneFired = true ∧ (∀ a ∈ ended.armed, a.fired = none ∨ a.complete = true) ∧
    (onNi [halted] []).occOn 1 (0 : Die).val 0x55 (3 : W32).toNat = some halted ∧ halted.stopped = true ∧
    (onNi [occ (armed true false false)] []).occOn 1 (0 : Die).val 0x55 (3 : W32).toNat = some (occ (armed true false false)) ∧
    (occ (armed true false false)).stopped = false ∧ (occ (armed true false false)).doneFired = false := by decide +kernel

def recOf (rec : List Byte) : TrigRec := (acts rec).trigRec 0x4400
def sendRec (peer rctr : Nat) : List Byte := trigBytes 1 0x10000 0x11000 8 peer rctr 0 0
theorem witness_send : ∀ rctr ∈ [0x104, noCounter], ∀ peer ∈ [0, 2],
    let s := acts (sendRec peer rctr)
    let r := recOf (sendRec peer rctr)
    s.acting 1 0 7 (occ (armed true false false)) (armed true false false) coll r 0 ∧ s.peerHere r = (peer == 0) ∧
    elemsOf r.fmtIn r.bytes = 2 ∧ s.sendBehind 0 0 r = false ∧
    s.sendReadyFor coll (s.keyRec coll 0) (occ (armed true false false)) 0 r = true ∧
    (locate coll (s.keyRec coll 0) 0 r.src (extentOf r.fmtIn 2)).toOption = some 0x10000 ∧
    s.niAcc coll 0 0x10000 (extentOf r.fmtIn 2) false = .ok ∧ s.ownWaits coll (s.keyRec coll 0) 0 r = none ∧
    (locate coll (s.keyRec coll 0) 0 r.dst (State.dstBytes r)).toOption = some 0x11000 ∧ dieOf 0x11000 0 = 0 ∧
    s.access coll ⟨4, 0⟩ true true 0x11000 (State.landBytes (slotForm r.dst) r.fmtOut 2) = .ok ∧ State.plainPlace 0x11000 ∧
    (r.rctr = noCounter ∨ s.countsAt coll 0 r.rctr) ∧ State.apart 0 r.rctr 0x11000 8 := by decide +kernel
def reduceRec : List Byte := trigBytes 2 0x10000 (BitVec.ofNat 64 (2 ^ 63)) 8 0 noCounter 0 0
theorem witness_sendReduce :
    let s := acts reduceRec
    let r := recOf reduceRec
    s.acting 2 0 7 (occ (armed true false false)) (armed true false false) coll r 0 ∧ s.peerHere r = true ∧
    elemsOf r.fmtIn r.bytes = 2 ∧ slotForm r.dst = true ∧ r.rctr = noCounter ∧ s.ownWaits coll (s.keyRec coll 0) 0 r = none ∧
    s.sendBehind 0 0 r = false ∧ s.sendReadyFor coll (s.keyRec coll 0) (occ (armed true false false)) 0 r = true ∧
    (locate coll (s.keyRec coll 0) 0 r.src 8).toOption = some 0x10000 ∧ s.niAcc coll 0 0x10000 8 false = .ok ∧
    (locate coll (s.keyRec coll 0) 0 r.dst (State.dstBytes r)).toOption = some (stagingAddr 0 0) ∧
    placeOf (stagingAddr 0 0) = .staging 0 0 ∧ windowOf (stagingAddr 0 0) = 0 ∧ stagingAddr 0 0 % 64 = 0 ∧ dieOf (stagingAddr 0 0) 0 = 0 ∧
    s.access coll ⟨4, 0⟩ true true (stagingAddr 0 0) (State.landBytes (slotForm r.dst) r.fmtOut 2) = .ok := by decide +kernel
/-- The receiver has not said READY; the source and the destination lie outside every region; the store's bank is becoming ON. -/
def unready : State := { acts (sendRec 2 0x104) with ni := { (acts (sendRec 2 0x104)).ni with readys := [] } }
def farRec (src dst : W64) : List Byte := trigBytes 1 src dst 8 0 0x104 0 0
theorem witness_sendStops : unready.acting 1 0 7 (occ (armed true false false)) (armed true false false) coll (recOf (sendRec 2 0x104)) 0 ∧
    unready.sendReadyFor coll (unready.keyRec coll 0) (occ (armed true false false)) 0 (recOf (sendRec 2 0x104)) = false ∧
    (∀ b ∈ [farRec 0x900000 0x11000, farRec 0x10000 0x900000],
      let s := acts b
      s.acting 1 0 7 (occ (armed true false false)) (armed true false false) coll (recOf b) 0 ∧ s.sendBehind 0 0 (recOf b) = false ∧
      s.sendReadyFor coll (s.keyRec coll 0) (occ (armed true false false)) 0 (recOf b) = true ∧
      s.ownWaits coll (s.keyRec coll 0) 0 (recOf b) = none ∧ s.peerHere (recOf b) = true ∧
      s.niAcc coll 0 0x900000 8 false = .bad 0x3201 ∧ s.access coll ⟨4, 0⟩ true true 0x900000 8 = .bad 0x3201 ∧
      dieOf 0x900000 0 = 0 ∧ State.asked 0x3201 = false) := by decide +kernel
def atomRec (peer rctr : Nat) : List Byte :=
  trigBytes 6 0x10000 (if peer = 2 then 0x11000 else BitVec.ofNat 64 (2 ^ 63)) 128 peer rctr 0x100 0x12000
theorem witness_atomSend : ∀ peer ∈ [2, 0],
    let s := acts (atomRec peer noCounter)
    let r := recOf (atomRec peer noCounter)
    s.acting 6 0 7 (occ (armed true false false)) (armed true false false) coll r 0 ∧ s.peerHere r = (peer == 0) ∧
    s.sendBehind 0 0 r = false ∧ s.ownWaits coll (s.keyRec coll 0) 0 r = none ∧
    s.sendReadyFor coll (s.keyRec coll 0) (occ (armed true false false)) 0 r = true ∧
    (locate coll (s.keyRec coll 0) 0 r.src r.bytes).toOption = some 0x10000 ∧
    (locate coll (s.keyRec coll 0) 0 r.ef r.bytes).toOption = some 0x12000 ∧ s.niAcc coll 0 0x10000 r.bytes false = .ok ∧
    s.niAcc coll 0 0x12000 r.bytes false = .ok ∧ s.niAcc coll 0 0x12000 r.bytes true = .ok ∧ State.plainPlace 0x12000 ∧
    r.bytes % 4 = 0 ∧ r.bytes / 4 % atomVals r.aux = 0 ∧
    (peer = 0 → (locate coll (s.keyRec coll 0) 0 r.dst (State.dstBytes r)).toOption = some (stagingAddr 0 0) ∧
      s.access coll ⟨4, 0⟩ true true (stagingAddr 0 0) r.bytes = .ok) := by decide +kernel

def arrival (id : W32) : NiWrite := ⟨id, 3, 0x55, 0x11000, 0, 0, 0, false, 0, false, false, none, 0x104, 3, leBytes 4 77⟩
theorem witness_arrival :
    let s := onNi [occ (armed false false false)] (sendRec 0 0x104)
    let w := arrival 0x1234
    s.findJobId w.jobId = some coll ∧ s.findJob coll.handle = some coll ∧ coll.st = .running ∧ w.served = false ∧
    s.keyIndex coll w.key = some 0 ∧ s.keyBroken coll w.key = none ∧ wireElems (State.arrivedFmt w) (State.arrivedData w).length = 1 ∧
    (locate coll (s.keyRec coll 0) w.die.val w.dst (State.landBytes (slotForm w.dst) (State.arrivedFmt w) 1)).toOption = some 0x11000 ∧
    State.plainPlace 0x11000 ∧ s.countsAt coll 0 w.rctr.toNat ∧ State.apart 0 w.rctr.toNat 0x11000 4 ∧ fmtMx (State.arrivedFmt w) = false ∧
    (pieces 0x11000 w.data.length).all (fun x => s.landsHere coll w.key w.round.toNat x.1) = true ∧
    s.access coll ⟨4, dieOf 0x11000 w.die.val⟩ true false 0x11000 w.data.length = .ok ∧ w.rctr.toNat ≠ noCounter ∧
    s.findJobId (arrival 9).jobId = none := by decide +kernel

/-- Scratchpad 0 belongs to no interface; the job is gone; the key is not one of the job's; its guard fails. -/
theorem witness_arrivalRefused :
    let s := onNi [occ (armed false false false)] (sendRec 0 0x104)
    (pieces (scratchAddr 0 0) 4).all (fun x => s.landsHere coll 0x55 3 x.1) = false ∧
    (pieces 0x900000 4).all (fun x => s.landsHere coll 0x55 3 x.1) = true ∧ s.access coll ⟨4, 0⟩ true false 0x900000 4 = .bad 0x3201 ∧
    s.keyIndex coll 0x56 = none ∧ badKey.keyBroken coll 0x54 = some 0 ∧ badKey.findJobId 0x1234 = some coll ∧
    badKey.findJob coll.handle = some coll := by decide +kernel

theorem witness_idleAction : ∀ act ∈ [1, 2, 3, 4, 5, 6, 7, 8, 9, 10, 15], base.recordIn act 7 = none := by decide +kernel
theorem witness_trigSignal :
    let s := acts (trigBytes 4 0 (shared 0x200) 0 0 noCounter 0 0)
    let r := recOf (trigBytes 4 0 (shared 0x200) 0 0 noCounter 0 0)
    s.acting 4 0 7 (occ (armed true false false)) (armed true false false) coll r 0 ∧
    (locate coll (s.keyRec coll 0) 0 r.dst 4).toOption = some (sharedAddr 0 0x200) ∧ sharedAddr 0 0x200 % 4 = 0 ∧
    windowOf (sharedAddr 0 0x200) = 0 ∧ placeOf (sharedAddr 0 0x200) = .shared 0 0x200 ∧
    s.pieceAcc coll ⟨4, 0⟩ true false (sharedAddr 0 0x200) 4 = .ok := by decide +kernel
theorem witness_add_done : (acts (trigBytes 5 0 0 0 0 0x104 0 0)).acting 5 0 7 (occ (armed true false false)) (armed true false false) coll
      (recOf (trigBytes 5 0 0 0 0 0x104 0 0)) 0 ∧ (acts (trigBytes 5 0 0 0 0 0x104 0 0)).countsAt coll 0 (recOf (trigBytes 5 0 0 0 0 0x104 0 0)).rctr ∧
    (acts (trigBytes 15 0 0 0 0 0x104 0 0)).acting 15 0 7 (occ (armed true false false)) (armed true false false) coll
      (recOf (trigBytes 15 0 0 0 0 0x104 0 0)) 0 := by decide +kernel
theorem witness_normsq :
    let s := acts (trigBytes 8 0x10000 0 8 0 noCounter 5 0)
    let r := recOf (trigBytes 8 0x10000 0 8 0 noCounter 5 0)
    s.acting 8 0 7 (occ (armed true false false)) (armed true false false) coll r 0 ∧
    (locate coll (s.keyRec coll 0) 0 r.src r.bytes).toOption = some 0x10000 ∧ s.niAcc coll 0 0x10000 r.bytes false = .ok := by
  decide +kernel
theorem witness_gnsCopy :
    let s := acts (trigBytes 9 0 (shared 0x200) 0 0 noCounter 5 0)
    let r := recOf (trigBytes 9 0 (shared 0x200) 0 0 noCounter 5 0)
    s.acting 9 0 7 (occ (armed true false false)) (armed true false false) coll r 0 ∧
    (locate coll (s.keyRec coll 0) 0 r.dst 16).toOption = some (sharedAddr 0 0x200) ∧
    State.plainPlace (sharedAddr 0 0x200) ∧ s.niAcc coll 0 (sharedAddr 0 0x200) 16 true = .ok := by decide +kernel
/-- The second bank of the store is not the job's; a counter lies on no word, and beyond the store. -/
theorem witness_localRefused :
    let far := trigBytes 4 0 (shared 0x2000000) 0 0 noCounter 0 0
    let tile := trigBytes 4 0 (own 0) 0 0 noCounter 0 0
    let odd := trigBytes 5 0 0 0 0 0x106 0 0
    (acts far).acting 4 0 7 (occ (armed true false false)) (armed true false false) coll (recOf far) 0 ∧
    (acts far).pieceAcc coll ⟨4, 0⟩ true false (sharedAddr 0 0x2000000) 4 = .bad 0x3101 ∧
    State.signalPlaceOk 0 (sharedAddr 0 0x2000000) = true ∧ State.signalPlaceOk 0 0x11000 = false ∧
    (acts odd).acting 5 0 7 (occ (armed true false false)) (armed true false false) coll (recOf odd) 0 ∧ (recOf odd).rctr = 0x106 ∧
    (acts tile).niAcc coll 0 (sharedAddr 0 0x2000000) 16 true = .bad 0x3101 ∧
    (acts tile).niAcc coll 0 0x900000 8 false = .bad 0x3201 ∧ State.asked 0x3101 = false ∧
    (acts tile).access coll ⟨4, 0⟩ true false (sharedAddr 0 0x2000000) 4 = .bad 0x3101 := by decide +kernel
theorem witness_trigReady :
    let s := acts (trigBytes 10 0 0 0 0 noCounter 0 0)
    s.acting 10 0 7 (occ (armed true false false)) (armed true false false) coll (recOf (trigBytes 10 0 0 0 0 noCounter 0 0)) 0 ∧
    s.memberList coll (s.keyRec coll 0).members = [s.moduleNo, 2] ∧ 2 ≠ s.moduleNo ∧ s.canSend 2 1 = true ∧ s.ni.readySent = [] ∧
    bit (0x1FF : W64).toNat 8 = true ∧ bit (0xFF : W64).toNat 8 = false := by decide +kernel

def joinRec : List Byte := trigBytes 7 (shared 0x300) (shared 0x400) 0 0 noCounter 9 0
theorem witness_join :
    let s := acts joinRec
    let r := recOf joinRec
    s.acting 7 0 7 (occ (armed true false false)) (armed true false false) coll r 0 ∧
    s.memberList coll (s.keyRec coll 0).members = [s.moduleNo, 2] ∧ s.canSend 2 1 = true ∧
    s.joinVals coll (occ (armed true false false)) 0 = [] ∧ 0 < bits r.aux 6 3 ∧
    (locate coll (s.keyRec coll 0) 0 r.src (8 * bits r.aux 6 3)).toOption = some (sharedAddr 0 0x300) ∧
    s.niAcc coll 0 (sharedAddr 0 0x300) (8 * bits r.aux 6 3) false = .ok ∧ (occ (armed true false false)).die = 0 := by decide +kernel
/-- The record's own value and its peer's are both there at the act; and no value is asked for. -/
def peerFirst : State := { acts joinRec with ni := { (acts joinRec).ni with joins := [⟨0, 2, 0x1234, 3, 0x55, 0, [6], true⟩] } }
def barrier : List Byte := trigBytes 7 0 0 0 0 0x104 1 0
def barrierBoth : State := { acts barrier with ni := { (acts barrier).ni with joins := [⟨0, 2, 0x1234, 3, 0x55, 0, [], true⟩] } }
theorem witness_joinAll : peerFirst.acting 7 0 7 (occ (armed true false false)) (armed true false false) coll (recOf joinRec) 0 ∧
    (peerFirst.memberList coll (peerFirst.keyRec coll 0).members).all (fun m => m == peerFirst.moduleNo ||
      (peerFirst.joinVals coll (occ (armed true false false)) 0).any (fun v => v.source == m)) = true ∧
    (locate coll (peerFirst.keyRec coll 0) 0 (recOf joinRec).dst 8).toOption = some (sharedAddr 0 0x400) ∧ (recOf joinRec).rctr = noCounter ∧
    peerFirst.niAcc coll 0 (sharedAddr 0 0x300) 8 false = .ok ∧ peerFirst.niAcc coll 0 (sharedAddr 0 0x400) 8 true = .ok ∧
    bits (recOf joinRec).aux 6 3 = 1 ∧ windowOf (sharedAddr 0 0x400) = 0 ∧ placeOf (sharedAddr 0 0x400) = .shared 0 0x400 ∧
    barrierBoth.acting 7 0 7 (occ (armed true false false)) (armed true false false) coll (recOf barrier) 0 ∧
    bits (recOf barrier).aux 6 3 = 0 ∧ barrierBoth.countsAt coll 0 (recOf barrier).rctr := by decide +kernel
def joining : State :=
  let s := onNi [occ (armed true true false)] joinRec
  { s with ni := { s.ni with joins := [⟨0, 0, 0x1234, 3, 0x55, 0, [5], false⟩] } }
theorem witness_joinMessage : joining.findJobId 0x1234 = some coll ∧
    joining.occOn coll.handle (0 : Die).val 0x55 (3 : W32).toNat = some (occ (armed true true false)) ∧
    joining.findJob coll.handle = some coll ∧ joining.recordIn 0 7 = some (occ (armed true true false), armed true true false) ∧
    (occ (armed true true false)).armed.find? (fun a => a.index == (0 : Fin 4096).val && a.asked && !a.complete &&
      (joining.trigRec a.recAt).action == 7) = some (armed true true false) ∧
    joining.memberList coll (joining.keyRec coll 0).members = [joining.moduleNo, (2 : W16).toNat] ∧ (2 : W16).toNat ≠ joining.moduleNo ∧
    joining.joinVals coll (occ (armed true true false)) 0 = [⟨0, joining.moduleNo, 0x1234, 3, 0x55, 0, [5], false⟩] ∧
    (joining.trigRec 0x4400).aux % 8 = 1 ∧ 0 < bits (joining.trigRec 0x4400).aux 6 3 ∧ (joining.trigRec 0x4400).rctr = noCounter ∧
    (locate coll (joining.keyRec coll 0) 0 (joining.trigRec 0x4400).dst (8 * bits (joining.trigRec 0x4400).aux 6 3)).toOption
      = some (sharedAddr 0 0x400) ∧
    joining.niAcc coll 0 (sharedAddr 0 0x400) (8 * bits (joining.trigRec 0x4400).aux 6 3) true = .ok ∧
    joining.occOn coll.handle (0 : Die).val 0x55 (4 : W32).toNat = none ∧ coll.st ≠ .quenching ∧
    (joining.ni.joins.filter (fun x => x.die == (0 : Die).val && x.early)).length < 64 := by decide +kernel
def crowded : State := { onNi [] joinRec with ni := { (onNi [] joinRec).ni with
  joins := List.replicate 64 ⟨0, 2, 0x1234, 9, 0x55, 0, [5], true⟩ } }
theorem witness_joinRefused : crowded.findJobId 0x1234 = some coll ∧ crowded.occOn coll.handle (0 : Die).val 0x55 (4 : W32).toNat = none ∧
    64 ≤ (crowded.ni.joins.filter (fun x => x.die == (0 : Die).val && x.early)).length ∧ crowded.canSend (2 : W16).toNat 1 = true ∧
    (2 : W16).toNat ≠ crowded.moduleNo := by decide +kernel

theorem witness_ready :
    let s := onNi [] joinRec
    s.findJobId 0x1234 = some coll ∧ s.keyIndex coll 0x55 = some 0 ∧ (s.keyRec coll 0).sig = 0xABCD ∧ (s.keyRec coll 0).first ≤ (7 : W32).toNat ∧
    (7 : W32).toNat < (s.keyRec coll 0).first + (s.keyRec coll 0).rounds ∧ s.ni.readys.length < 8192 ∧
    s.findJob coll.handle = some coll ∧ s.keyIndex coll 0x56 = none ∧ s.keyBroken coll 0x56 = none ∧ s.keyBroken coll 0x55 = none ∧ s.flag (Regs.niFault 0) 31 = false := by decide +kernel
def retry : Retry := ⟨⟨0, 2, kReady, 0x55, 3, 0, [1]⟩, 1⟩
def retrying : State := { onNi [] joinRec with ni := { (onNi [] joinRec).ni with retries := [retry] } }
theorem witness_niRetry : retrying.ni.retries.filter (fun r => r.msg.die == (0 : Die).val) = [retry] ∧ retry.msg.kind ≠ kQuench ∧
    retry.msg.remote ≠ retrying.moduleNo ∧ retrying.canSend retry.msg.remote 1 = true := by decide +kernel

def getRec (peer : Nat) : List Byte := trigBytes 3 0x21000 0x11000 64 peer 0x104 (if peer = 0 then 5 else 0) 0x108
theorem witness_get : ∀ peer ∈ [0, 2],
    (acts (getRec peer)).acting 3 0 7 (occ (armed true false false)) (armed true false false) coll (recOf (getRec peer)) 0 ∧
    (acts (getRec peer)).peerHere (recOf (getRec peer)) = (peer == 0) ∧ (acts (getRec 2)).canSend (recOf (getRec 2)).peer 1 = true ∧
    (acts (getRec peer)).findJobId coll.block.jobId = some coll := by decide +kernel
/-- The shard record at 0x20000, at generation 5, is served by entry 0. -/
def servesNow (occs : List Occ) (gen : Nat) : State := put 0x30000 (let b := leBytes 8 0x20000 ++ leBytes 8 0 ++ leBytes 2 5 ++ [1] ++ List.replicate 13 0; b ++ b.map (fun x => ~~~x))
  (put 0x20000 (shardBytes gen false) (onNi occs (getRec 0)))
def serving : State := servesNow [] 5
def asks (gen : Nat) : ServeGet := ⟨0, 2, 0x1234, 0, gen, 0x21000, 64, 0, 0x77, 0⟩
theorem witness_getServe : serving.findJobId 0x1234 = some coll ∧ serving.findJob coll.handle = some coll ∧
    (serving.ni.serve.filter (fun x => x.die == (0 : Die).val)).length < 2048 ∧
    serving.decideGet coll (asks 5) = (.served, 0x20000) ∧
    State.serveSrc coll 0x21000 = some 0x21000 ∧ serving.access coll ⟨4, dieOf 0x21000 0⟩ false false 0x21000 64 = .ok ∧
    serving.decideGet coll (asks 4) = (.gone, 0x20000) ∧ serving.canSend (2 : W16).toNat 1 = true ∧
    serving.decideGet coll (asks 6) = (.held, 0x20000) ∧ serving.decideGet coll (asks 7) = (.ahead, 0x20000) ∧
    (serving.decideGet coll { asks 5 with entry := 1 }).1 = .denied := by decide +kernel
/-- The module asks itself: generation 5 is served, held or gone as the record stands at 5, 4 or 6. -/
def selfAsk : ServeGet := ⟨0, 0, 0x1234, 0, 5, 0x21000, 64, 0, 7, 0⟩
theorem witness_getHere : ∀ gen ∈ [4, 5, 6],
    let s := servesNow [occ (armed true false false)] gen
    let r := recOf (getRec 0)
    s.acting 3 0 7 (occ (armed true false false)) (armed true false false) coll r 0 ∧
    selfAsk = ⟨0, s.moduleNo, coll.block.jobId, r.aux / 65536, r.aux % 65536, r.src, r.bytes, r.fmtIn, 7, 0⟩ ∧
    (s.decideGet coll selfAsk).1 = (if gen = 4 then .held else if gen = 5 then .served else .gone) ∧
    s.countsAt coll 0 (r.ef.toNat % 2 ^ 32) ∧ (locate coll (s.keyRec coll 0) 0 r.dst (State.getBytes r 16)).toOption = some 0x11000 ∧
    (pieces 0x11000 64).all (fun x => s.landsHere coll 0x55 3 x.1) = true ∧ s.access coll ⟨4, 0⟩ true false 0x11000 64 = .ok := by
  decide +kernel
def gone : State := onNi [occ (armed true true false)] (getRec 2)
theorem witness_generationGone : gone.askedHere ((0 : Die).val * 4096 + (7 : Fin 4096).val) =
      some ((0 : Die).val, occ (armed true true false), armed true true false) ∧ gone.findJob (occ (armed true true false)).job = some coll ∧
    (armed true true false).asked = true ∧ (armed true true false).complete = false ∧ (gone.trigRec 0x4400).action = 3 ∧
    gone.countsAt coll 0 ((gone.trigRec 0x4400).ef.toNat % 2 ^ 32) ∧
    ({ gone with jobs := [] }).askedHere 7 = some (0, occ (armed true true false), armed true true false) := by decide +kernel
/-- The data of the GET arrives. -/
def fetched : NiWrite := { State.servedWrite coll 0 (occ (armed true true false)) (recOf (getRec 2)) (List.replicate 64 7) with die := 0 }
theorem witness_fetched : gone.findJobId fetched.jobId = some coll ∧ fetched.served = true ∧
    gone.waitingGet coll.handle 0 fetched.key fetched.round.toNat fetched.dst = some (occ (armed true true false), armed true true false) ∧
    wireElems (recOf (getRec 2)).fmtIn fetched.data.length = 16 ∧ gone.recordIn 0 7 = some (occ (armed true true false), armed true true false) ∧
    gone.countsAt coll (dieOf 0x11000 0) (recOf (getRec 2)).rctr ∧ fmtMx (recOf (getRec 2)).fmtIn = false := by decide +kernel

/-! ### The update units -/

/-- A descriptor of one block of shard 9 under a rule: record at 0x20000, weights at 0x21000, journal at 0x2F000. -/
def updBytes (hdr notBefore : Nat) : List Byte :=
  let graft := hdr % 16 == 4
  let a := fun n => leBytes 8 (if graft then n else 0)
  leBytes 4 hdr ++ leBytes 4 (2 ^ 32 - 1 - hdr) ++ leBytes 2 9 ++ [0xFF, 0xFF, 0xFF, 0xFF, 0, 0] ++ leBytes 4 1 ++ leBytes 4 3
    ++ leBytes 8 0x20000 ++ leBytes 8 0x21000 ++ a 0x70000 ++ a 0x71000 ++ a 0x72000 ++ a 0x73000 ++ leBytes 8 0x60000 ++ a 0x64000
    ++ leBytes 8 0x2F000 ++ leBytes 8 0 ++ leBytes 8 0x50000 ++ leBytes 8 (near 0x500).toNat ++ leBytes 8 (near 0x510).toNat
    ++ leBytes 8 notBefore ++ leBytes 4 0x600 ++ List.replicate 116 0
def desc0 (hdr notBefore : Nat) : UpdDesc := ⟨updBytes hdr notBefore⟩
def params : List Byte := List.replicate 16 0 ++ leBytes 4 0x3F800000 ++ List.replicate 44 0
def snap0 (hdr : Nat) : Snap := ⟨hdr, 1, 9, 0x21000, 0, 0, 0, 0, 0x60000, 0, 0x2F000, 0, sharedAddr 0 0x600, 3, 0x3F800000, hyperOf params, 7, 0⟩
/-- Thread 0 of update unit 0 runs, which owns bank 0 of die 0's shared store; the record is at generation 5 and the journal entry of block 0 is as given. -/
def updates (hdr notBefore : Nat) (opened : Bool) (done : Nat) (jrn : List Byte) : State :=
  let s : State := regioned { one 7200 .ready with setup := [(Regs.shsOwner 0 0, 0x10005)], beat := { base.beat with pos := 0x10000, mode := 1 } }
  put 0x50000 params (put 0x2F000 jrn (put 0x20000 (curBytes 5 opened ++ (snap0 hdr).bytes done 0)
    (put 0x4800 (updBytes hdr notBefore) s)))
def entryOf (done : List Nat) : OpenUpd := ⟨0x20000, 0, 7200, 1, 6, true, done, done⟩
def isOpen (done : List Nat) (s : State) : State := { s with upd := { s.upd with opened := [entryOf done] } }

theorem witness_uuOpen :
    let s := updates 128 0x10000 false 0 []
    s.updating 0 0 0x20 (head 0x20 5 0x100) job (0x800 : W32).toNat (desc0 128 0x10000) 0x20000 ∧ s.recordIs 0x20000 false ∧
    s.access job ⟨5, 0⟩ false (windowOf 0x50000 == 0) 0x50000 64 = .ok ∧
    (desc0 128 0x10000).n 128 8 ≤ s.beat.pos.toNat ∧ hdrRule (desc0 128 0x10000).header ≠ 4 ∧
    s.readParams up job (desc0 128 0x10000) = (.ok, 0x50000, params) ∧
    (s.pinState 0 ((desc0 128 0x10000).n 10 2)).1 = true ∧ (s.pinState 0 ((desc0 128 0x10000).n 12 2)).1 = true ∧
    (s.snapOf up job 0 (desc0 128 0x10000) (hyperOf params) (s.scaleEff 0 false 0 0).1).isSome = true ∧ s.untraced (head 0x20 5 0x100) := by decide +kernel
theorem witness_uuOpen_waits : (updates 128 0x10001 false 0 []).updating 0 0 0x20 (head 0x20 5 0x100) job (0x800 : W32).toNat
      (desc0 128 0x10001) 0x20000 ∧ (updates 128 0x10001 false 0 []).recordIs 0x20000 false ∧ (desc0 128 0x10001).n 128 8 ≠ 0 ∧
    (updates 128 0x10001 false 0 []).beat.pos.toNat < (desc0 128 0x10001).n 128 8 := by decide +kernel
theorem witness_uuOpen_open : (updates 128 0 true 0 []).updating 0 0 0x20 (head 0x20 5 0x100) job (0x800 : W32).toNat
      (desc0 128 0) 0x20000 ∧ (updates 128 0 true 0 []).recordIs 0x20000 true ∧
    (updates 128 0 true 0 []).openEntry 0x20000 = none := by decide +kernel
/-- Another thread has it open; the same in this thread; the complement of CUR is wrong; the parameters are wrong; the pin is off. -/
def openBy (k : Nat) : State := let s := updates 128 0 true 0 []
  { s with upd := { s.upd with opened := [{ entryOf [] with thread := k }] } }
def badCur : State := let s := updates 128 0 false 0 []
  { s with mem := s.mem.filter (fun c => c.1 != 0x20005) }
def badParams : State := (updates 128 0 false 0 []).wrNat 0x50000 4 0xBF800000
def updBad (bs : List Byte) : State := put 0x4800 bs (regioned (one 7200 .ready))
theorem witness_uuOpen_more :
    (∀ k ∈ [0, 1], (openBy k).updating 0 0 0x20 (head 0x20 5 0x100) job (0x800 : W32).toNat (desc0 128 0) 0x20000 ∧
      (openBy k).recordIs 0x20000 true ∧ (((openBy k).openEntry 0x20000).map (fun o => o.thread)) = some k ∧ up.index = 0) ∧
    badCur.updating 0 0 0x22 (head 0x22 5 0x100) job (0x800 : W32).toNat (desc0 128 0) 0x20000 ∧ badCur.recCurOk 0x20000 = false ∧
    badCur.openEntry 0x20000 = none ∧
    badParams.updating 0 0 0x20 (head 0x20 5 0x100) job (0x800 : W32).toNat (desc0 128 0) 0x20000 ∧ badParams.recordIs 0x20000 false ∧
    (badParams.readParams up job (desc0 128 0)).1 = .bad 0x5105 := by decide +kernel
theorem witness_descriptor : (updBad (List.replicate 4 1)).issuing up 0x22 5 (head 0x22 5 0x100) true job ∧
    ((updBad (List.replicate 4 1)).updDesc job 0x800).guarded = false ∧
    (updBad (updBytes 5 0)).issuing up 0x22 5 (head 0x22 5 0x100) true job ∧
    ((updBad (updBytes 5 0)).updDesc job 0x800).guarded = true ∧ ((updBad (updBytes 5 0)).updDesc job 0x800).ok = false ∧
    (updBad (updBytes 5 0)).recordAcc (job.image.base + 0x800) 256 = none := by decide +kernel
theorem witness_uuClose : ∀ done ∈ [0, 1], (updates 128 0 true done []).updating 0 0 0x22 (head 0x22 5 0x100) job (0x800 : W32).toNat
      (desc0 128 0) 0x20000 ∧ (updates 128 0 true done []).recordIs 0x20000 true ∧ (updates 128 0 true done []).upd.inflight = [] ∧
    ((updates 128 0 true done []).rdNat (0x20000 + 8) 4 = (updates 128 0 true done []).rdNat (0x20000 + 16) 4 ↔ done = 1) := by
  decide +kernel
theorem witness_uuInit : (updates 128 0 false 0 []).updating 0 0 0x24 (head 0x24 5 0x100) job (0x800 : W32).toNat
      (desc0 128 0) 0x20000 ∧ State.blockRangeOk (0 : W32).toNat (1 : W16).toNat ((desc0 128 0).n 16 4) = true ∧
    (updates 128 0 false 0 []).ni.serve = [] ∧
    ((updates 128 0 false 0 []).snapOf up job 0 (desc0 128 0) [] 0).map (fun p => p.jrn) = some 0x2F000 ∧
    ((updates 128 0 false 0 []).checkAll job ⟨5, 0⟩ [(0x2F000 + 16 * 0, 16, true), (0x20000, 256, true)]).1 = .ok ∧
    0x20000 + 256 ≤ 0x2F000 + 16 * 0 := by decide +kernel

/-- One generation behind, moments written, DONE; of another block, of another generation, and with a wrong complement. -/
def journals : List (List Byte) := [journalBytes 0 0 5 9, journalBytes 1 0 6 9, journalBytes 0 0 6 9]
def wrongJournals : List (List Byte) := [journalBytes 0 1 5 9, journalBytes 0 0 7 9, leBytes 8 (journalWord 0 0 5 9)]
theorem witness_uuBlocks : ∀ jrn ∈ journals,
    let s := isOpen [0] (updates 128 0 true 0 jrn)
    let p := s.readSnap 0x20000
    s.updating 0 0 0x21 (head 0x21 5 0x100) job (0x800 : W32).toNat (desc0 128 0) 0x20000 ∧
    State.blockRangeOk (0 : W32).toNat (1 : W16).toNat ((desc0 128 0).n 16 4) = true ∧ s.recordIs 0x20000 true ∧
    bit job.block.flags.toNat 3 = false ∧
    (s.checkAll job ⟨5, 0⟩ [(p.jrn + 16 * 0, 16, false), (p.jrn + 16 * 0, 16, true)]).1 = .ok ∧ hdrFrozen p.hdr = false ∧
    (s.checkAll job ⟨5, 0⟩ (State.blockReads p 0 ++ State.blockWrites p 0x20000 0)).1 = .ok ∧
    (∀ y ∈ State.blockExtents p 0 1, State.plainPlace y.1) ∧
    State.disjoint ((0x20000, 256) :: State.blockExtents p 0 1 ++ State.blockSources p 0 1) ∧
    s.upd.inflight = [] ∧ s.openEntry 0x20000 = some (entryOf [0]) ∧ 0 ∈ (entryOf [0]).done ∧
    State.recGen s 0x20000 = 5 ∧ p.shard = 9 := by decide +kernel
theorem witness_journals : journals.map (fun jrn =>
      let s := isOpen [0] (updates 128 0 true 0 jrn)
      let p := s.readSnap 0x20000
      let shows := fun phase behind => s.loadNat (p.jrn + 8) 8 == 2 ^ 64 - 1 - s.loadNat p.jrn 8 && bits (s.loadNat p.jrn 8) 63 48 == 9 &&
        bits (s.loadNat p.jrn 8) 31 8 == 0 && bits (s.loadNat p.jrn 8) 1 0 == phase && (bits (s.loadNat p.jrn 8) 47 32 + behind) % 65536 == 6
      [shows 0 0, shows 1 0, shows 0 1])
    = [[false, false, true], [false, true, false], [true, false, false]] := by decide +kernel
theorem witness_wrongJournals : ∀ jrn ∈ wrongJournals,
    let s := isOpen [0] (updates 128 0 true 0 jrn)
    s.updating 0 0 0x21 (head 0x21 5 0x100) job (0x800 : W32).toNat (desc0 128 0) 0x20000 ∧ s.recordIs 0x20000 true ∧
    (s.checkAll job ⟨5, 0⟩ [(0x2F000, 16, false), (0x2F000, 16, true)]).1 = .ok := by decide +kernel
theorem witness_uuBlocks_closed : (updates 128 0 false 0 []).updating 0 0 0x21 (head 0x21 5 0x100) job (0x800 : W32).toNat
      (desc0 128 0) 0x20000 ∧ (updates 128 0 false 0 []).recordIs 0x20000 false := by decide +kernel

/-- GRAFT keeps both moments and reads a direction. -/
def graftHdr : Nat := 4 + 32 + 128
theorem witness_uuNorm :
    let s := updates graftHdr 0 false 0 []
    let d := desc0 graftHdr 0
    s.updating 0 0 0x23 (head 0x23 5 0x100) job (0x800 : W32).toNat d 0x20000 ∧ State.blockRangeOk (0 : W32).toNat (1 : W16).toNat (d.n 16 4) = true ∧
    hdrRule d.header = 4 ∧ s.readParams up job d = (.ok, 0x50000, params) ∧ s.graftAt up d 112 = some (sharedAddr 0 0x500) ∧
    windowOf (sharedAddr 0 0x500) = 0 ∧
    (match s.snapOf up job 0 d (hyperOf params) Sys2Proof.Num.one32 with
      | some p => hdrFrozen p.hdr == false && (s.checkAll job ⟨5, 0⟩ (State.blockReads p 0 ++
          [(sharedAddr 0 0x500, 16, false), (sharedAddr 0 0x500, 16, true)])).1 == .ok
      | none => false) = true := by decide +kernel

theorem witness_uuNorm_rule : (updates 128 0 false 0 []).updating 0 0 0x23 (head 0x23 5 0x100) job (0x800 : W32).toNat (desc0 128 0) 0x20000 ∧
    hdrRule (desc0 128 0).header ≠ 4 := by decide +kernel

def inFlight : State :=
  let s := isOpen [] (updates 128 0 true 1 [])
  { s with upd := { s.upd with inflight := [(7200, 0x20000, 0)], retained := [(5, (7, 0x20000)), (6, (8, 0x20000))] } }.wrNat
    (stagingAddr 0 (5 * 65536)) 4 9
theorem witness_weightGroup : inFlight.upd.inflight.find? (fun y => (y.1 - 7200) / 4 == (0 : Stack).val) = some (7200, 0x20000, 0) ∧
    inFlight.openEntry 0x20000 = some (entryOf []) ∧ inFlight.findJob 1 = some job ∧ (inFlight.readSnap 0x20000).nblk = 1 ∧
    (inFlight.readSnap 0x20000).doneCtr = sharedAddr 0 0x600 ∧ placeOf (sharedAddr 0 0x600) = .shared 0 0x600 ∧
    inFlight.countsAt job 0 0x600 ∧ (entryOf []).adds = true := by decide +kernel
theorem witness_retain : inFlight.writesNow .mgmt ∧ bit (0x4000000 : W32).toNat 26 = true ∧ bit (0x3FFFFFF : W32).toNat 26 = false ∧
    (mfind inFlight.upd.retained ((0 : Die).val * 512 + 5)).isSome = true ∧
    (mfind inFlight.upd.retained ((0 : Die).val * 512 + (0x4000005 : W64).toNat % 512)).isSome = true ∧
    inFlight.retainedTag 0 5 ≠ inFlight.retainedTag 0 6 := by decide +kernel

/-! ### Recovery and resets -/

/-- A job on tile 5, and thread 0 of that tile. -/
def mark0 : ReplayPoint := ⟨7, [(140, (0x120, block.bases, []))], []⟩
def onTile (st : JobSt) (replay : Option ReplayPoint) : Job :=
  { job with st := st, replay := replay, block := { block with tiles := [5] }, named := [140] }
def tiled (st : JobSt) (replay : Option ReplayPoint) (used : Nat) (tst : TSt) : State :=
  { base with
    jobs := [onTile st replay], threads := [(140, thread tst)]
    recov := { base.recov with sparesUsed := [(0, used)], taking := if st = .held then [5] else [] } }
theorem witness_tileFault : ∀ used ∈ [3, 4], (tiled .admitted none used .ready).power.held = false ∧
    (tiled .admitted none used .ready).power.off = false ∧ (tiled .admitted none used .ready).recov.lost.contains (5 : Tile).val = false ∧
    (∀ j ∈ (tiled .admitted none used .ready).jobs, (j.runs && j.block.tiles.contains (5 : Tile).val) = false) ∧
    mget (tiled .admitted none used .ready).recov.sparesUsed ((5 : Tile).val / 64) 0 = used := by decide +kernel
theorem witness_tileFault_job : ∀ used ∈ [3, 4], ∀ replay ∈ [none, some mark0],
    (tiled .running replay used .ready).jobs.find? (fun j => j.runs && j.block.tiles.contains (5 : Tile).val) = some (onTile .running replay) ∧
    (tiled .running replay used .ready).findJob (onTile .running replay).handle = some (onTile .running replay) ∧
    mget (tiled .running replay used .ready).recov.sparesUsed ((5 : Tile).val / 64) 0 = used := by decide +kernel
theorem witness_tileSpared : (tiled .held (some mark0) 1 .halted).recov.taking.contains (5 : Tile).val = true ∧
    (tiled .held (some mark0) 1 .halted).jobs.find? (fun j => j.st == .held && j.block.tiles.contains (5 : Tile).val)
      = some (onTile .held (some mark0)) ∧ (tiled .held (some mark0) 1 .halted).findJob 1 = some (onTile .held (some mark0)) ∧
    (tiled .held (some mark0) 1 .halted).jobStill (onTile .held (some mark0)) = true ∧
    (∀ x ∈ (tiled .held (some mark0) 1 .halted).recov.taking, x ≠ (5 : Tile).val → (onTile .held (some mark0)).block.tiles.contains x = false) := by
  decide +kernel
def marked : State := { base with recov := { base.recov with marked := [5] } }
theorem witness_tileRetire : marked.recov.marked.contains (5 : Tile).val = true ∧
    (∀ j ∈ marked.jobs, (j.st != .admitted && j.block.tiles.contains (5 : Tile).val) = false) := by decide +kernel
theorem witness_unitRetired : retireCode (.solver 0) = some 0 ∧ base.recov.retiredUnits.contains 0 = false ∧
    (one 0 .ready).findJob 1 = some job ∧ job.st = .running ∧ job.holds (.solver 0) = true := by decide +kernel
def phased : State := { base with recov := { base.recov with phases := [(15, 1)] } }
theorem witness_phases : mget base.recov.phases (15 : Fin 16).val 0 = 0 ∧ 1 ≤ mget phased.recov.phases (15 : Fin 16).val 0 ∧
    base.power.off = false := by decide +kernel

/-- Two samples have been taken; the hang monitor of die 0 is on. -/
def sampled (tst : TSt) (target : Option Nat) : State :=
  { tiled .running none 0 tst with
    threads := [(140, { thread tst with beatTarget := target })], setup := [(Regs.hangCfg 0, 1)]
    recov := { base.recov with hang := [⟨1, 3, [140], 1, 1⟩] } }
theorem witness_hang : (sampled .waitUnit none).samples = true ∧ off.samples = false ∧
    (sampled .waitUnit none).findJob 1 = some (onTile .running none) ∧ (onTile .running none).st = .running ∧
    (sampled .waitUnit none).enDies (onTile .running none) = true ∧
    (sampled .waitUnit none).recov.hang.find? (fun x => x.handle == 1) = some ⟨1, 3, [140], 1, 1⟩ ∧
    (sampled .waitUnit none).jobStalled (onTile .running none) = true ∧ (sampled .waitBeat (some 9)).samples = true ∧
    (sampled .waitBeat (some 9)).quiet (onTile .running none) = true := by decide +kernel
def stuck (cfg : W64) : State := { sampled .waitUnit none with
  setup := [(Regs.hangCfg 0, cfg)], jobs := [{ onTile .quenching none with cause := 0x8001 }] }
theorem witness_escalate : (stuck 1).jobs.find? (fun j => (stuck 1).notHalted (.tile 5) j) = some { onTile .quenching none with cause := 0x8001 } ∧
    (stuck 1).flag (Regs.hangCfg (unitDie (.tile 5))) 1 = false ∧
    (stuck 3).jobs.find? (fun j => (stuck 3).notHalted (.tile 5) j) = some { onTile .quenching none with cause := 0x8001 } ∧
    (stuck 3).flag (Regs.hangCfg (unitDie (.tile 5))) 1 = true := by decide +kernel

theorem witness_resets : (tiled .running none 0 .ready).compute = true ∧ (tiled .running none 0 .ready).findJob 1 = some (onTile .running none) ∧
    (onTile .running none).block.tiles.contains (5 : Tile).val = true ∧ (one 0 .ready).compute = true ∧ job.engines.contains (0 : Sys2Proof.Engine).val = true ∧
    job.usesDie (0 : Die).val = true ∧ (0 : FPort).val < 7 ∧ base.power.off = false ∧ base.imagesGood = true ∧
    base.obs.counted.length < 2097152 := by decide +kernel

/-- The cases in which a recovery command changes nothing or only part; two tiles of one job are being taken over. -/
def twoTaking : State := let s := tiled .held (some mark0) 1 .halted
  { s with jobs := [{ onTile .held (some mark0) with block := { block with tiles := [5, 6] } }], recov := { s.recov with taking := [5, 6] } }
def retiredOne : State := { base with recov := { base.recov with retiredUnits := [0] } }
theorem witness_recoveryIdle : off.power.off = true ∧ off.power.held = true ∧ off.compute = false ∧
    base.recov.taking.contains (5 : Tile).val = false ∧ base.recov.marked.contains (5 : Tile).val = false ∧
    (twoTaking.jobs.find? (fun j => j.st == .held && j.block.tiles.contains (5 : Tile).val)).isSome = true ∧
    (6 ∈ twoTaking.recov.taking ∧ 6 ≠ (5 : Tile).val) ∧ twoTaking.jobs.all (fun j => j.block.tiles.contains 6 && twoTaking.jobStill j) = true ∧
    retireCode (.tile 0) = none ∧ retiredOne.recov.retiredUnits.contains 0 = true ∧ base.findJob 1 = none ∧
    base.jobs.all (fun j => !base.notHalted (.tile 5) j) = true ∧ 7 ≤ (8 : FPort).val ∧
    (State.bootImage 1 { base with mgmt := { base.mgmt with banks := [] } }).1.isNone = true := by decide +kernel

/-! ### Management, observation and the rules -/

def session : MsgVia := .secured 9
/-- A trusted session is open in the owner's hands, with FULL debug where said. -/
def owned (level : BitVec 2) : State := { one 0 .ready with mgmt := { base.mgmt with
  ownerKey := true, rtcValid := true, rtc := 5, activate := 7, challenge := some 3
  spdm := ⟨3, [(9, true)], [8]⟩, debug := if level = 0 then none else some ⟨level, false, 60, session⟩
  banks := mdel (mset (mset base.mgmt.banks 1 ⟨2, 1, 4, true⟩) 3 ⟨2, 1, 4, true⟩) 5 } }
/-- The same in lifecycle state `l`. -/
def living (l : BitVec 2) (level : BitVec 2) : State := { owned level with mgmt := { (owned level).mgmt with lifecycle := l } }
theorem witness_accepts : base.accepts .i3c ∧ (owned 0).accepts session ∧ (owned 0).mgmtUp = true ∧
    base.authorised .ethernet = false ∧ (owned 0).writesNow .mgmt ∧ base.writesNow .mgmt ∧ base.anyBound = false ∧ base.jobs = [] ∧
    (Regs.desc Regs.obsCtrl).isSome = true ∧ base.power.inProgress = none ∧ (base.acc (State.ctxOf .mgmt)).st ≠ 1 ∧
    base.compute = true ∧ ({ base with mgmt := { base.mgmt with noImage := true } } : State).mgmtUp = false := by decide +kernel
theorem witness_plainLong : ∃ d, plainLong (BitVec.ofNat 32 Regs.snapBase).toNat d := ⟨⟨64, 0, 0xFFFFFFFFFFFFFFFF, 0, 0, false, false⟩, by decide +kernel⟩
theorem witness_noRegister : (0x3FFFF8 : W32).toNat % 4 = 0 ∧ Regs.desc (0x3FFFF8 : W32).toNat = none ∧ Regs.desc ((0x3FFFF8 : W32).toNat - 4) = none := by
  decide +kernel
def asleep (st : BitVec 3) : State := { owned 0 with power := { (owned 0).power with st := st } }
theorem witness_shallower : ∀ st ∈ [(1 : BitVec 3), 2], (asleep st).accepts session ∧ (asleep st).writesNow .mgmt ∧
    (asleep st).power.st = st ∧ (0 : Fin 2).val < (asleep st).power.st.toNat ∧ (asleep st).wakeEnabled 3 = true := by decide +kernel
def record (kind : BitVec 8) (payload : List Byte) (sigOk : Bool) : ConfigRecord :=
  ⟨kind, if kind = 6 then 2 else if kind = 1 ∨ kind = 2 ∨ kind = 4 ∨ kind = 5 then 0 else 1, base.mgmt.serial, 9, payload, 77, sigOk, true⟩
theorem witness_records : (∀ kind ∈ [1, 2, 3, 4, 6], (living 0 0).recordHolds (record kind [1, 0, 0, 0, 0, 0, 0, 0] true) ∧
    (record kind [] true).kind ≠ 5) ∧ (record 3 [] false).sigOk = false ∧
    (living 1 0).signerOk (record 1 [] true) = false ∧ { record 3 [] true with serial := 1 }.serial ≠ base.mgmt.serial ∧
    { record 3 [] true with counter := 0 }.counter ≤ mget (owned 0).mgmt.counters 3 0 ∧ { record 3 [] true with wellFormed := false }.wellFormed = false ∧
    (record 5 [2] true).kind = 5 ∧ (living 0 0).lifecycleOk [2] = false := by decide +kernel
def returning : State := { living 1 1 with jobs := [], threads := [] }
theorem witness_lifecycle : ∀ s ∈ [living 0 1, returning, living 1 1, living 2 1], s.accepts session ∧
    mget s.mgmt.counters 5 0 < (record 5 [] true).counter ∧ (record 5 [] true).kind = 5 ∧ (record 5 [] true).serial = s.mgmt.serial ∧
    (record 5 [] true).signer = 0 ∧ s.mgmt.ownerKey = true := by decide +kernel
theorem witness_return : returning.mgmt.lifecycle = 1 ∧ returning.jobs = [] ∧ returning.threads = [] ∧ (living 0 1).mgmt.lifecycle = 0 ∧
    (living 2 1).mgmt.lifecycle = 2 ∧ ([1] : List Byte).getD 0 0 = 1 ∧ ([2, 1] : List Byte).getD 1 0 = 1 ∧
    (living 1 1).jobs ≠ [] ∧ ([2, 0] : List Byte).getD 1 0 ≠ 1 ∧
    (∀ c ∈ (living 1 1).threads, ∀ j ∈ (living 1 1).jobs, c.2.job = j.handle → c.2.st ≠ .free ∧ c.1 ∈ State.jobKeys j) := by decide +kernel

def logged : State := { owned 1 with obs := { base.obs with
  log := [⟨4, 0x1401, 0x700, 1, 0, 0, 2⟩], dumps := [[⟨4, 0x1401, 0x700, 1, 0, 0, 2⟩]] } }
theorem witness_log : logged.mgmtUp = true ∧
    logged.obs.log.find? (fun r => r.seq.toNat == (4 : W32).toNat) = some ⟨4, 0x1401, 0x700, 1, 0, 0, 2⟩ ∧ logged.accepts session ∧
    logged.obs.log.find? (fun r => r.seq.toNat == (5 : W32).toNat) = none ∧
    logged.mgmt.debug = some ⟨1, false, 60, session⟩ ∧ (⟨1, false, 60, session⟩ : Debug).level ≠ 0 ∧ (owned 0).mgmt.debug = none := by
  decide +kernel

def cert : DebugCert := ⟨true, false, 2, base.mgmt.serial, 60, 5, 5, 3, 1⟩
theorem witness_debug : (owned 0).accepts (.secured 9) ∧ (owned 0).mgmt.challenge = some cert.challenge ∧ cert.chainOk = true ∧ cert.level = 2 ∧
    60 ≤ cert.maxSeconds ∧ cert.maxSeconds ≤ 86400 ∧ cert.ownerIssued = false ∧
    (owned 0).mgmt.rtcValid = true ∧ cert.notBefore ≤ (owned 0).mgmt.rtc ∧ (owned 0).mgmt.rtc ≤ cert.notAfter ∧
    cert.scope = (owned 0).mgmt.serial ∧ (owned 0).mgmt.debug = none ∧ (owned 0).debugPower = true ∧
    (owned 0).mgmt.challenge ≠ some { cert with challenge := 4 }.challenge ∧ ¬ { cert with notBefore := 6 }.notBefore ≤ (owned 0).mgmt.rtc ∧
    { cert with scope := 1 }.scope ≠ (owned 0).mgmt.serial ∧ (owned 2).mgmt.debug ≠ none := by decide +kernel
/-- Bank 0 of tile 0 is OFF. -/
def bankOff : State := { owned 2 with setup := [(Regs.tilPwr 0, 2)] }
theorem witness_reach :
    (owned 2).mgmt.debug = some ⟨2, false, 60, session⟩ ∧ (owned 2).debugLevel = 2 ∧ (owned 1).debugLevel ≠ 2 ∧
    (∀ a ∈ [0x40000, scratchAddr 0 0, sharedAddr 0 0], (owned 2).debugReach (BitVec.ofNat 64 a : W64).toNat 64 = true ∧
      (owned 2).debugAcc (BitVec.ofNat 64 a : W64).toNat 64 = .ok ∧ windowOf (BitVec.ofNat 64 a : W64).toNat = 0) ∧
    placeOf (0x40000 : W64).toNat = .stack 0 0x40000 ∧ placeOf (0x100000000000 : W64).toNat = .host 0 0 ∧
    bankOff.debugReach (scratchAddr 0 0) 64 = true ∧ bankOff.debugAcc (scratchAddr 0 0) 64 = .bad 0x3107 := by decide +kernel

theorem witness_spdm : (owned 0).negotiated 1 ∧ (owned 0).negotiated 2 ∧ (owned 0).negotiated 3 ∧ (living 2 0).mgmt.lifecycle = 2 ∧
    session ≠ .i3c ∧ (owned 0).mgmt.spdm.pendingKeys.contains (7 : W32).toNat = false ∧ mfind (owned 0).mgmt.spdm.sessions (7 : W32).toNat = none ∧
    (owned 0).mgmt.spdm.pendingKeys.contains (8 : W32).toNat = true ∧ mfind (owned 0).mgmt.spdm.sessions (9 : W32).toNat = some true ∧
    (owned 1).mgmt.debug = some ⟨1, false, 60, session⟩ ∧ session = .secured 9 ∧ session ≠ .secured 8 ∧ base.mgmt.spdm.stage = 0 := by
  decide +kernel

def reload : Reload := ⟨1, .tile 0, 1, false⟩
def reloading : State := { owned 0 with mgmt := { (owned 0).mgmt with reloads := [reload] } }
theorem witness_firmware : (owned 0).bankOfKind (1 : Fin 3).val < 2 ∧ (2 : BitVec 3) &&& (owned 0).mgmt.activate ≠ 0 ∧
    (2 : BitVec 3) &&& base.mgmt.activate = 0 ∧
    ((7 : BitVec 3) &&& (owned 0).mgmt.activate).getLsbD (1 : Fin 3).val = true ∧ ((2 : BitVec 3) &&& (owned 0).mgmt.activate).getLsbD 0 = false ∧
    ((owned 0).nextImage (0 : Fin 3).val).isSome = true ∧ ((owned 0).nextImage (1 : Fin 3).val).isSome = true ∧
    (owned 0).nextImage (2 : Fin 3).val = none ∧ ((owned 0).fwBank 0 ((owned 0).bankOfKind 0)).isSome = true ∧
    (owned 0).mgmt.reloads.find? (fun r => r.kind == (1 : Fin 3).val && r.unit == .tile 0) = none := by decide +kernel
theorem witness_reload :
    reloading.mgmt.reloads.find? (fun r => r.kind == (1 : Fin 3).val && r.unit == .tile 0) = some reload ∧
    reloading.jobs.any (fun j => decide (j.handle < reload.mark) && j.holds (.tile 0)) = false ∧ reload.failed = false ∧
    { reload with failed := true }.failed = true ∧
    reloading.jobs.any (fun j => decide (j.handle < { reload with mark := 2 }.mark) && j.holds (.tile 0)) = true := by decide +kernel

/-- Sillage runs into a ring of 4,096 records at 0x100000 with threads 0 and 1 of tile 0. -/
def sillage (on : Bool) : State := regioned { one 0 .ready with
  threads := (one 0 .ready).threads ++ [(1, (one 0 .ready).thread 0)]
  setup := [(Regs.silCtrl, if on then 0x300000001 else 0x300000000), (Regs.silCfg, 0x7000C), (Regs.silBase, 0x100000),
    (Regs.silTiles 0, 1), (Regs.snapCfg, 0x70000), (Regs.snapBase, 0x100000)] }
def setTo (s : State) (o v : Nat) : State := s.setRegNat o v
/-- The ring and the buffer lie in the window of host port A. -/
def silHost : State :=
  let s := setTo (setTo (setTo (setTo (sillage true) Regs.silCfg 0x7002C) Regs.silBase 0x100000000000) Regs.snapCfg 0x70001) Regs.snapBase 0x100000000000
  { s with host := { s.host with ports := [(0, { HostPort.fresh with up := true })] } }
theorem witness_sillage : ∀ s ∈ [sillage true, silHost], s.sampling (.tile 0) ∧ s.obs.paused.contains (unitLog (.tile 0)) = false ∧
    sampledKeys s (.tile 0) = [0, 1] ∧ s.obs.silDropped = 0 ∧ s.regNat Regs.silWr = 0 ∧ s.regNat Regs.silRd < 2 ^ 32 ∧
    (0 + 2 ^ 32 - s.regNat Regs.silRd) % 2 ^ 32 + 2 ≤ s.silSize := by decide +kernel
theorem witness_ring : ∀ i ∈ [0, 1], (sillage true).placementOk 0 7 (0x100000 + 32 * i) 32 = true ∧
    placeOf (0x100000 + 32 * i) = .stack 0 (0x100000 + 32 * i) ∧ silHost.placementOk 1 7 (0x100000000000 + 32 * i) 32 = true ∧
    placeOf (0x100000000000 + 32 * i) = .host 0 (32 * i) := by decide +kernel
def ringFull : State := setTo (sillage true) Regs.silWr 4096
def dropped : State := { setTo (sillage true) Regs.silCtrl 0x100000001 with obs := { base.obs with silDropped := 5 } }
def paused : State := { setTo (sillage true) Regs.silCtrl 1 with obs := { base.obs with paused := [unitLog (.tile 0)] } }
def misplaced : State := setTo (sillage true) Regs.silCfg 0x8000C
theorem witness_ring2 : ringFull.sampling (.tile 0) ∧ ringFull.silFull = true ∧ dropped.sampling (.tile 0) ∧ sampledKeys dropped (.tile 0) = [0] ∧
    dropped.obs.silDropped ≠ 0 ∧ paused.sampling (.tile 0) ∧ sampledKeys paused (.tile 0) = [] ∧
    paused.obs.paused.contains (unitLog (.tile 0)) = true ∧ misplaced.sampling (.tile 0) ∧ misplaced.silFull = false ∧
    sampledKeys misplaced (.tile 0) ≠ [] ∧ misplaced.placementOk 0 8 0x100000 32 = false ∧ (sillage false).flag Regs.silCtrl 0 = false ∧
    (sillage true).silNames (.solver 0) = false := by decide +kernel
theorem witness_sillageOn : (sillage false).writesNow .mgmt ∧ (sillage true).writesNow .mgmt ∧
    12 ≤ (sillage false).field Regs.silCfg 4 0 ∧ (sillage false).field Regs.silCfg 4 0 ≤ 28 ∧
    (sillage false).placementOk 0 7 0x100000 (32 * 2 ^ 12) = true ∧ ({ base with setup := [(Regs.silCfg, 5)] } : State).field Regs.silCfg 4 0 < 12 := by decide +kernel
def pairUp : State := { base with fabric := { base.fabric with pairs := [{ QPair.fresh 77 with up := [true, true] }] } }
theorem witness_pairUp : pairUp.pairOf (77 : W16).toNat = some { QPair.fresh 77 with up := [true, true] } := by decide +kernel
theorem witness_snapshot : bit (1 : W32).toNat 0 = true ∧ bit (1 : W32).toNat 2 = false ∧ bit (4 : W32).toNat 0 = false ∧
    (sillage true).writesNow .mgmt ∧ (sillage true).regNat Regs.snapBase = 0x100000 ∧ (sillage true).field Regs.snapCfg 1 0 = 0 ∧
    (∀ i, i < (sillage true).snapBody.length + 1 →
      (sillage true).placementOk 0 ((sillage true).field Regs.snapCfg 31 16) (0x100000 + 64 * i) 64 = true ∧
      placeOf (0x100000 + 64 * i) = .stack 0 (0x100000 + 64 * i)) ∧
    base.placementOk (base.field Regs.snapCfg 1 0) (base.field Regs.snapCfg 31 16) (base.regNat Regs.snapBase) 64 = false ∧
    (sillage true).snapBody.length < 8191 ∧ ((sillage true).thread 1).st ≠ .free := by
  decide +kernel

theorem witness_guardedHalf : (Regs.desc (Regs.tilOwner 255 15)).map (fun d => (d.width, d.guarded)) = some (64, true) ∧
    Regs.tilOwner 255 15 % 8 = 0 := by decide +kernel
/-- The job's window on the Network Interface is the word `w`; occurrence 3 is at the head of its list. -/
def claiming (w : Nat) : Job := { coll with block := { coll.block with niw := [BitVec.ofNat 64 w, 0, 0, 0] } }
def claimed (w : Nat) : State := { onNi [] [] with jobs := [claiming w] }
theorem witness_claim : ∀ w ∈ [0x400200, 0x800], (claimed w).findJob 1 = some (claiming w) ∧ (claiming w).st = .running ∧
    (claimed w).heads 1 (0 : Die).val (claiming w) 3 0 ((claimed w).keyRec (claiming w) 0) ∧
    ((claimed w).keyRec (claiming w) 0).nkey = ~~~((claimed w).keyRec (claiming w) 0).key := by decide +kernel
theorem witness_claimWindow : (claiming 0x400200).niCount 0 < ((claimed 0x400200).keyRec (claiming 0x400200) 0).firstSlot 0 +
      ((claimed 0x400200).keyRec (claiming 0x400200) 0).slots 0 ∧
    (claiming 0x800).trigCount 0 < ((claimed 0x800).keyRec (claiming 0x800) 0).trig 0 := by decide +kernel
/-- No spare of stack 0 is left; channel 5 is in a state. -/
def spent (st : ChSt) : State := { base with
  power := { base.power with st := 2 }
  stk := { base.stk with
    chSt := [(5, st), (128, .ok), (129, .ok), (130, .ok), (131, .ok)] } }
theorem witness_spares : ∀ st ∈ [ChSt.degraded, .down], (spent st).power.st = 2 ∧
    (spent st).chState (0 : Stack).val ((spent st).physCh (0 : Stack).val (5 : Fin 128).val) = st ∧
    (spent st).physCh (0 : Stack).val (5 : Fin 128).val = 5 ∧ (spent st).freeSpare (0 : Stack).val = none ∧
    placeOf 0x500 = .stack 0 0x500 ∧ channelOf 0x500 = 5 := by decide +kernel
theorem witness_ratchet : (owned 0).writesNow .mgmt ∧ ((owned 0).fwBank 1 ((owned 0).bankOfKind 1)).isSome = true ∧
    ({ owned 0 with mgmt := { (owned 0).mgmt with minSvn := [(1, 5)] } } : State).accepts session ∧
    (FwImage.mk 1 4 0 true).svn < mget [(1, (5 : W16))] (1 : Fin 3).val 0 := by decide +kernel

/-! ### Well-formedness, and the manual's worked examples -/

/-- A module number beyond the last group of a system (R2, R308). -/
theorem test_wf_module : (Instr.qpClose 8191).wf = true ∧ (Instr.qpClose 8192).wf = false := by decide +kernel
def landingFlit (dst : W64) (data : List Byte) : Instr :=
  .dataFlit 0 ⟨⟨1, 0, true, [], false⟩, 1, 0, false, 0, 1, 16⟩ (some ⟨7, 0, 1, dst, 0, 0, 0, false, 0, false, false, none, 0, 0, data⟩)
/-- A place to land beyond a module's 48-bit addresses (R11). -/
theorem test_wf_landed : (landingFlit 0xFFFFFFFFFFFF [1]).wf = true ∧ (landingFlit 0x1000000000000 [1]).wf = false := by decide +kernel
/-- More data than a message lands (R328). -/
theorem test_wf_data (l : List Byte) (h : 16777216 < l.length) : (landingFlit 0 l).wf = false := by
  simp [landingFlit, Instr.wf, Instr.lands, landedOk, Instr.remotes]
  intro _ hle; omega
/-- An access of two bytes to the set-up space (R397). -/
theorem test_wf_size : (Instr.registerWrite .mgmt 0 8 0).wf = true ∧ (Instr.registerWrite .mgmt 0 2 0).wf = false := by decide +kernel
/-- A management access of 63 bytes, and one of 4,097 (R479). -/
theorem test_wf_memory : (Instr.memRead .i3c 0 64).wf = true ∧ (Instr.memRead .i3c 0 63).wf = false ∧
    (Instr.memRead .i3c 0 4096).wf = true ∧ (Instr.memRead .i3c 0 4097).wf = false := by decide +kernel
/-- The example under R157: 0x0019_0012_3480 lies in stack S2, on channel 16, at local address 0x0200_2480. -/
theorem test_channel : placeOf 0x001900123480 = .stack 2 0x100123480 ∧ channelOf 0x100123480 = 16 ∧
    Machine.localAddr 0x100123480 = 0x2002480 := by decide +kernel
/-- The examples under R114: scales 202/128 · 2⁻⁷ and 210/128 · 2⁻¹⁶, and the codes of 0.0123 and −0.004, and of 2.5 · 10⁻⁵,
10⁻⁷ and 10⁻⁸. -/
theorem test_moments :
    m8Encode false [.fin false 13207024 (-30), .fin true 8589935 (-31)] = (0x3C4A, [127, 215], false) ∧
    m8Encode true [.fin false 13743895 (-39), .fin false 14073749 (-47), .fin false 11258999 (-50)] = (0x37D2, [255, 16, 5], false) := by decide +kernel

end Sys2Proof.Tests
end

/-! Where guarded registers lie (R10, R398). A guarded register has 64 bits and nothing else lies at its upper half: said
once per block of the map, and put together for the map as `desc` divides it. -/

namespace Sys2Proof.Regs

/-! ### What is not guarded -/

/-- Nothing lies here, or a register that is not guarded. -/
def Unguarded (x : Option Desc) : Prop := ∀ d, x = some d → d.guarded = false

@[simp] theorem unguarded_none : Unguarded none := fun _ h => nomatch h
@[simp] theorem unguarded_some (d : Desc) : Unguarded (some d) ↔ d.guarded = false := by simp [Unguarded]
@[simp] theorem unguarded_ro (w x : Nat) : Unguarded (ro w x) := by simp [ro]
@[simp] theorem unguarded_faultReg (w x : Nat) : Unguarded (faultReg w x) := by simp [faultReg]
@[simp] theorem unguarded_rwr (w x m : Nat) (l : Bool) : Unguarded (rwr w x m l) := by simp [rwr]
@[simp] theorem not_unguarded_guardReg (x m : Nat) (l : Bool) : ¬ Unguarded (guardReg x m l) := by simp [guardReg]
@[simp] theorem unguarded_ite (p : Prop) [Decidable p] (x y : Option Desc) :
    Unguarded (if p then x else y) ↔ (p → Unguarded x) ∧ (¬ p → Unguarded y) := by split <;> simp [*]

theorem width_of_guardReg {x m : Nat} {l : Bool} {d : Desc} (h : guardReg x m l = some d) : d.width = 64 := by
  cases h
  rfl

/-! ### Guarded registers are whole within a block -/

/-- Between `lo` and `hi` every guarded register of the block has 64 bits that end before `hi`, and nothing lies at the
offset of its upper half. -/
def GuardedWhole (block : Nat → Option Desc) (lo hi : Nat) : Prop :=
  ∀ r d, lo ≤ r → r < hi → block r = some d → d.guarded = true → d.width = 64 ∧ block (r + 4) = none ∧ r + 4 < hi

theorem guardedWhole_of_unguarded {block : Nat → Option Desc} (lo hi : Nat) (h : ∀ r, Unguarded (block r)) :
    GuardedWhole block lo hi := by
  intro r d _ _ hr hg
  simp [h r d hr] at hg

/-- A block whose guarded registers lie at the offsets of which `lies` holds. -/
theorem guardedWhole_of_at {block : Nat → Option Desc} {hi : Nat} (lies : Nat → Prop)
    (hno : ∀ r, ¬ lies r → Unguarded (block r))
    (hyes : ∀ r, lies r → (∃ x m l, block r = guardReg x m l) ∧ block (r + 4) = none ∧ r + 4 < hi) :
    GuardedWhole block 0 hi := by
  intro r d _ _ hr hg
  by_cases h : lies r
  · obtain ⟨⟨x, m, l, hb⟩, hnext, hlt⟩ := hyes r h
    exact ⟨width_of_guardReg (hb ▸ hr), hnext, hlt⟩
  · simp [hno r h d hr] at hg

/-- A block with one guarded register. -/
theorem guardedWhole_of_single {block : Nat → Option Desc} {hi x m : Nat} {l : Bool} (r₀ : Nat)
    (hno : ∀ r, r ≠ r₀ → Unguarded (block r)) (hyes : block r₀ = guardReg x m l) (hnext : block (r₀ + 4) = none)
    (hlt : r₀ + 4 < hi) : GuardedWhole block 0 hi :=
  guardedWhole_of_at (· = r₀) hno fun _ h => h ▸ ⟨⟨x, m, l, hyes⟩, hnext, hlt⟩

/-- One block below `mid`, another from there on. -/
theorem GuardedWhole.ite {f g : Nat → Option Desc} {lo mid hi : Nat} (hf : GuardedWhole f lo mid) (hg : GuardedWhole g mid hi)
    (hle : mid ≤ hi := by omega) : GuardedWhole (fun o => if o < mid then f o else g o) lo hi := by
  intro r d hlo hhi hr hd
  by_cases h : r < mid
  · obtain ⟨hw, hnext, hlt⟩ := hf r d hlo h (by simpa [h] using hr) hd
    exact ⟨hw, by simpa [hlt] using hnext, by omega⟩
  · obtain ⟨hw, hnext, hlt⟩ := hg r d (by omega) hhi (by simpa [h] using hr) hd
    exact ⟨hw, by simpa [show ¬ r + 4 < mid by omega] using hnext, hlt⟩

/-- A block in a window that begins after a gap. -/
theorem GuardedWhole.window {f g : Nat → Option Desc} {lo a b hi : Nat} (hf : GuardedWhole f a b) (hg : GuardedWhole g b hi)
    (hgap : ∀ o, o < a → g o = none) (hle : b ≤ hi := by omega) :
    GuardedWhole (fun o => if a ≤ o ∧ o < b then f o else g o) lo hi := by
  intro r d hlo hhi hr hd
  by_cases h : a ≤ r ∧ r < b
  · obtain ⟨hw, hnext, hlt⟩ := hf r d h.1 h.2 (by simpa [h] using hr) hd
    exact ⟨hw, by simpa [show a ≤ r + 4 ∧ r + 4 < b by omega] using hnext, by omega⟩
  · have hg' : g r = some d := by simpa [h] using hr
    have ha : ¬ r < a := fun hlt => by
      rw [hgap r hlt] at hg'
      cases hg'
    have hb : b ≤ r := by omega
    obtain ⟨hw, hnext, hlt⟩ := hg r d hb hhi hg' hd
    exact ⟨hw, by simpa [show ¬ (a ≤ r + 4 ∧ r + 4 < b) by omega] using hnext, hlt⟩

/-- A block moved to its base. -/
theorem GuardedWhole.shift {f : Nat → Option Desc} {n : Nat} (hf : GuardedWhole f 0 n) (base : Nat) :
    GuardedWhole (fun o => f (o - base)) base (base + n) := by
  intro r d hlo hhi hr hd
  obtain ⟨hw, hnext, hlt⟩ := hf (r - base) d (Nat.zero_le _) (by omega) hr hd
  exact ⟨hw, by simpa [show r + 4 - base = r - base + 4 by omega] using hnext, by omega⟩

/-- A block repeated every `n` bytes, `k` times. -/
theorem GuardedWhole.copies {f : Nat → Option Desc} {n : Nat} (hf : GuardedWhole f 0 n) (hn : 0 < n) (k : Nat) :
    GuardedWhole (fun o => f (o % n)) 0 (n * k) := by
  intro r d _ hhi hr hd
  obtain ⟨hw, hnext, hlt⟩ := hf (r % n) d (Nat.zero_le _) (Nat.mod_lt _ hn) hr hd
  have hmod : (r + 4) % n = r % n + 4 := by
    have h4 := Nat.mod_eq_of_lt (show 4 < n by omega)
    rw [Nat.add_mod, h4, Nat.mod_eq_of_lt hlt]
  have hcopy : n * (r / n) + n ≤ n * k := Nat.mul_le_mul_left n (Nat.div_lt_of_lt_mul hhi)
  have hr' := Nat.div_add_mod r n
  exact ⟨hw, by simpa [hmod] using hnext, by omega⟩

/-! ### The blocks -/

theorem guardedWhole_hif : GuardedWhole hif 0 0x10000 :=
  guardedWhole_of_at (fun r => 0x4000 ≤ r ∧ r < 0x40C0 ∧ r % 0x40 = 0)
    (fun r h => by simp [hif, hifRing]; omega)
    (fun r h => by
      obtain ⟨hlo, hhi, hmod⟩ := h
      refine ⟨⟨0, 7, false, ?_⟩, ?_, by omega⟩
      · simp (disch := omega) only [hif, if_pos, if_neg]
      · simp (disch := omega) only [hif, if_pos, if_neg])

theorem guardedWhole_beat : GuardedWhole beat 0 0x1000 :=
  guardedWhole_of_single 0x20 (fun r h => by simp [beat, h]) rfl rfl (by decide)

theorem guardedWhole_pwr : GuardedWhole pwr 0 0x4000 :=
  guardedWhole_of_single 8 (fun r h => by simp [pwr, h]) rfl rfl (by decide)

theorem guardedWhole_mgt : GuardedWhole mgt 0 0x10000 :=
  guardedWhole_of_single 0x20 (fun r h => by simp [mgt, h]) rfl rfl (by decide)

theorem guardedWhole_dieBlock : GuardedWhole dieBlock 0 0x4000 :=
  guardedWhole_of_single 0x18 (fun r h => by simp [dieBlock, h]) rfl rfl (by decide)

theorem guardedWhole_shsBlock : GuardedWhole shsBlock 0 0x1000 :=
  guardedWhole_of_at (fun r => r < 0x200 ∧ r % 8 = 0)
    (fun r h => by simp [shsBlock]; omega)
    (fun r h => by
      obtain ⟨hhi, hmod⟩ := h
      refine ⟨⟨0x10004, 0x13F07, true, ?_⟩, ?_, by omega⟩
      · simp (disch := omega) only [shsBlock, if_pos]
      · simp (disch := omega) only [shsBlock, if_pos, if_neg])

theorem guardedWhole_tilBlock : GuardedWhole tilBlock 0 0x1000 :=
  guardedWhole_of_at (fun r => 0x100 ≤ r ∧ r < 0x180 ∧ r % 8 = 0)
    (fun r h => by simp [tilBlock]; omega)
    (fun r h => by
      obtain ⟨hlo, hhi, hmod⟩ := h
      refine ⟨⟨0x10003, 0x13F07, true, ?_⟩, ?_, by omega⟩
      · simp (disch := omega) only [tilBlock, if_pos]
      · simp (disch := omega) only [tilBlock, if_pos, if_neg])

theorem unguarded_upd (r : Nat) : Unguarded (upd r) := by simp [upd]
theorem unguarded_fab (r : Nat) : Unguarded (fab r) := by simp [fab]
theorem unguarded_memory (r : Nat) : Unguarded (memory r) := by simp [memory]
theorem unguarded_sec (r : Nat) : Unguarded (sec r) := by simp [sec]
theorem unguarded_niBlock (r : Nat) : Unguarded (niBlock r) := by simp [niBlock]
theorem unguarded_slvBlock (r : Nat) : Unguarded (slvBlock r) := by simp [slvBlock]
theorem unguarded_obsBlock (r : Nat) : Unguarded (obsBlock r) := by simp [obsBlock]
theorem unguarded_enfBlock (r : Nat) : Unguarded (enfBlock r) := by simp [enfBlock]

/-! ### The map -/

theorem guardedWhole_desc {hi : Nat} (h : 0x1200000 ≤ hi) : GuardedWhole desc 0 hi :=
  guardedWhole_hif.ite <|
  (guardedWhole_beat.shift 0x10000).ite <|
  (guardedWhole_of_unguarded _ _ fun _ => unguarded_upd _).ite <|
  (guardedWhole_of_unguarded _ _ fun _ => unguarded_fab _).ite <|
  (guardedWhole_pwr.shift 0x14000).ite <|
  (guardedWhole_of_unguarded _ _ fun _ => unguarded_memory _).ite <|
  (guardedWhole_mgt.shift 0x20000).ite <|
  (guardedWhole_of_unguarded _ _ fun _ => unguarded_sec _).ite <|
  ((guardedWhole_dieBlock.copies (by decide) 4).shift 0x40000).ite <|
  ((guardedWhole_shsBlock.copies (by decide) 4).shift 0x50000).ite <|
  (guardedWhole_of_unguarded _ _ fun _ => unguarded_niBlock _).ite <|
  (guardedWhole_of_unguarded _ _ fun _ => unguarded_slvBlock _).ite <|
  (guardedWhole_of_unguarded _ _ fun _ => unguarded_obsBlock _).window
    (((guardedWhole_tilBlock.copies (by decide) 0x100).shift 0x1000000).window
      (guardedWhole_of_unguarded _ _ fun _ => by simp [unguarded_enfBlock])
      (fun o ho => by simp (disch := omega) only [if_neg]))
    (fun o ho => by simp (disch := omega) only [if_neg])

/-- Wherever a guarded register lies, it has 64 bits and nothing lies at the offset of its upper half. -/
theorem desc_guarded {o : Nat} {d : Desc} (hd : desc o = some d) (hg : d.guarded = true) :
    d.width = 64 ∧ desc (o + 4) = none :=
  have ⟨hw, hnext, _⟩ := guardedWhole_desc (Nat.le_add_left 0x1200000 (o + 1)) o d (Nat.zero_le o) (by omega) hd hg
  ⟨hw, hnext⟩

end Sys2Proof.Regs

/-! A direct write of half a guarded register (R10): the half is a piece of the register, its verdict is the guard
mismatch, and what is left behind is an entry of the error log. -/

namespace Sys2Proof.Machine.State

/-! ### The half as a piece of its register -/

theorem piece4_of_guarded {o off : Nat} {d : Regs.Desc} (hd : Regs.desc o = some d) (hg : d.guarded = true)
    (ho : o % 8 = 0) (hoff : off = o ∨ off = o + 4) : ∃ hi, piece4 off = .half o hi := by
  obtain ⟨hw, hnext⟩ := Regs.desc_guarded hd hg
  rcases hoff with rfl | rfl
  · exact ⟨false, by simp [piece4, hd, hw]⟩
  · exact ⟨true, by simp [piece4, hnext, hd, hw, show (o + 4) % 8 = 4 by omega]⟩

theorem halfGuarded_half {o : Nat} {d : Regs.Desc} (hd : Regs.desc o = some d) (hg : d.guarded = true) (hi : Bool) :
    halfGuarded (.half o hi) = some o := by simp [halfGuarded, hd, hg]

theorem checkPiece_of_halfGuarded {p : Piece} {o : Nat} (s t : State) (src : Src) (staged : Bool) (v : Nat)
    (hp : halfGuarded p = some o) (hon : s.domainOn o = true) : s.checkPiece t src staged p v = (o, .guard) := by
  simp [checkPiece, hp, hon]

/-! ### A write that acts now -/

theorem domainOn_of_writesNow {s : State} {src : Src} (h : s.writesNow src) (o : Nat) : s.domainOn o = true := by
  obtain ⟨_, _, hst, hheld, _⟩ := h
  have hpow : (s.power.st != 3) = true := bne_iff_ne.2 hst
  simp only [domainOn, hpow, hheld, Bool.not_false, Bool.and_self, Bool.true_or]

theorem setupWrite_of_writesNow {s : State} {src : Src} (h : s.writesNow src) {off size : Nat}
    (hok : accessOk off size = true) (v : Nat) : s.setupWrite src off size v = s.directWrite src off size v := by
  obtain ⟨hreach, hclosed, _, _, hlist⟩ := h
  have hsrc : ∀ t, src = .list t → False := by
    rintro t rfl
    simp at hlist
  rw [setupWrite, if_neg (by simp [hreach, hok]), if_neg fun c => hclosed c.1]
  exact hsrc

theorem directWrite_of_halfGuarded {off o : Nat} (s : State) (src : Src) (v : Nat)
    (hp : halfGuarded (piece4 off) = some o) (hon : s.domainOn o = true) :
    s.directWrite src off 4 v = s.logGuard 0x700 0 2 (o / 8) := by
  simp [directWrite, piecesOf, checkPiece_of_halfGuarded s _ src false _ hp hon, refuseReg]

@[simp] theorem lastLog_log (s : State) (c : W16) (u : Nat) (h : W32) (d : W64) : (s.log c u h d).lastLog = some c := rfl

/-- A 32-bit access of half a guarded register leaves an entry of the error log. -/
theorem exec_registerWrite_guardedHalf {s : State} {src : Src} {off : W32} {o : Nat} {d : Regs.Desc} (value : W64)
    (hnow : s.writesNow src) (ho : o % 8 = 0) (hoff : off.toNat = o ∨ off.toNat = o + 4) (hd : Regs.desc o = some d)
    (hg : d.guarded = true) : exec (.registerWrite src off 4 value) s = .next (s.logGuard 0x700 0 2 (o / 8)) := by
  obtain ⟨hi, hpiece⟩ := piece4_of_guarded hd hg ho hoff
  have hok : accessOk off.toNat 4 = true := by simp [accessOk]; omega
  have hhalf : halfGuarded (piece4 off.toNat) = some o := by rw [hpiece, halfGuarded_half hd hg]
  calc exec (.registerWrite src off 4 value) s
    _ = .next (s.setupWrite src off.toNat 4 (value.toNat % 2 ^ 32)) := rfl
    _ = .next (s.directWrite src off.toNat 4 (value.toNat % 2 ^ 32)) := by rw [setupWrite_of_writesNow hnow hok]
    _ = .next (s.logGuard 0x700 0 2 (o / 8)) := by
      rw [directWrite_of_halfGuarded s src _ hhalf (domainOn_of_writesNow hnow o)]

/-- Settles O55: where guarded registers lie gives the width, and either half is a piece of the guarded register. -/
theorem halfOfAGuardedRegister : Obligations.HalfOfAGuardedRegister := by
  unfold Obligations.HalfOfAGuardedRegister
  refine ⟨fun o d hd hg => (Regs.desc_guarded hd hg).1, ?_⟩
  intro s src off o d value hnow ho hoff hd hg
  exact ⟨_, exec_registerWrite_guardedHalf value hnow ho hoff hd hg, lastLog_log .., rfl, rfl, rfl, rfl, rfl, rfl⟩

end Sys2Proof.Machine.State

/-! NaNs (R104): which codes of a format read as NaN, and the one code a NaN is written as. The exponent and mantissa
fields that decoding reads are told from the code without its sign. -/

namespace Sys2Proof.Num.FF

/-- A code without its sign is its exponent field above its mantissa field. -/
theorem code_mod_eq_fields (f : FF) (c : Nat) :
    c % 2 ^ (f.eb + f.mb) = c / 2 ^ f.mb % 2 ^ f.eb * 2 ^ f.mb + c % 2 ^ f.mb := by
  rw [Nat.add_comm f.eb, Nat.pow_add, Nat.mod_mul, Nat.mul_comm, Nat.add_comm]

/-- From the code of infinity upwards the exponent field is the largest: a smaller one leaves the code below it. -/
theorem exponent_eq_emax {f : FF} {c : Nat} (h : f.emax * 2 ^ f.mb ≤ c % 2 ^ (f.eb + f.mb)) :
    c / 2 ^ f.mb % 2 ^ f.eb = f.emax := by
  have hle : c / 2 ^ f.mb % 2 ^ f.eb ≤ f.emax := Nat.le_sub_one_of_lt (Nat.mod_lt _ (Nat.two_pow_pos _))
  refine Nat.le_antisymm hle (Nat.not_lt.1 fun hlt => ?_)
  have hbelow : (c / 2 ^ f.mb % 2 ^ f.eb + 1) * 2 ^ f.mb ≤ f.emax * 2 ^ f.mb := Nat.mul_le_mul_right _ hlt
  have hM : c % 2 ^ f.mb < 2 ^ f.mb := Nat.mod_lt _ (Nat.two_pow_pos _)
  rw [Nat.succ_mul] at hbelow
  rw [code_mod_eq_fields] at h
  omega

/-- What a code adds to the code of infinity is its mantissa field. -/
theorem code_mod_eq_add_mantissa {f : FF} {c : Nat} (h : f.emax * 2 ^ f.mb ≤ c % 2 ^ (f.eb + f.mb)) :
    c % 2 ^ (f.eb + f.mb) = f.emax * 2 ^ f.mb + c % 2 ^ f.mb := by
  rw [code_mod_eq_fields, exponent_eq_emax h]

/-- In an IEEE coding every code above infinity is a NaN. -/
theorem decode_eq_nan_of_inf_lt {f : FF} (hsp : f.sp = .ieee) {c : Nat}
    (h : f.emax * 2 ^ f.mb < c % 2 ^ (f.eb + f.mb)) : f.decode c = .nan := by
  have hE := exponent_eq_emax (Nat.le_of_lt h)
  have hM : c % 2 ^ f.mb ≠ 0 := by
    have := code_mod_eq_add_mantissa (Nat.le_of_lt h)
    omega
  simp [decode, hsp, hE, hM]

/-- In E4M3's coding, which has no infinity, the canonical NaN of either sign is a NaN. -/
theorem decode_eq_nan_of_nanCode {f : FF} (hsp : f.sp = .e4m3) {c : Nat}
    (h : c % 2 ^ (f.eb + f.mb) = f.nanCode) : f.decode c = .nan := by
  have hcode : c % 2 ^ (f.eb + f.mb) = f.emax * 2 ^ f.mb + (2 ^ f.mb - 1) := by simpa [nanCode, hsp] using h
  have hinf : f.emax * 2 ^ f.mb ≤ c % 2 ^ (f.eb + f.mb) := hcode ▸ Nat.le_add_right _ _
  have hE := exponent_eq_emax hinf
  have hM : c % 2 ^ f.mb = 2 ^ f.mb - 1 := Nat.add_left_cancel ((code_mod_eq_add_mantissa hinf).symm.trans hcode)
  simp [decode, hsp, hE, hM]

/-- However a conversion rounds, a NaN becomes the canonical NaN. -/
@[simp] theorem convert_nan (f : FF) (r : Round) : f.convert r .nan = (f.nanCode, .nan) := rfl

end Sys2Proof.Num.FF

namespace Sys2Proof.Machine

/-- Settles O56: a NaN is written as its format's canonical code, and every code that R103 makes a NaN reads as one. -/
theorem nansAreCanonical : Obligations.NansAreCanonical := by
  unfold Obligations.NansAreCanonical
  refine ⟨fun r => ?_, fun _ h _ => ?_, fun _ h _ => ?_, fun _ h _ => ?_, fun _ h _ => ?_, fun _ h _ => ?_⟩
  · simp only [Num.FF.convert_nan]
    decide
  · exact Num.FF.decode_eq_nan_of_inf_lt rfl h
  · exact Num.FF.decode_eq_nan_of_inf_lt rfl h
  · exact Num.FF.decode_eq_nan_of_inf_lt rfl h
  · exact Num.FF.decode_eq_nan_of_inf_lt rfl h
  · exact Num.FF.decode_eq_nan_of_nanCode rfl h

end Sys2Proof.Machine

/-! Stack channels without a spare (R174, R177): the channel that serves an address, what remains of the spares when a
channel goes down, and how the two commands report that none is left. -/

namespace Sys2Proof.Machine

/-- No on-chip address falls in a stack (R132). -/
theorem placeChip_ne_stack (a st o : Nat) : placeChip a ≠ .stack st o := by
  unfold placeChip
  dsimp only
  repeat' split
  all_goals exact nofun

/-- A module address falls in a stack only by the division of stacked memory into stacks (R132, R156). -/
theorem eq_of_placeOf_eq_stack {a st o : Nat} (h : placeOf a = .stack st o) :
    st = a / 0xC00000000 ∧ o = a % 0xC00000000 := by
  have hchip := placeChip_ne_stack (plainAddr a) st o
  unfold placeOf at h
  split at h
  · cases h
    exact ⟨rfl, rfl⟩
  -- the host, view and bad places, each by a constructor of its own; then the chip
  iterate 5
    split at h
    · cases h
  split at h
  · split at h <;> cases h
  · exact absurd h hchip

/-- The 256 bytes around an address are served by one channel (R157). -/
theorem channelOf_blockStart (o : Nat) : channelOf (o / 256 * 256) = channelOf o := by
  have hlow : bits (o / 256 * 256) 14 8 = bits o 14 8 := by simp [bits]
  have hhigh : bits (o / 256 * 256) 21 15 = bits o 21 15 := by
    simp only [bits]
    omega
  rw [channelOf, hlow, hhigh, channelOf]

theorem blockStart_div_stack (a : Nat) : a / 256 * 256 / 0xC00000000 = a / 0xC00000000 := by omega

theorem blockStart_mod_stack (a : Nat) : a / 256 * 256 % 0xC00000000 = a % 0xC00000000 / 256 * 256 := by omega

namespace State

/-! ### An access to a channel that is down -/

/-- An access of at least a byte meets the state of the channel that serves its first byte (R174). -/
theorem channelAcc_of_down {s : State} {a n : Nat} (hn : 0 < n)
    (h : s.chState (a / 0xC00000000) (s.physCh (a / 0xC00000000) (channelOf (a % 0xC00000000))) = .down) :
    s.channelAcc a n = .bad 0x3220 := by
  have hblocks : 0 < min ((a + n - 1) / 256 + 1 - a / 256) 4096 := by omega
  refine if_pos (List.any_eq_true.2 ⟨_, List.mem_map.2 ⟨0, List.mem_range.2 hblocks, rfl⟩, ?_⟩)
  simp only [Nat.add_zero, blockStart_div_stack, blockStart_mod_stack, channelOf_blockStart, h, beq_self_eq_true]

/-! ### The states of the channels -/

@[simp] theorem chState_setChannel_same (s : State) (st p : Nat) (c : ChSt) : (s.setChannel st p c).chState st p = c := by
  simp [chState, setChannel]

theorem chState_setChannel_ne (s : State) {st p q : Nat} (c : ChSt) (h : q ≠ p) :
    (s.setChannel st p c).chState st q = s.chState st q := by
  simp only [chState, setChannel]
  rw [mget_mset_ne]
  omega

theorem freeSpare_eq_none_iff {s : State} {st : Nat} :
    s.freeSpare st = none ↔ ∀ p ∈ [128, 129, 130, 131], s.chState st p ≠ .spare := by
  simp [freeSpare]

/-- A channel that becomes anything but SPARE does not add to the spares. -/
theorem freeSpare_setChannel {s : State} {st : Nat} (p : Nat) {c : ChSt} (h : s.freeSpare st = none) (hc : c ≠ .spare) :
    (s.setChannel st p c).freeSpare st = none := by
  refine freeSpare_eq_none_iff.2 fun q hq => ?_
  by_cases hqp : q = p
  · subst hqp
    rwa [chState_setChannel_same]
  · rw [chState_setChannel_ne s c hqp]
    exact freeSpare_eq_none_iff.1 h q hq

/-! ### The commands where no spare is left -/

theorem noteSpares_of_none {s : State} {st : Nat} (h : s.freeSpare st = none) :
    s.noteSpares st = s.report 0x3223 (0x600 + st) := by
  simp [noteSpares, h]

theorem replaceEff_of_no_spare {s : State} {st ch : Nat} (wake : Bool) (hsleep : s.power.st = 2)
    (hch : s.chState st (s.physCh st ch) = .degraded ∨ s.chState st (s.physCh st ch) = .down)
    (hspare : s.freeSpare st = none) : s.replaceEff st ch wake = s.report 0x3223 (0x600 + st) := by
  simp only [replaceEff, hsleep, hch, hspare, and_self, if_true]

theorem channelDownEff_of_no_spare {s : State} {st ch : Nat} (hch : s.chState st (s.physCh st ch) ≠ .down)
    (hspare : s.freeSpare st = none) :
    s.channelDownEff st ch = (s.setChannel st (s.physCh st ch) .down).report 0x3223 (0x600 + st) := by
  rw [← noteSpares_of_none (freeSpare_setChannel _ hspare (by decide))]
  exact if_neg hch

theorem exec_channelReplace_of_no_spare {s : State} {st : Stack} {ch : Fin 128} (wake : Bool) (hsleep : s.power.st = 2)
    (hch : s.chState st.val (s.physCh st.val ch.val) = .degraded ∨ s.chState st.val (s.physCh st.val ch.val) = .down)
    (hspare : s.freeSpare st.val = none) :
    exec (.channelReplace st ch wake) s = .next (s.report 0x3223 (0x600 + st.val)) :=
  congrArg Host.Outcome.next (replaceEff_of_no_spare wake hsleep hch hspare)

theorem exec_channelDown_of_no_spare {s : State} {st : Stack} {ch : Fin 128}
    (hch : s.chState st.val (s.physCh st.val ch.val) ≠ .down) (hspare : s.freeSpare st.val = none) :
    exec (.channelDown st ch) s =
      .next ((s.setChannel st.val (s.physCh st.val ch.val) .down).report 0x3223 (0x600 + st.val)) :=
  congrArg Host.Outcome.next (channelDownEff_of_no_spare hch hspare)

/-- Settles O58: both commands come down to the report, the second after the channel's own state, and the block of an
access's first byte is on the channel that is down. -/
theorem channelSparesExhausted : Obligations.ChannelSparesExhausted := by
  unfold Obligations.ChannelSparesExhausted
  refine ⟨?_, ?_, ?_⟩
  · intro s st ch wake hsleep hch hspare
    exact ⟨_, exec_channelReplace_of_no_spare wake hsleep hch hspare, List.mem_cons_self, rfl, rfl, rfl⟩
  · intro s st ch hch hspare _
    exact ⟨_, exec_channelDown_of_no_spare hch hspare, List.mem_cons_self, chState_setChannel_same .., rfl, rfl⟩
  · intro s a n st o hplace hdown hn
    obtain ⟨rfl, rfl⟩ := eq_of_placeOf_eq_stack hplace
    exact channelAcc_of_down hn hdown

end State

end Sys2Proof.Machine

/-! An NI's fault quenches its job (R97, R98, R343, R345): what the FAULT register, the log entry and the quench leave of
the job and of the error log. The QUENCH that leaves for the other modules (R340) adds nothing to the log. -/

namespace Sys2Proof.Machine.State

/-- What each step of a fold keeps, the fold keeps. -/
theorem foldl_keeps {α β : Type} (field : State → β) {f : State → α → State} (h : ∀ st x, field (f st x) = field st)
    (l : List α) (s : State) : field (l.foldl f s) = field s :=
  List.foldlRecOn (motive := fun st => field st = field s) l f rfl fun st hst x _ => (h st x).trans hst

/-! ### Sending leaves the log as it was -/

@[simp] theorem bump_obs (o n : Nat) (s : State) : (s.bump o n).obs = s.obs := by
  unfold bump
  split <;> rfl

@[simp] theorem mapLink_obs (p : Nat) (f : Link → Link) (s : State) : (s.mapLink p f).obs = s.obs := rfl

@[simp] theorem emit_obs (p : Nat) (f : TxFlit) (s : State) : (s.emit p f).obs = s.obs := by simp [emit]

@[simp] theorem sendCtl_obs (p kind value : Nat) (s : State) : (s.sendCtl p kind value).obs = s.obs := by
  unfold sendCtl
  dsimp only
  split
  · rfl
  · split
    · exact emit_obs ..
    · rfl

@[simp] theorem offerCredit_obs (p : Nat) (s : State) : (s.offerCredit p).obs = s.obs := by
  unfold offerCredit
  dsimp only
  split
  · exact sendCtl_obs ..
  · rfl

@[simp] theorem depart_obs (p : Nat) (f : TxFlit) (s : State) : (s.depart p f).obs = s.obs := by
  unfold depart
  dsimp only
  split
  · simp [returnCredit]
  · exact emit_obs ..

@[simp] theorem pump_obs (p : Nat) (s : State) : (s.pump p).obs = s.obs := by
  unfold pump
  generalize (s.link p).held.length + 1 = fuel
  induction fuel generalizing s with
  | zero => rfl
  | succ n ih =>
    unfold pumpFuel
    split
    · rfl
    · rw [ih, depart_obs, mapLink_obs]

@[simp] theorem txPut_obs (front : Bool) (p : Nat) (f : TxFlit) (s : State) : (s.txPut front p f).obs = s.obs := by
  rw [txPut, pump_obs, mapLink_obs]

@[simp] theorem txFlit_obs (f : TxFlit) (s : State) : (s.txFlit f).obs = s.obs := by
  unfold txFlit
  split
  · rfl
  · split
    · exact txPut_obs ..
    · exact txPut_obs ..
    · rfl
    · rfl

@[simp] theorem ethSend_obs (m vc len : Nat) (s : State) : (s.ethSend m vc len).obs = s.obs := by
  unfold ethSend
  split
  · rfl
  · exact bump_obs ..

@[simp] theorem openPair_obs (m : Nat) (s : State) : (s.openPair m).obs = s.obs := by
  unfold openPair
  split
  · rfl
  · refine foldl_keeps obs (fun st q => ?_) _ _
    split <;> rfl

@[simp] theorem sendMsg_obs (g : NiMsg) (s : State) : (s.sendMsg g).obs = s.obs := by
  unfold sendMsg
  dsimp only
  -- each way a message leaves is one of the sends above, and one that waits changes the outbox alone
  repeat' split
  all_goals simp

theorem sendQuench_obs (j : Job) (s : State) : (s.sendQuench j).obs = s.obs :=
  foldl_keeps obs (fun st _ => sendMsg_obs _ st) _ _

/-! ### Counting and freeing leave the log as it was -/

theorem bumpSlot_obs (d : Nat) (h : W32) (i n : Nat) (s : State) : (s.bumpSlot d h i n).obs = s.obs := by
  unfold bumpSlot
  split
  · rfl
  · split <;> rfl

theorem count_log (c d : Nat) (h : W32) (n : Nat) (s : State) : (s.count c d h n).obs.log = s.obs.log := by
  unfold count
  split
  · rfl
  · split
    · rfl
    · simp [noteCounted, bumpSlot_obs]

theorem quenchTiles_log (j : Job) (s : State) : (s.quenchTiles j).obs.log = s.obs.log :=
  foldl_keeps (·.obs.log) (fun st _ => count_log _ _ _ _ st) _ _

theorem freeJobSlots_log (h : W32) (s : State) : (s.freeJobSlots h).obs.log = s.obs.log := by
  refine foldl_keeps (·.obs.log) (fun st d => ?_) _ _
  split <;> rfl

/-! ### The quench of a running job (R97, R98) -/

/-- The job as a quench leaves it. -/
def quenched (cause : W16) (j : Job) : Job := { j with st := .quenching, cause := cause }

theorem sendQuench_jobs (j : Job) (s : State) : (s.sendQuench j).jobs = s.jobs := by
  obtain ⟨_, _, _, _, _, h⟩ := sendQuench_frame j s
  rw [h]

theorem freeJobSlots_jobs (h : W32) (s : State) : (s.freeJobSlots h).jobs = s.jobs := by
  obtain ⟨_, _, e⟩ := freeJobSlots_frame h s
  rw [e]

theorem quenchTiles_jobs (j : Job) (s : State) : (s.quenchTiles j).jobs = s.jobs := by
  obtain ⟨_, _, _, _, h⟩ := quenchTiles_frame j s
  rw [h]

theorem recordFault_jobs (o v : Nat) (s : State) : (s.recordFault o v).jobs = s.jobs := by
  obtain ⟨_, h⟩ := recordFault_frame o v s
  rw [h]

theorem quenchNow_jobs_of_running {s : State} {h : W32} {j : Job} (cause : W16) (hj : s.findJob h = some j)
    (hrun : j.st = .running) : (s.quenchNow h cause).jobs = (s.mapJob h (quenched cause)).jobs := by
  simp only [quenchNow, hj, hrun, sendQuench_jobs, freeJobSlots_jobs, releasePins, quenchTiles_jobs]
  rfl

theorem quenchNow_log_of_running {s : State} {h : W32} {j : Job} (cause : W16) (hj : s.findJob h = some j)
    (hrun : j.st = .running) : (s.quenchNow h cause).obs.log = s.obs.log := by
  simp only [quenchNow, hj, hrun, sendQuench_obs, freeJobSlots_log, releasePins, quenchTiles_log]
  rfl

/-- Only what is asked for, not a fault, lets a job whose threads are all DONE complete instead (R99). -/
theorem quenchJob_eq_quenchNow {s : State} {h : W32} {cause : W16} {j : Job} (hj : s.findJob h = some j)
    (hask : asked cause = false) : s.quenchJob h cause = s.quenchNow h cause := by
  simp [quenchJob, hj, hask]

theorem findJob_quenchJob_of_running {s : State} {h : W32} {cause : W16} {j : Job} (hj : s.findJob h = some j)
    (hrun : j.st = .running) (hask : asked cause = false) :
    (s.quenchJob h cause).findJob h = some (quenched cause j) := by
  rw [quenchJob_eq_quenchNow hj hask, findJob, quenchNow_jobs_of_running cause hj hrun, ← findJob,
    findJob_mapJob_same s h (quenched cause) fun _ => rfl, hj, Option.map_some]

theorem quenchJob_log_of_running {s : State} {h : W32} {cause : W16} {j : Job} (hj : s.findJob h = some j)
    (hrun : j.st = .running) (hask : asked cause = false) : (s.quenchJob h cause).obs.log = s.obs.log := by
  rw [quenchJob_eq_quenchNow hj hask, quenchNow_log_of_running cause hj hrun]

/-! ### A fault of an NI (R343, R345) -/

/-- The fault register and the log entry leave the jobs as they were, so that the quench finds the running job. -/
theorem findJob_recordFault_log (s : State) (o v : Nat) (code : W16) (unit : Nat) (x : W32) (detail : W64) (h : W32) :
    ((s.recordFault o v).log code unit x detail).findJob h = s.findJob h := by
  rw [findJob, log_jobs, recordFault_jobs, ← findJob]

theorem findJob_niHalt_of_running {s : State} {h : W32} {code : W16} {j : Job} (d index : Nat) (key : W32)
    (hj : s.findJob h = some j) (hrun : j.st = .running) (hask : asked code = false) :
    (s.niHalt d h code index key).findJob h = some (quenched code j) :=
  findJob_quenchJob_of_running ((findJob_recordFault_log ..).trans hj) hrun hask

/-- The fault's entry stands in the error log, with the job's handle. -/
theorem exists_log_niHalt_of_running {s : State} {h : W32} {code : W16} {j : Job} (d index : Nat) (key : W32)
    (hj : s.findJob h = some j) (hrun : j.st = .running) (hask : asked code = false) :
    ∃ r ∈ (s.niHalt d h code index key).obs.log, r.code = code ∧ r.handle = h := by
  rw [niHalt, quenchJob_log_of_running ((findJob_recordFault_log ..).trans hj) hrun hask]
  exact ⟨_, List.mem_cons_self, rfl, rfl⟩

/-! ### A claim outside the job's windows (R325) -/

/-- The head of an NI's sequence whose claim exceeds a window of the job is met with the fault. -/
theorem exec_occurrenceStart_of_claimOutside {s : State} {d : Die} {h : W32} {j : Job} {n ki : Nat} {k : KeyRec}
    (hhead : s.heads h d.val j n ki k) (hguard : k.nkey = ~~~k.key)
    (hclaim : j.niCount d.val < k.firstSlot d.val + k.slots d.val ∨ j.trigCount d.val < k.trig d.val) :
    exec (.occurrenceStart d h) s = .next (s.niHalt d.val h 0x4411 0 k.key) := by
  obtain ⟨hj, hrun, hpower, hocc, rfl, hread⟩ := hhead
  have hon : ¬ (j.st ≠ .running ∨ (s.power.st ≠ 0 ∧ s.power.st ≠ 1)) :=
    not_or.2 ⟨not_not_intro hrun, fun ⟨hoff, hoff'⟩ => hpower.elim hoff hoff'⟩
  have heff : s.occurrenceStartEff d.val h = s.niHalt d.val h 0x4411 0 (s.keyRec j ki).key := by
    simp only [occurrenceStartEff, hj, if_neg hon, hocc, hread, if_neg (not_not_intro hguard), if_pos hclaim]
  exact congrArg Host.Outcome.next heff

/-- Settles O57: the claim is met with the NI's fault, which logs its code and quenches the running job. -/
theorem claimOutsideWindow : Obligations.ClaimOutsideWindow := by
  unfold Obligations.ClaimOutsideWindow
  intro s d h j n ki k hhead hguard hclaim
  have hexec := exec_occurrenceStart_of_claimOutside hhead hguard hclaim
  obtain ⟨hj, hrun, _⟩ := hhead
  exact ⟨_, hexec, ⟨_, findJob_niHalt_of_running _ _ _ hj hrun rfl, rfl, rfl⟩,
    exists_log_niHalt_of_running _ _ _ hj hrun rfl⟩

end Sys2Proof.Machine.State

/-! The minimum SVN (R488, R491): what a write of MGT.FW_CTRL that only ratchets does to the firmware's state, and what the
update of an image below the minimum leaves. -/

namespace Sys2Proof.Machine.State

/-! ### One kind of a ratchet -/

/-- What bit `k` of RATCHET does in the value `v` of MGT.FW_CTRL (`fwCtrlEff_of_no_activate`). -/
def ratchetKind (v : Nat) (s : State) (k : Nat) : State :=
  if bit v (4 + k) then match s.fwBank k (s.bankOfKind k) with
    | some b => s.setMgmt fun m => { m with
        minSvn := mset m.minSvn k (if mget m.minSvn k 0 < b.svn then b.svn else mget m.minSvn k 0) }
    | none => s
  else s

/-- A ratchet writes nothing but the minimum SVNs. -/
theorem ratchetKind_frame (v : Nat) (s : State) (k : Nat) :
    ∃ x, s.ratchetKind v k = s.setMgmt fun m => { m with minSvn := x } := by
  unfold ratchetKind
  split
  · split <;> exact ⟨_, rfl⟩
  · exact ⟨_, rfl⟩

@[simp] theorem ratchetKind_banks (v : Nat) (s : State) (k : Nat) : (s.ratchetKind v k).mgmt.banks = s.mgmt.banks := by
  obtain ⟨_, h⟩ := ratchetKind_frame v s k
  rw [h, setMgmt]

@[simp] theorem ratchetKind_active (v : Nat) (s : State) (k : Nat) : (s.ratchetKind v k).mgmt.active = s.mgmt.active := by
  obtain ⟨_, h⟩ := ratchetKind_frame v s k
  rw [h, setMgmt]

@[simp] theorem ratchetKind_activate (v : Nat) (s : State) (k : Nat) :
    (s.ratchetKind v k).mgmt.activate = s.mgmt.activate := by
  obtain ⟨_, h⟩ := ratchetKind_frame v s k
  rw [h, setMgmt]

theorem minSvn_ratchetKind_same {v k : Nat} {s : State} {b : FwBank} (hb : s.fwBank k (s.bankOfKind k) = some b) :
    mget (s.ratchetKind v k).mgmt.minSvn k 0 =
      if bit v (4 + k) ∧ mget s.mgmt.minSvn k 0 < b.svn then b.svn else mget s.mgmt.minSvn k 0 := by
  by_cases hv : bit v (4 + k) <;> simp [ratchetKind, hv, hb, setMgmt]

theorem minSvn_ratchetKind_ne {j k : Nat} (v : Nat) (s : State) (h : j ≠ k) :
    mget (s.ratchetKind v k).mgmt.minSvn j 0 = mget s.mgmt.minSvn j 0 := by
  unfold ratchetKind
  split
  · split
    · exact mget_mset_ne _ _ _ _ _ h
    · rfl
  · rfl

/-! ### The kinds one after the other -/

theorem foldl_ratchetKind_banks (v : Nat) (l : List Nat) (s : State) :
    (l.foldl (ratchetKind v) s).mgmt.banks = s.mgmt.banks :=
  foldl_keeps (fun st => st.mgmt.banks) (ratchetKind_banks v) l s

theorem foldl_ratchetKind_activate (v : Nat) (l : List Nat) (s : State) :
    (l.foldl (ratchetKind v) s).mgmt.activate = s.mgmt.activate :=
  foldl_keeps (fun st => st.mgmt.activate) (ratchetKind_activate v) l s

theorem minSvn_foldl_ratchetKind_of_notMem {j : Nat} (v : Nat) {l : List Nat} (s : State) (hj : j ∉ l) :
    mget (l.foldl (ratchetKind v) s).mgmt.minSvn j 0 = mget s.mgmt.minSvn j 0 := by
  induction l generalizing s with
  | nil => rfl
  | cons k l ih =>
    obtain ⟨hk, hl⟩ := not_or.1 (mt List.mem_cons.2 hj)
    rw [List.foldl_cons, ih _ hl, minSvn_ratchetKind_ne v s hk]

/-- A kind's minimum is raised by its own step: the steps before it keep the banks, and those before and after it keep
its minimum. -/
theorem minSvn_foldl_ratchetKind {v k : Nat} {l : List Nat} {s : State} {b : FwBank} (hl : l.Nodup) (hk : k ∈ l)
    (hb : s.fwBank k (s.bankOfKind k) = some b) :
    mget (l.foldl (ratchetKind v) s).mgmt.minSvn k 0 =
      if bit v (4 + k) ∧ mget s.mgmt.minSvn k 0 < b.svn then b.svn else mget s.mgmt.minSvn k 0 := by
  induction l generalizing s with
  | nil => cases hk
  | cons j l ih =>
    obtain ⟨hj, hl⟩ := List.nodup_cons.1 hl
    rw [List.foldl_cons]
    rcases List.mem_cons.1 hk with rfl | hmem
    · rw [minSvn_foldl_ratchetKind_of_notMem v _ hj, minSvn_ratchetKind_same hb]
    · have hne : k ≠ j := fun e => hj (e ▸ hmem)
      have hb' : (s.ratchetKind v j).fwBank k ((s.ratchetKind v j).bankOfKind k) = some b := by
        simpa [fwBank, bankOfKind] using hb
      rw [ih hl hmem hb', minSvn_ratchetKind_ne v s hne]

/-! ### A write of MGT.FW_CTRL -/

/-- Where ACTIVATE is 0, the write sets the register and ratchets the kinds. -/
theorem fwCtrlEff_of_no_activate (staged : Bool) {v : Nat} (hact : v % 8 = 0) (s : State) :
    s.fwCtrlEff staged v = [0, 1, 2].foldl (ratchetKind v) (s.setRegNat Regs.fwCtrl (v % 2 ^ 32 &&& 0x77)) := by
  have hbits : bits v 2 0 = 0 := by simp [bits, hact]
  have hkinds : BitVec.ofNat 3 v = 0#3 := BitVec.eq_of_toNat_eq (by simp [hact])
  rw [fwCtrlEff, if_neg fun h => h.2 hbits]
  simp only [hkinds, BitVec.or_zero]
  rfl

theorem checkReg_fwCtrl {s : State} (t : State) {v : Nat} (hon : s.domainOn Regs.fwCtrl = true) (hg : rwgOk v = true)
    (hact : v % 8 = 0) : s.checkReg t .mgmt false Regs.fwCtrl v = .ok := by
  have hdesc : Regs.desc Regs.fwCtrl = some ⟨64, 0, 0x77, 0, 0, true, false⟩ := by decide
  have hname : RegName.at_ Regs.fwCtrl = .fwCtrl := by decide
  simp [checkReg, hdesc, hname, hon, hg, bits, hact]

/-- The management controller's guarded write of FW_CTRL acts at once. -/
theorem directWrite_fwCtrl {s : State} {v : Nat} (hon : s.domainOn Regs.fwCtrl = true) (hg : rwgOk v = true)
    (hact : v % 8 = 0) : s.directWrite .mgmt Regs.fwCtrl 8 v = s.fwCtrlEff false v := by
  have hpieces : piecesOf Regs.fwCtrl 8 v = [(.whole Regs.fwCtrl, v)] := rfl
  have hcheck (t : State) : s.checkPiece t .mgmt false (.whole Regs.fwCtrl) v = (Regs.fwCtrl, .ok) :=
    congrArg (fun w => (Regs.fwCtrl, w)) (checkReg_fwCtrl t hon hg hact)
  simp only [directWrite, hpieces, List.foldl_cons, List.foldl_nil, hcheck]
  rfl

/-! ### RATCHET -/

/-- The word that RATCHET writes: the mask in bits [6:4], and the complement. -/
def ratchetWord (mask : BitVec 3) : Nat := mask.toNat * 16 + (2 ^ 32 - 1 - mask.toNat * 16) * 2 ^ 32

theorem rwgOk_ratchetWord (mask : BitVec 3) : rwgOk (ratchetWord mask) = true := by
  decide +revert

theorem ratchetWord_mod_eight (mask : BitVec 3) : ratchetWord mask % 8 = 0 := by
  unfold ratchetWord
  omega

theorem bit_ratchetWord (mask : BitVec 3) {k : Nat} (hk : k < 3) : bit (ratchetWord mask) (4 + k) = bit mask.toNat k := by
  decide +revert

theorem exec_ratchet {s : State} (mask : BitVec 3) (hnow : s.writesNow .mgmt) :
    exec (.ratchet .mgmt mask (BitVec.ofNat 32 (2 ^ 32 - 1 - mask.toNat * 16))) s =
      .next ([0, 1, 2].foldl (ratchetKind (ratchetWord mask))
        (s.setRegNat Regs.fwCtrl (ratchetWord mask % 2 ^ 32 &&& 0x77))) := by
  have hword : mask.toNat * 16 % 2 ^ 32 + (BitVec.ofNat 32 (2 ^ 32 - 1 - mask.toNat * 16)).toNat * 2 ^ 32 =
      ratchetWord mask := by
    have := mask.isLt
    rw [ratchetWord, BitVec.toNat_ofNat]
    omega
  have hact := ratchetWord_mod_eight mask
  calc exec (.ratchet .mgmt mask (BitVec.ofNat 32 (2 ^ 32 - 1 - mask.toNat * 16))) s
    _ = .next (s.setupWrite .mgmt Regs.fwCtrl 8 (ratchetWord mask)) := by rw [← hword]; rfl
    _ = .next (s.fwCtrlEff false (ratchetWord mask)) := by
      rw [setupWrite_of_writesNow hnow rfl,
        directWrite_fwCtrl (domainOn_of_writesNow hnow _) (rwgOk_ratchetWord mask) hact]
    _ = _ := by rw [fwCtrlEff_of_no_activate false hact]

/-! ### An image below the minimum -/

theorem onMsg_of_accepts {s : State} {via : MsgVia} (h : s.accepts via) (open_ : Bool) (f : State → State) :
    s.onMsg via open_ f = f s := by
  obtain ⟨hup, hauth⟩ := h
  simp [onMsg, hup, hauth]

/-- An image is written to the inactive bank of its kind, as `firmwareEff` does (`exec_firmwareUpdate_of_svn_lt`). -/
def storeImage (kind : Nat) (b : FwBank) (s : State) : State :=
  s.setMgmt fun m => { m with banks := mset m.banks (kind * 2 + (1 - s.bankOfKind kind)) b }

theorem fwBank_storeImage (kind : Nat) (b : FwBank) (s : State) :
    (s.storeImage kind b).fwBank kind (1 - s.bankOfKind kind) = some b :=
  mfind_mset_same ..

/-- The image is kept as not valid, reported and answered with 0x7102. -/
theorem exec_firmwareUpdate_of_svn_lt {s : State} {via : MsgVia} {kind : Fin 3} {i : FwImage} (hacc : s.accepts via)
    (hsvn : i.svn < mget s.mgmt.minSvn kind.val 0) :
    exec (.firmwareUpdate via kind i) s = .next
      (((s.storeImage kind.val ⟨i.version, i.svn, i.digest, false⟩).report 0x7102 0x700).answer 0x7102 []) := by
  have hok : (i.sigOk && decide (mget s.mgmt.minSvn kind.val 0 ≤ i.svn)) = false := by
    rw [decide_eq_false (BitVec.not_le.2 hsvn), Bool.and_false]
  calc exec (.firmwareUpdate via kind i) s
    _ = .next (s.firmwareEff via kind.val i) := rfl
    _ = _ := by
      simp only [firmwareEff, onMsg_of_accepts hacc, hok]
      rfl

theorem answer_report_mgmt (code : W16) (unit : Nat) (code' : W16) (data : List Byte) (s : State) :
    ((s.report code unit).answer code' data).mgmt = s.mgmt := rfl

theorem answer_mem_sent (code : W16) (data : List Byte) (s : State) : Output.answer code data ∈ (s.answer code data).sent :=
  List.mem_cons_self

/-- The report and the answer leave the bank as it was stored, and its image may not run. -/
theorem rejected_image {s u : State} {kind : Nat} {b : FwBank} (hv : b.valid = false)
    (hu : u.mgmt = (s.storeImage kind b).mgmt) :
    u.fwBank kind (1 - s.bankOfKind kind) = some b ∧ u.nextImage kind = none := by
  have hbank : u.fwBank kind (1 - s.bankOfKind kind) = some b := by
    rw [fwBank, hu, ← fwBank, fwBank_storeImage]
  have hactive : u.bankOfKind kind = s.bankOfKind kind := by
    rw [bankOfKind, hu]
    rfl
  exact ⟨hbank, by simp [nextImage, hactive, hbank, hv]⟩

/-- Settles O59: the guarded write acts at once and steps through the kinds, each step raising its own minimum; an image
below the minimum goes to the inactive bank as not valid. -/
theorem ratchetRaisesMinimum : Obligations.RatchetRaisesMinimum := by
  unfold Obligations.RatchetRaisesMinimum
  constructor
  · intro s mask hnow
    refine ⟨_, exec_ratchet mask hnow, fun k b hk hb => ?_, foldl_ratchetKind_activate .., foldl_ratchetKind_banks ..⟩
    have hmem : k ∈ [0, 1, 2] := List.mem_range.2 hk
    have hset (x : Nat) : (s.setRegNat Regs.fwCtrl x).fwBank k ((s.setRegNat Regs.fwCtrl x).bankOfKind k) = some b := hb
    rw [minSvn_foldl_ratchetKind (by decide) hmem (hset _), setRegNat_mgmt, bit_ratchetWord mask hk]
  · intro s via kind i hacc hsvn
    refine ⟨_, exec_firmwareUpdate_of_svn_lt hacc hsvn, ?_⟩
    obtain ⟨hbank, hnext⟩ := rejected_image rfl
      (answer_report_mgmt 0x7102 0x700 0x7102 [] (s.storeImage kind.val ⟨i.version, i.svn, i.digest, false⟩))
    exact ⟨hbank, answer_mem_sent .., hnext⟩

end Sys2Proof.Machine.State
